-- ==== Sys2Proof/Word.lean ====
section
/-! DEFINITION. The words of the CM-416: bytes of the exchange memory, 16-bit registers, the 32-bit clock. -/

namespace Sys2Proof

/-- One byte of the exchange memory, of an image, or of a line character's data. -/
abbrev Byte := BitVec 8

/-- The width of a host register (12.2) and of the two-byte fields. -/
abbrev Word16 := BitVec 16

/-- A reading of the supervisor clock: milliseconds, 32 bits, wrapping (00_scope, Time). -/
abbrev Clock := BitVec 32

/-- A train identity: 1 to 8 characters (00_scope, Numbering and values). -/
abbrev Identity := List Byte

end Sys2Proof
end

