-- ==== Sys2Proof/Syntax.lean ====
section
/-! DEFINITION. The commands of the CM-416: one constructor for each row of spec/opcode_table.json, with what the
sender brings as operands. A request row (SET_ROUTE and the others of R188) carries none: it works on the copy of the
cell that TAKE_CELL handed to the owner (R187, log entry 7). -/

namespace Sys2Proof

/-- The two element buses (06). -/
inductive Bus where
  | a
  | b
  deriving DecidableEq, Repr

/-- One character on an element bus or border link (R109, R199): eight data bits, the marker bit and the stop bit. -/
structure LineChar where
  data : Byte
  marker : Bool
  stop : Bool
  deriving DecidableEq, Repr

/-- A host access to the exchange memory (R185). -/
inductive HostAccess where
  | read (addr len : Nat)
  | write (addr : Nat) (bytes : List Byte)
  deriving DecidableEq, Repr

/-- The registers a write to which can have no effect (11.3, R191). -/
inductive QuietRegister where
  | notice
  | mode
  | control
  deriving DecidableEq, Repr

/-- What every border telegram carries (7.1): the port it is received on, the sender's area identity, the sequence. -/
structure TelegramHead where
  port : Nat
  sender : Word16
  seq : Byte
  deriving DecidableEq, Repr

/-- A token view in a LINE STATE (R127, 12.6). A code above 3, which 12.6 does not name, is taken as it stands: a telegram
is valid whatever its own fields hold (R125, log entry 41). -/
inductive TokenView where
  | none
  | held
  | notHeld
  | blocked
  | other (code : Byte)
  deriving DecidableEq, Repr

/-- One line view of a LINE STATE (R127). -/
structure LineView where
  token : TokenView
  borderClear : Bool
  reception : Option Word16
  outgoing : Bool
  deriving DecidableEq, Repr

/-- The identity field of a telegram received, a length byte and eight characters (12.6): a length of 0, one of 1 to 8 with
the characters that count, or one above 8, which stands for no identity of 12 (log entry 41). -/
inductive TelegramIdentity where
  | absent
  | given (identity : Identity)
  | overlong (length : Byte) (chars : List Byte)
  deriving DecidableEq, Repr

/-- What a SELF_CHECK step finds (R183): the periodic CRC over the working copy is computed from State, and a read of
an internal memory that fails its check comes from outside the model. -/
inductive SelfCheckCause where
  | periodic
  | memoryFault (inAlarmList : Bool)
  deriving DecidableEq, Repr

/-- The commands: one constructor per row of spec/opcode_table.json, in the table's order. -/
inductive Instr where
  | hardRestart
  | post (value : Word16)
  | noticeRead
  | noticeMaskWrite (value : Word16)
  | restart
  | clearStray
  | registerWriteNoEffect (reg : QuietRegister) (value : Word16)
  | hostMemoryAccess (access : HostAccess)
  | keyLevelChange (level : Bool)
  | takeCell
  | setRoute
  | cancelRoute
  | callPoints
  | applyReminder
  | removeReminder
  | applyStandingRestriction
  | grantPossession
  | liftPossession
  | arm
  | restoreSection
  | emergencyRelease
  | removeStanding
  | forceLift
  | tokenRestore
  | receptionRelease
  | acknowledgeAlarm
  | loadSegment
  | loadReset
  | commitTables
  | leaveService
  | commandTelegramEnd (bus : Bus)
  | replyComplete (bus : Bus) (chars : List LineChar)
  | replyTimeout (bus : Bus)
  | confirmationTimerExpiry (sec : Nat)
  | moveTimerExpiry (point : Nat)
  | approachTimerExpiry (slot : Nat)
  | emergencyTimerExpiry (slot : Nat)
  | entryWaitExpiry (slot : Nat)
  | waitingEntryExpiry (route : Nat)
  | tokenWaitEntryExpiry (route : Nat)
  | overlapTimerExpiry (slot : Nat)
  | lineStateInterval
  | linkSilenceTimeout (port : Nat)
  | tokenWaitExpiry (line : Nat)
  | handoverSendTime (line : Nat)
  | lineState (head : TelegramHead) (views : List LineView)
  | tokenAsk (head : TelegramHead) (line : Byte)
  | tokenGive (head : TelegramHead) (line : Byte)
  | tokenDecline (head : TelegramHead) (line : Byte)
  | entryAsk (head : TelegramHead) (line : Byte) (reference : Word16) (identity : TelegramIdentity)
  | entryGrant (head : TelegramHead) (line : Byte) (reference : Word16)
  | entryDeny (head : TelegramHead) (line : Byte) (reference : Word16)
  | entryFree (head : TelegramHead) (line : Byte) (reference : Word16)
  | trainPass (head : TelegramHead) (line : Byte) (identity : TelegramIdentity)
  | trainTaken (head : TelegramHead) (line : Byte)
  | invalidBorderTelegram (port : Nat) (chars : List LineChar)
  | armEntryExpiry
  | recordWriteEnd (readsBack : Bool)
  | commitWriteEnd (readsBack : Bool)
  | selfCheck (cause : SelfCheckCause)
  | timeLockExpiry
  | resetAsserted
  deriving DecidableEq, Repr

end Sys2Proof
end

