-- ==== Sys2Proof/Machine/Tables.lean ====
section
/-! DEFINITION. The control tables (01): the entries of an image with their codes as they stand in the bytes (Raw…),
which the conditions of R5 to R17 are checked on, and the entries a checked image is used as. -/

namespace Sys2Proof.Machine

inductive Position where
  | normal
  | reverse
  deriving DecidableEq, Repr

/-- CIRCUIT or COUNTED (R7). -/
inductive SectionKind where
  | circuit
  | counted
  deriving DecidableEq, Repr

/-- The element kind behind a field unit slot (R14). -/
inductive SlotKind where
  | sec
  | point
  | signal
  deriving DecidableEq, Repr

/-- The direction mode of a border line (R15). -/
inductive Direction where
  | unfitted
  | outbound
  | inbound
  | bidirectional
  deriving DecidableEq, Repr

/-- R3. -/
structure Header where
  format : Nat
  length : Nat
  sections : Nat
  points : Nat
  signals : Nat
  routes : Nat
  overlaps : Nat
  units : Nat
  lines : Nat
  areas : Nat
  timeLock : Nat
  area : Nat
  crc : Nat
  deriving DecidableEq, Repr

structure RawSection where
  kind : Nat
  unit : Nat
  slot : Nat
  line : Nat
  delay : Nat
  deriving DecidableEq, Repr

structure RawPoint where
  ends : Nat
  unit1 : Nat
  slot1 : Nat
  unit2 : Nat
  slot2 : Nat
  sec : Nat
  limit : Nat
  deriving DecidableEq, Repr

structure RawSignal where
  unit : Nat
  slot : Nat
  approach : List Nat
  deriving DecidableEq, Repr

structure RawPathPoint where
  point : Nat
  pos : Nat
  index : Nat
  deriving DecidableEq, Repr

structure RawFlank where
  kind : Nat
  number : Nat
  pos : Nat
  subKind : Nat
  subNumber : Nat
  subPos : Nat
  index : Nat
  deriving DecidableEq, Repr

structure RawRoute where
  entry : Nat
  exitKind : Nat
  exit : Nat
  flags : Nat
  release : Nat
  path : List Nat
  points : List RawPathPoint
  overlaps : List Nat
  flanks : List RawFlank
  deriving DecidableEq, Repr

/-- A point and its required position code. -/
structure RawPointPos where
  point : Nat
  pos : Nat
  deriving DecidableEq, Repr

structure RawOverlap where
  release : Nat
  sections : List Nat
  points : List RawPointPos
  deriving DecidableEq, Repr

structure RawUnit where
  bus : Nat
  address : Nat
  kinds : List Nat
  deriving DecidableEq, Repr

structure RawLine where
  port : Nat
  lineOnPort : Nat
  mode : Nat
  border : Nat
  holder : Nat
  recSections : List Nat
  recPoints : List RawPointPos
  endSignal : Nat
  neighbour : Nat
  deriving DecidableEq, Repr

structure RawArea where
  sections : List Nat
  boundary : List Nat
  deriving DecidableEq, Repr

/-- An image with its codes as they stand. -/
structure RawImage where
  head : Header
  sections : List RawSection
  points : List RawPoint
  signals : List RawSignal
  routes : List RawRoute
  overlaps : List RawOverlap
  units : List RawUnit
  lines : List RawLine
  areas : List RawArea
  deriving DecidableEq, Repr

/-- R7. -/
structure SectionEntry where
  kind : SectionKind
  unit : Nat
  slot : Nat
  line : Option Nat
  delay : Nat
  deriving DecidableEq, Repr

/-- The field unit and slot of one end (R8). -/
structure Channel where
  unit : Nat
  slot : Nat
  deriving DecidableEq, Repr

/-- R8. The move limit is in seconds. -/
structure PointEntry where
  ends : List Channel
  sec : Nat
  limit : Nat
  deriving DecidableEq, Repr

/-- R9. -/
structure SignalEntry where
  unit : Nat
  slot : Nat
  approach : List Nat
  deriving DecidableEq, Repr

inductive Exit where
  | signal (n : Nat)
  | line (n : Nat)
  deriving DecidableEq, Repr

structure PathPoint where
  point : Nat
  pos : Position
  index : Nat
  deriving DecidableEq, Repr

inductive FlankElement where
  | point (n : Nat) (pos : Position)
  | signal (n : Nat)
  deriving DecidableEq, Repr

structure FlankEntry where
  primary : FlankElement
  substitute : Option FlankElement
  index : Nat
  deriving DecidableEq, Repr

/-- R10, R11. The approach release time is in seconds. -/
structure RouteEntry where
  entry : Nat
  exit : Exit
  path : List Nat
  points : List PathPoint
  overlaps : List Nat
  flanks : List FlankEntry
  release : Nat
  sweepAllowed : Bool
  deriving DecidableEq, Repr

structure PointPos where
  point : Nat
  pos : Position
  deriving DecidableEq, Repr

/-- R13. The release time is in seconds. -/
structure OverlapEntry where
  sections : List Nat
  points : List PointPos
  release : Nat
  deriving DecidableEq, Repr

/-- R14. -/
structure UnitEntry where
  bus : Bus
  address : Nat
  slots : List SlotKind
  deriving DecidableEq, Repr

/-- R15. localFirst is the initial token holder LOCAL. -/
structure LineEntry where
  mode : Direction
  border : Nat
  localFirst : Bool
  recSections : List Nat
  recPoints : List PointPos
  endSignal : Nat
  neighbour : Nat
  deriving DecidableEq, Repr

/-- R17. -/
structure AreaEntry where
  sections : List Nat
  boundary : List Nat
  deriving DecidableEq, Repr

/-- A checked image as the blocks use it. -/
structure Image where
  head : Header
  sections : List SectionEntry
  points : List PointEntry
  signals : List SignalEntry
  routes : List RouteEntry
  overlaps : List OverlapEntry
  units : List UnitEntry
  lines : List LineEntry
  areas : List AreaEntry
  deriving DecidableEq, Repr

end Sys2Proof.Machine
end

