-- ==== Sys2Proof/Machine/Records.lean ====
section
/-! DEFINITION. The dynamic records each block holds, as plain data. -/

namespace Sys2Proof.Machine

/-- R172. -/
inductive Mode where
  | configuring
  | observing
  | service
  | halted
  deriving DecidableEq, Repr

/-- The element kinds of 12.1. -/
inductive Kind where
  | sec
  | point
  | signal
  | unit
  | port
  | line
  | device
  | route
  | area
  | overlap
  deriving DecidableEq, Repr

/-- An element or a target: its kind and number (8.3). -/
structure Element where
  kind : Kind
  number : Nat
  deriving DecidableEq, Repr

/-- The reasons, causes and preconditions of 12.1 (R39, R45, 8.4, R180). -/
inductive Reason where
  | none
  | owned
  | occupied
  | disturbed
  | oppositePosition
  | restricted
  | possessed
  | border
  | setFull
  | pointFailed
  | unexpectedOccupation
  | driveNotStarted
  | pointNotProved
  | flankSignalNotStop
  | unitNotActive
  | sectionNotClear
  | overlapNotLocked
  | lampFault
  | grantLost
  | notCounted
  | notDisturbed
  | notBlocked
  | linkNotUp
  | neighbourView
  | linkNotDown
  | receptionEntered
  | routeSet
  | waitingList
  | reception
  deriving DecidableEq, Repr

/-- An element with the reason given for it. -/
structure Finding where
  element : Element
  reason : Reason
  deriving DecidableEq, Repr

/-! ### The element table (02) -/

inductive Occupancy where
  | clear
  | occupied
  | clearing
  | disturbed
  | restoring
  deriving DecidableEq, Repr

/-- Owner kind and index in one (2.2). -/
inductive Owner where
  | free
  | route (slot : Nat)
  | overlap (slot : Nat)
  | reception (line : Nat)
  | possession (area : Nat)
  deriving DecidableEq, Repr

structure SectionRec where
  occupancy : Occupancy
  owner : Owner
  reminder : Bool
  standing : Bool
  passage : Bool
  identity : Option Identity
  changedAt : Clock
  confirm : Option Clock
  deriving DecidableEq, Repr

inductive PointState where
  | unknown
  | atRest
  | moving
  | failed
  | lostDetection
  deriving DecidableEq, Repr

structure PointRec where
  ref : Option Position
  detection : List (Option Position)
  state : PointState
  pathCount : Nat
  overlapCount : Nat
  flankCount : Nat
  claimed : Option Position
  reminder : Bool
  standing : Bool
  possessed : Bool
  pendingCall : Option Nat
  moveTimer : Option Clock
  deriving DecidableEq, Repr

inductive Aspect where
  | stop
  | proceed
  | restricted
  deriving DecidableEq, Repr

inductive Shown where
  | stop
  | proceed
  | restricted
  | dark
  deriving DecidableEq, Repr

structure SignalRec where
  commanded : Aspect
  shown : Shown
  proved : Bool
  matchCount : Nat
  mismatchCount : Nat
  lampFault : Bool
  owningSlot : Option Nat
  flankCount : Nat
  possessionCount : Nat
  reminder : Bool
  standing : Bool
  deriving DecidableEq, Repr

/-- The three kinds of claim on a point (R38). -/
inductive ClaimKind where
  | path
  | overlap
  | flank
  deriving DecidableEq, Repr

/-- The occupancy condition of a section item (R38). -/
inductive OccupancyCondition where
  | clear
  | sweep
  | any
  deriving DecidableEq, Repr

/-- The owner a claim set or release set names (R38). -/
inductive Claimant where
  | slot (n : Nat)
  | line (n : Nat)
  | area (n : Nat)
  deriving DecidableEq, Repr

/-- A hold on one element, as a claim set item asks for it and a release set item gives it up (R38). -/
inductive Hold where
  | sec (n : Nat) (owner : Owner)
  | point (n : Nat) (kind : ClaimKind) (pos : Position)
  | pointPossession (n : Nat)
  | signalEntry (n : Nat) (slot : Nat)
  | signalFlank (n : Nat)
  | signalPossession (n : Nat)
  deriving DecidableEq, Repr

/-- An item of a claim set: the hold, and for a section its occupancy condition and optional identity (R38). -/
structure ClaimItem where
  hold : Hold
  condition : OccupancyCondition
  identity : Option Identity
  deriving DecidableEq, Repr

/-- One entry of the lists of R41: a hold and who has it. -/
structure HoldRec where
  claimant : Claimant
  hold : Hold
  deriving DecidableEq, Repr

/-! ### The route engine and the protection unit (03, 04, 05) -/

inductive RouteState where
  | setting
  | stalled
  | locked
  | cleared
  | held
  | passing
  | cancelling
  | emergency
  deriving DecidableEq, Repr

inductive TimerKind where
  | approach
  | emergency
  deriving DecidableEq, Repr

structure RouteTimer where
  kind : TimerKind
  expiry : Clock
  deriving DecidableEq, Repr

inductive OverlapState where
  | claimed
  | locked
  | timing
  | expired
  deriving DecidableEq, Repr

structure OverlapPart where
  number : Nat
  state : OverlapState
  expiry : Option Clock
  deriving DecidableEq, Repr

/-- One flank assignment (R88): PRIMARY or SUBSTITUTE, released or not. -/
structure FlankPart where
  substitute : Bool
  released : Bool
  deriving DecidableEq, Repr

inductive Grant where
  | none
  | asked
  | granted
  | lost
  deriving DecidableEq, Repr

structure BorderPart where
  line : Nat
  grant : Grant
  expiry : Option Clock
  deriving DecidableEq, Repr

/-- One Route Set entry (R45); its slot is its place. -/
structure RouteRec where
  route : Nat
  state : RouteState
  reason : Option Finding
  sweep : Bool
  identity : Option Identity
  cell : Option Nat
  released : Nat
  timer : Option RouteTimer
  overlap : Option OverlapPart
  flank : List FlankPart
  border : Option BorderPart
  deriving DecidableEq, Repr

/-- One waiting list entry (R46). DEFERRED has no expiry. -/
structure WaitingRec where
  route : Nat
  deferred : Bool
  sweep : Bool
  identity : Option Identity
  storeTime : Nat
  expiry : Option Clock
  cell : Nat
  deriving DecidableEq, Repr

/-! ### The element bus controllers (06) -/

inductive UnitState where
  | unknown
  | syncing
  | active
  | suspect
  | lost
  | fault
  deriving DecidableEq, Repr

/-- The value commanded in a slot (R44). -/
inductive SlotValue where
  | signal (aspect : Aspect)
  | hold
  | drive (pos : Position)
  | none
  deriving DecidableEq, Repr

inductive SectionStatus where
  | clear
  | occupied
  | disturbed
  | fault
  deriving DecidableEq, Repr

/-- The status reported in a slot (R112). -/
inductive SlotStatus where
  | sec (status : SectionStatus)
  | point (pos : Option Position)
  | signal (shown : Shown)
  deriving DecidableEq, Repr

structure UnitRec where
  state : UnitState
  miss : Nat
  good : Nat
  nextSeq : Nat
  image : List SlotValue
  lastStatus : Option (List SlotStatus)
  lastReply : Option Clock
  deriving DecidableEq, Repr

/-- The outstanding exchange (R107, R111): spent when a complete reply was found invalid, so that what follows is
discarded until the timeout. -/
structure Exchange where
  unit : Nat
  seq : Nat
  sent : List SlotValue
  endTime : Option Clock
  spent : Bool
  deriving DecidableEq, Repr

structure BusRec where
  position : Option Nat
  urgent : List Nat
  exchange : Option Exchange
  deriving DecidableEq, Repr

/-! ### The border unit (07) -/

inductive LinkState where
  | down
  | starting
  | up
  deriving DecidableEq, Repr

structure LinkRec where
  state : LinkState
  valid : Nat
  lastValid : Option Clock
  transmit : Byte
  expected : Option Byte
  gap : Nat
  errorReported : Bool
  neighbour : Nat
  deriving DecidableEq, Repr

inductive Token where
  | held
  | notHeld
  | blocked
  deriving DecidableEq, Repr

structure Reception where
  reference : Word16
  identity : Option Identity
  released : Nat
  grantSent : Bool
  deriving DecidableEq, Repr

/-- A handover that is SENDING (R129); IDLE is its absence. -/
structure Handover where
  identity : Option Identity
  sends : Nat
  next : Clock
  deriving DecidableEq, Repr

structure LineRec where
  token : Option Token
  disagreement : Bool
  givePending : Bool
  tokenAsk : Option Clock
  entryAsk : Option Word16
  reception : Option Reception
  handover : Option Handover
  handedSlot : Option Nat
  view : Option LineView
  deferredFree : Option Word16
  outgoingNone : Nat
  deriving DecidableEq, Repr

/-- A border telegram as the supervisor sends or takes it (7.1). -/
inductive Telegram where
  | lineState (views : List LineView)
  | tokenAsk (line : Nat)
  | tokenGive (line : Nat)
  | tokenDecline (line : Nat)
  | entryAsk (line : Nat) (reference : Word16) (identity : Option Identity)
  | entryGrant (line : Nat) (reference : Word16)
  | entryDeny (line : Nat) (reference : Word16)
  | entryFree (line : Nat) (reference : Word16)
  | trainPass (line : Nat) (identity : Option Identity)
  | trainTaken (line : Nat)
  deriving DecidableEq, Repr

/-- What went out on a line in a step: a command telegram on an element bus (R110) or a border telegram (R127). -/
inductive Sent where
  | command (bus : Bus) (unit : Nat) (chars : List LineChar)
  | border (port : Nat) (telegram : Telegram) (chars : List LineChar)
  deriving DecidableEq, Repr

/-! ### The restriction unit (08) -/

inductive PossessionState where
  | free
  | granted
  | barred
  deriving DecidableEq, Repr

structure PossessionRec where
  state : PossessionState
  reference : Option Nat
  attempts : Nat
  grantedAt : Option Clock
  deriving DecidableEq, Repr

/-- The six qualified operations (8.3). -/
inductive Operation where
  | restoreSection
  | emergencyRelease
  | removeStanding
  | forceLift
  | tokenRestore
  | receptionRelease
  deriving DecidableEq, Repr

structure ArmRec where
  operation : Operation
  target : Element
  armTime : Clock
  deriving DecidableEq, Repr

/-! ### The alarm list (09) -/

inductive AlarmKind where
  | pointFailed
  | pointDetectionLost
  | signalLampFault
  | signalWrongAspect
  | signalPassedAtStop
  | sectionDisturbed
  | unexpectedOccupation
  | controllerLost
  | controllerFault
  | borderLinkDown
  | borderProtocolError
  | tokenDisagreement
  | handoverUnconfirmed
  | storeFault
  | tableSelfCheck
  deriving DecidableEq, Repr

inductive AlarmState where
  | standing
  | accepted
  | lapsed
  deriving DecidableEq, Repr

structure AlarmRec where
  seq : Nat
  kind : AlarmKind
  element : Element
  state : AlarmState
  raisedAt : Clock
  changedAt : Clock
  repeats : Nat
  deriving DecidableEq, Repr

/-! ### Requests and answers (11) -/

inductive RequestKind where
  | setRoute
  | cancelRoute
  | callPoints
  | applyReminder
  | removeReminder
  | applyStanding
  | grantPossession
  | liftPossession
  | arm
  | execute
  | acknowledgeAlarm
  | loadSegment
  | loadReset
  | commitTables
  | leaveService
  deriving DecidableEq, Repr

/-- The exchange port's own request record (R187): the copied body is the cell's bytes 28 to 127; segment is what the
staging area held when a LOAD SEGMENT was taken (R175, R185), and empty for every other kind. -/
structure Request where
  cell : Nat
  kind : RequestKind
  body : List Byte
  takenAt : Clock
  segment : List Byte
  deriving DecidableEq, Repr

/-- The outcomes of 12.1. -/
inductive CellOutcome where
  | done
  | set
  | refusedMode
  | badParameter
  | active
  | conflict
  | restricted
  | possessed
  | setFull
  | waitFull
  | expired
  | withdrawn
  | stalled
  | lampFault
  | borderRefused
  | overtaken
  | failed
  | occupied
  | claimed
  | passing
  | notFound
  | timing
  | notArmed
  | tooEarly
  | armFull
  | duplicate
  | mismatch
  | barred
  | keyOff
  | sequence
  | checkFailed
  | loadAborted
  | incomplete
  | possessionsActive
  | notEmpty
  | restarted
  | storeFault
  deriving DecidableEq, Repr

/-- The forms of detail (12.3). -/
inductive Detail where
  | none
  | element (element : Element) (reason : Reason) (owner : Nat)
  | routePlace (place : Nat) (position : Nat) (state : Nat)
  | timer (seconds : Nat) (expiry : Clock)
  | check (kind : Nat) (entry : Nat) (condition : Nat)
  | count (value : Nat) (complete : Bool)
  | parameter (offset : Nat)
  | mode (mode : Mode)
  | precondition (reason : Reason)
  | priorState (state : AlarmState)
  deriving DecidableEq, Repr

structure Answer where
  cell : Nat
  outcome : CellOutcome
  detail : Detail
  deriving DecidableEq, Repr

inductive StrayCause where
  | badRun
  | inFlight
  | notPosted
  deriving DecidableEq, Repr

structure Stray where
  cause : StrayCause
  cell : Nat
  deriving DecidableEq, Repr

/-- What the host's last read returned (R185, R190). -/
inductive HostRead where
  | none
  | register (value : Word16)
  | memory (bytes : List Byte)
  deriving DecidableEq, Repr

/-! ### The table store (10) -/

structure StoredImage where
  valid : Bool
  bytes : List Byte
  deriving DecidableEq, Repr

/-- A possession record as the persistent section keeps it (R147). -/
structure StoredPossession where
  state : PossessionState
  reference : Option Nat
  attempts : Nat
  deriving DecidableEq, Repr

/-- The persistent section (R173). -/
structure Persistent where
  sections : List Bool
  points : List Bool
  signals : List Bool
  areas : List StoredPossession
  tokens : List (Option Token)
  deriving DecidableEq, Repr

/-- The working copy of the image in force (R2): its bytes, and the entries they are read as (log entry 26). -/
structure WorkingCopy where
  bytes : List Byte
  image : Image
  deriving DecidableEq, Repr

/-- What a record write names and carries (R174). -/
inductive RecordValue where
  | standing (element : Element) (mark : Bool)
  | possession (area : Nat) (record : StoredPossession)
  | token (line : Nat) (token : Token)
  deriving DecidableEq, Repr

/-- To whom the end of a record write is reported (R174): the restriction unit, which answers a cell; the border unit,
which sends the TOKEN GIVE (R132); or a block that does nothing on it. -/
inductive Report where
  | answer (answer : Answer)
  | give (line : Nat)
  | nothing
  deriving DecidableEq, Repr

inductive Write where
  | record (value : RecordValue) (report : Report)
  | commit (cell : Nat)
  deriving DecidableEq, Repr

inductive LoadState where
  | idle
  | receiving
  | aborted
  | committing
  deriving DecidableEq, Repr

/-- The load record and the load buffer (R175). -/
structure LoadRec where
  state : LoadState
  next : Nat
  received : Nat
  length : Option Nat
  buffer : List Byte
  deriving DecidableEq, Repr

/-! ### The mode controller (10) -/

inductive SweepStage where
  | none
  | sweeping
  | locking
  | ended
  deriving DecidableEq, Repr

structure Sweep where
  stage : SweepStage
  seen : List Bool
  lockExpiry : Option Clock
  deriving DecidableEq, Repr

/-! ### What one step hands on -/

/-- A record of the exchange memory (11.1). -/
inductive MirrorRec where
  | identity
  | summary
  | sec (n : Nat)
  | point (n : Nat)
  | signal (n : Nat)
  | slot (n : Nat)
  | waiting (place : Nat)
  | unit (n : Nat)
  | link (port : Nat)
  | line (n : Nat)
  | area (n : Nat)
  | arm (place : Nat)
  | alarm (place : Nat)
  deriving DecidableEq, Repr

/-- A raise or an end handed to the alarm list (9.2). -/
inductive AlarmOp where
  | raised (kind : AlarmKind) (element : Element) (time : Clock)
  | ended (kind : AlarmKind) (element : Element) (time : Clock)
  deriving DecidableEq, Repr

/-- A section that became OCCUPIED in this step, with its passage mark before (R71). -/
structure Occupation where
  sec : Nat
  marked : Bool
  deriving DecidableEq, Repr

/-- The hand-offs collected inside one step and empty between steps: records changed (R18, R193), answers (R189),
alarm raises and ends (R161), telegrams, the element table's notices (R42, R43), the notice of a token HELD (R133), and
halt: an internal check has failed, and the supervisor enters HALTED when the event is closed (R183). -/
structure Work where
  dirty : List MirrorRec
  answers : List Answer
  alarms : List AlarmOp
  sent : List Sent
  occupations : List Occupation
  touched : List Nat
  failures : List Nat
  freed : Bool
  tokenHeld : Bool
  modeNotice : Bool
  halt : Bool
  deriving DecidableEq, Repr

end Sys2Proof.Machine
end

