-- ==== Sys2Proof/Machine/Bytes.lean ====
section
/-! DEFINITION. Byte order, CRCs, clock comparison and the codes of 12.1 and 12.4: the helpers every format uses. -/

namespace Sys2Proof.Machine

/-! ### The clock (R1) -/

/-- The reading ms milliseconds after t, modulo the wrap (R1). -/
def Clock.after (t : Clock) (ms : Nat) : Clock := t + BitVec.ofNat 32 ms

/-- How long ago t was, modulo the wrap (R1). -/
def Clock.age (now t : Clock) : Nat := (now - t).toNat

/-- The clock has come to the expiry: within half the wrap after it (R1). -/
def Clock.reached (now expiry : Clock) : Bool := Clock.age now expiry < 2147483648

/-- The clock has come to the expiry, if there is one. -/
def Clock.due (now : Clock) : Option Clock → Bool
  | none => false
  | some e => Clock.reached now e

/-! ### Byte order (12): least significant first in memory, most significant first in telegrams -/

/-- The k low bytes of n, least significant first. -/
def bytesLE : Nat → Nat → List Byte
  | 0, _ => []
  | k + 1, n => BitVec.ofNat 8 n :: bytesLE k (n / 256)

/-- The number k bytes stand for, least significant first. -/
def ofBytesLE : List Byte → Nat
  | [] => 0
  | b :: bs => b.toNat + 256 * ofBytesLE bs

/-- Two bytes, most significant first. -/
def bytesBE16 (n : Nat) : List Byte := [BitVec.ofNat 8 (n / 256), BitVec.ofNat 8 n]

/-- A clock reading as four bytes. -/
def clockBytes (t : Clock) : List Byte := bytesLE 4 t.toNat

/-- An optional clock reading; absent as zero, which in a record that is present 12.4 states for a DEFERRED expiry alone:
elsewhere the model's choice (log entry 48). -/
def optClockBytes : Option Clock → List Byte
  | none => [0, 0, 0, 0]
  | some t => clockBytes t

/-- k zero bytes. -/
def zeros (k : Nat) : List Byte := List.replicate k 0

/-- The bytes at offsets a to a + k - 1, short at the end of the list. -/
def slice (bs : List Byte) (a k : Nat) : List Byte := (bs.drop a).take k

/-- The byte at offset a, or 0. -/
def byteAt (bs : List Byte) (a : Nat) : Nat := (bs.getD a 0).toNat

/-- The number in k bytes at offset a, least significant first. -/
def fieldAt (bs : List Byte) (a k : Nat) : Nat := ofBytesLE (slice bs a k)

/-- A byte from a number. -/
def byte (n : Nat) : Byte := BitVec.ofNat 8 n

/-- Bit number k set or not. -/
def flag (b : Bool) (k : Nat) : Nat := if b then 2 ^ k else 0

/-- A train identity's nine bytes: a length byte, then eight character bytes (12). -/
def identityBytes : Option Identity → List Byte
  | none => zeros 9
  | some i => byte i.length :: (i ++ zeros 8).take 8

/-- The identity nine bytes stand for: no identity when the length byte is 0 (12). -/
def identityOf (bs : List Byte) : Option Identity :=
  if byteAt bs 0 = 0 then none else some ((bs.drop 1).take (byteAt bs 0))

/-! ### The two CRCs (R198) -/

/-- One bit of CRC-32, least significant bit first: the polynomial 0x04C11DB7 reflected. -/
def crc32Bit (c : BitVec 32) : BitVec 32 :=
  if c.getLsbD 0 then (c >>> 1) ^^^ 0xEDB88320#32 else c >>> 1

/-- One byte of CRC-32. -/
def crc32Byte (c : BitVec 32) (b : Byte) : BitVec 32 :=
  (List.range 8).foldl (fun c _ => crc32Bit c) (c ^^^ b.setWidth 32)

/-- CRC-32 over bytes: register from 0xFFFFFFFF, result inverted (R198). -/
def crc32 (bs : List Byte) : BitVec 32 := ~~~(bs.foldl crc32Byte 0xFFFFFFFF#32)

/-- The image CRC: over the image with bytes 60 to 63 counted as zero (R198). -/
def imageCrc (bs : List Byte) : BitVec 32 := crc32 (bs.take 60 ++ zeros 4 ++ bs.drop 64)

/-- The image CRC field: bytes 60 to 63 (12.5). -/
def imageCrcField (bs : List Byte) : BitVec 32 := BitVec.ofNat 32 (fieldAt bs 60 4)

/-- One bit of CRC-16, most significant bit first, polynomial 0x1021. -/
def crc16Bit (c : BitVec 16) : BitVec 16 :=
  if c.getLsbD 15 then (c <<< 1) ^^^ 0x1021#16 else c <<< 1

/-- One byte of CRC-16. -/
def crc16Byte (c : BitVec 16) (b : Byte) : BitVec 16 :=
  (List.range 8).foldl (fun c _ => crc16Bit c) (c ^^^ (b.setWidth 16 <<< 8))

/-- CRC-16 over bytes: register from 0xFFFF, not inverted (R198). -/
def crc16 (bs : List Byte) : BitVec 16 := bs.foldl crc16Byte 0xFFFF#16

/-! ### Line characters (R109, R199) -/

/-- The marker of a received character: one with a low stop bit counts as a character with its marker clear (R199). -/
def LineChar.marked (c : LineChar) : Bool := c.marker && c.stop

/-- The bits of a character on the line in sending order: start bit low, eight data bits least significant first, the
marker bit, the stop bit (R199). -/
def LineChar.bits (c : LineChar) : List Bool :=
  [false] ++ (List.range 8).map (fun k => c.data.getLsbD k) ++ [c.marker, c.stop]

/-- A telegram's characters: the opening character marked, the others not, and the two CRC characters over all the data
bytes at the end, high byte first (R109, R198, 12.6). -/
def telegramChars (bytes : List Byte) : List LineChar :=
  let all := bytes ++ bytesBE16 (crc16 bytes).toNat
  match all with
  | [] => []
  | b :: bs =>
    { data := b, marker := true, stop := true } :: bs.map (fun d => { data := d, marker := false, stop := true })

/-- The two CRC characters at the end match the CRC-16 over the data bytes before them (R198). -/
def crc16Ok (bytes : List Byte) : Bool :=
  let n := bytes.length - 2
  bytes.drop n == bytesBE16 (crc16 (bytes.take n)).toNat

/-! ### Codes (12.1, 12.4, 12.6) -/

def Mode.code : Mode → Nat
  | .configuring => 0
  | .observing => 1
  | .service => 2
  | .halted => 3

def LoadState.code : LoadState → Nat
  | .idle => 0
  | .receiving => 1
  | .aborted => 2
  | .committing => 3

def Kind.code : Kind → Nat
  | .sec => 1
  | .point => 2
  | .signal => 3
  | .unit => 4
  | .port => 5
  | .line => 6
  | .device => 7
  | .route => 8
  | .area => 9
  | .overlap => 10

def Kind.ofCode : Nat → Option Kind
  | 1 => some .sec
  | 2 => some .point
  | 3 => some .signal
  | 4 => some .unit
  | 5 => some .port
  | 6 => some .line
  | 7 => some .device
  | 8 => some .route
  | 9 => some .area
  | 10 => some .overlap
  | _ => none

def Position.code : Position → Nat
  | .normal => 1
  | .reverse => 2

def Position.ofCode : Nat → Option Position
  | 1 => some .normal
  | 2 => some .reverse
  | _ => none

def positionCode : Option Position → Nat
  | none => 0
  | some p => p.code

def RequestKind.ofCode : Nat → Option RequestKind
  | 1 => some .setRoute
  | 2 => some .cancelRoute
  | 3 => some .callPoints
  | 4 => some .applyReminder
  | 5 => some .removeReminder
  | 6 => some .applyStanding
  | 7 => some .grantPossession
  | 8 => some .liftPossession
  | 9 => some .arm
  | 10 => some .execute
  | 11 => some .acknowledgeAlarm
  | 12 => some .loadSegment
  | 13 => some .loadReset
  | 14 => some .commitTables
  | 15 => some .leaveService
  | _ => none

def CellOutcome.code : CellOutcome → Nat
  | .done => 1
  | .set => 2
  | .refusedMode => 3
  | .badParameter => 4
  | .active => 5
  | .conflict => 6
  | .restricted => 7
  | .possessed => 8
  | .setFull => 9
  | .waitFull => 10
  | .expired => 11
  | .withdrawn => 12
  | .stalled => 13
  | .lampFault => 14
  | .borderRefused => 15
  | .overtaken => 16
  | .failed => 17
  | .occupied => 18
  | .claimed => 19
  | .passing => 20
  | .notFound => 21
  | .timing => 22
  | .notArmed => 23
  | .tooEarly => 24
  | .armFull => 25
  | .duplicate => 26
  | .mismatch => 27
  | .barred => 28
  | .keyOff => 29
  | .sequence => 30
  | .checkFailed => 31
  | .loadAborted => 32
  | .incomplete => 33
  | .possessionsActive => 34
  | .notEmpty => 35
  | .restarted => 36
  | .storeFault => 37

def Reason.code : Reason → Nat
  | .none => 0
  | .owned => 1
  | .occupied => 2
  | .disturbed => 3
  | .oppositePosition => 4
  | .restricted => 5
  | .possessed => 6
  | .border => 7
  | .setFull => 8
  | .pointFailed => 16
  | .unexpectedOccupation => 17
  | .driveNotStarted => 18
  | .pointNotProved => 19
  | .flankSignalNotStop => 20
  | .unitNotActive => 21
  | .sectionNotClear => 22
  | .overlapNotLocked => 23
  | .lampFault => 24
  | .grantLost => 25
  | .notCounted => 32
  | .notDisturbed => 33
  | .notBlocked => 34
  | .linkNotUp => 35
  | .neighbourView => 36
  | .linkNotDown => 37
  | .receptionEntered => 38
  | .routeSet => 39
  | .waitingList => 40
  | .reception => 41

def Operation.code : Operation → Nat
  | .restoreSection => 1
  | .emergencyRelease => 2
  | .removeStanding => 3
  | .forceLift => 4
  | .tokenRestore => 5
  | .receptionRelease => 6

def Operation.ofCode : Nat → Option Operation
  | 1 => some .restoreSection
  | 2 => some .emergencyRelease
  | 3 => some .removeStanding
  | 4 => some .forceLift
  | 5 => some .tokenRestore
  | 6 => some .receptionRelease
  | _ => none

def AlarmKind.code : AlarmKind → Nat
  | .pointFailed => 1
  | .pointDetectionLost => 2
  | .signalLampFault => 3
  | .signalWrongAspect => 4
  | .signalPassedAtStop => 5
  | .sectionDisturbed => 6
  | .unexpectedOccupation => 7
  | .controllerLost => 8
  | .controllerFault => 9
  | .borderLinkDown => 10
  | .borderProtocolError => 11
  | .tokenDisagreement => 12
  | .handoverUnconfirmed => 13
  | .storeFault => 14
  | .tableSelfCheck => 15

/-- R166: the kinds that mark one moment and have no duration. -/
def AlarmKind.event : AlarmKind → Bool
  | .signalPassedAtStop => true
  | .unexpectedOccupation => true
  | .borderProtocolError => true
  | .handoverUnconfirmed => true
  | .storeFault => true
  | _ => false

def AlarmState.code : AlarmState → Nat
  | .standing => 1
  | .accepted => 2
  | .lapsed => 3

def Occupancy.code : Occupancy → Nat
  | .clear => 1
  | .occupied => 2
  | .clearing => 3
  | .disturbed => 4
  | .restoring => 5

def Owner.code : Owner → Nat
  | .free => 0
  | .route _ => 1
  | .overlap _ => 2
  | .reception _ => 3
  | .possession _ => 4

def Owner.index : Owner → Nat
  | .free => 0
  | .route n => n
  | .overlap n => n
  | .reception n => n
  | .possession n => n

def PointState.code : PointState → Nat
  | .unknown => 1
  | .atRest => 2
  | .moving => 3
  | .failed => 4
  | .lostDetection => 5

def Aspect.code : Aspect → Nat
  | .stop => 1
  | .proceed => 2
  | .restricted => 3

def Shown.code : Shown → Nat
  | .stop => 1
  | .proceed => 2
  | .restricted => 3
  | .dark => 4

def RouteState.code : RouteState → Nat
  | .setting => 1
  | .stalled => 2
  | .locked => 3
  | .cleared => 4
  | .held => 5
  | .passing => 6
  | .cancelling => 7
  | .emergency => 8

def TimerKind.code : TimerKind → Nat
  | .approach => 1
  | .emergency => 2

def OverlapState.code : OverlapState → Nat
  | .claimed => 1
  | .locked => 2
  | .timing => 3
  | .expired => 4

def Grant.code : Grant → Nat
  | .none => 0
  | .asked => 1
  | .granted => 2
  | .lost => 3

def UnitState.code : UnitState → Nat
  | .unknown => 1
  | .syncing => 2
  | .active => 3
  | .suspect => 4
  | .lost => 5
  | .fault => 6

/-- 12.6: the slot value codes. -/
def SlotValue.code : SlotValue → Nat
  | .signal .stop => 0
  | .signal .proceed => 1
  | .signal .restricted => 2
  | .hold => 0
  | .drive .normal => 1
  | .drive .reverse => 2
  | .none => 0

/-- 12.6: the status codes. -/
def SlotStatus.code : SlotStatus → Nat
  | .sec .clear => 0
  | .sec .occupied => 1
  | .sec .disturbed => 2
  | .sec .fault => 3
  | .point none => 0
  | .point (some .normal) => 1
  | .point (some .reverse) => 2
  | .signal .stop => 0
  | .signal .proceed => 1
  | .signal .restricted => 2
  | .signal .dark => 3

/-- R112 condition 5: the status a code stands for in a slot of a kind, if it is one. -/
def SlotStatus.ofCode : SlotKind → Nat → Option SlotStatus
  | .sec, 0 => some (.sec .clear)
  | .sec, 1 => some (.sec .occupied)
  | .sec, 2 => some (.sec .disturbed)
  | .sec, 3 => some (.sec .fault)
  | .point, 0 => some (.point none)
  | .point, 1 => some (.point (some .normal))
  | .point, 2 => some (.point (some .reverse))
  | .signal, 0 => some (.signal .stop)
  | .signal, 1 => some (.signal .proceed)
  | .signal, 2 => some (.signal .restricted)
  | .signal, 3 => some (.signal .dark)
  | _, _ => none

def LinkState.code : LinkState → Nat
  | .down => 1
  | .starting => 2
  | .up => 3

def Direction.code : Direction → Nat
  | .unfitted => 0
  | .outbound => 1
  | .inbound => 2
  | .bidirectional => 3

def TokenView.code : TokenView → Nat
  | .none => 0
  | .held => 1
  | .notHeld => 2
  | .blocked => 3
  | .other c => c.toNat

/-- The token view of a line's token (R127). -/
def Token.view : Option Token → TokenView
  | none => .none
  | some .held => .held
  | some .notHeld => .notHeld
  | some .blocked => .blocked

def PossessionState.code : PossessionState → Nat
  | .free => 1
  | .granted => 2
  | .barred => 3

def SweepStage.code : SweepStage → Nat
  | .none => 0
  | .sweeping => 1
  | .locking => 2
  | .ended => 3

def StrayCause.code : StrayCause → Nat
  | .badRun => 1
  | .inFlight => 2
  | .notPosted => 3

end Sys2Proof.Machine
end

