-- ==== Sys2Proof/Config.lean ====
section
/-! DEFINITION. What an implementation of the CM-416 fixes and the spec leaves open: the free values. None has a body,
so nothing can be proved of the value of one. Each is applied to a draw number, the counter State.freeIndex. -/

namespace Sys2Proof.Config

/-- R192: where one event changes several records, each is written once after the event, "in an order chosen by the
exchange port". The records are written by rising priority: a free value per event (draw number) and record
(log entry 9). -/
opaque mirrorPriority : Nat → Nat → Nat

/-- R122: in HALTED "replies are collected and then discarded unchecked". Whether the exchange ends with the complete
reply, or at its timeout only, is not stated (log entry 10). -/
opaque haltedReplyEndsExchange : Nat → Bool

/-- R40 and R90 drive every available point whose item needs a move; R93 says that a flank claim never drives a point while
another claim is held. Whether a flank claim applied to such a point (its number) that is FAILED, LOST_DETECTION or
UNKNOWN drives it is left free between them (log entry 39). -/
opaque flankDrivesClaimed : Nat → Nat → Bool

/-- 12: a train identity has 1 to 8 characters. What an ENTRY ASK or a TRAIN PASS whose length byte is above 8 gives as
its identity is not stated (log entry 41). -/
opaque overlongIdentity : Nat → Byte → List Byte → Option Identity

/-- R179: what the place of the stored image holds after a commit write that failed or was lost (log entry 11). The
validity mark is no, so it is not read. -/
opaque failedImage : Nat → List Byte

/-- R179: "The persistent section may hold part of its reset." Whether the reset had reached record number k of the
persistent section when the commit write failed or was lost (log entry 11). -/
opaque resetReached : Nat → Nat → Bool

end Sys2Proof.Config
end

