-- ==== Sys2Proof/Machine/State.lean ====
section
/-! DEFINITION. The state of the CM-416 as plain data, its faults and refusals, and the state after a power-on hard
restart. Blocks is everything the blocks behind the exchange port hold; Port is the exchange port. -/

namespace Sys2Proof.Machine

/-- A byte memory: (address, byte) pairs, addresses strictly rising, no entry equal to what an unlisted address reads
as (Exchange.blank in Ops.lean). -/
abbrev Memory := List Host.Cell

/-- The blocks behind the exchange port (00_scope, Blocks). -/
structure Blocks where
  clock : Clock
  key : Bool
  mode : Mode
  sweep : Sweep
  selfCheckDue : Option Clock
  stored : StoredImage
  persistent : Persistent
  inForce : Option WorkingCopy
  load : LoadRec
  running : Option Write
  writes : List Write
  sections : List SectionRec
  points : List PointRec
  signals : List SignalRec
  holds : List HoldRec
  routes : List (Option RouteRec)
  waiting : List WaitingRec
  units : List UnitRec
  busA : BusRec
  busB : BusRec
  links : List (Option LinkRec)
  lines : List (Option LineRec)
  collected : List (List LineChar)
  lineStateDue : Option Clock
  areas : List PossessionRec
  arms : List ArmRec
  alarms : List AlarmRec
  overflow : Bool
  alarmCounter : Nat
  freeIndex : Nat
  work : Work
  deriving DecidableEq, Repr

/-- The exchange port (11). The exchange memory is held in two parts, split by address (Exchange.mirrorRange in
Ops.lean): the ranges the host writes (cells, staging area, unnamed ranges) and those the supervisor's mirror writes go
to (identity block, generation counter and summary, mirrors). -/
structure Port where
  notice : BitVec 6
  mask : BitVec 6
  intake : List Nat
  inFlight : List Bool
  handed : Option Request
  strayMark : Bool
  stray : Option Stray
  generation : Nat
  hostMem : Memory
  mirrorMem : Memory
  hostRead : HostRead
  sent : List Sent
  deriving DecidableEq, Repr

/-- The machine: pending is the queue of commands that are waiting, first in, first out; held says that the supervisor
is held at the start of a hard restart (R182). -/
structure State where
  pending : List Instr
  held : Bool
  blocks : Blocks
  port : Port
  deriving DecidableEq, Repr

/-- Why a step can stop with a fault. -/
inductive Fault where
  /-- Raised by HOST_MEMORY_ACCESS for a byte at or above 0x10000: the exchange memory is 64 KiB (11.1), so no such
  byte exists. Safe: the hardware's port has no such access to serve. -/
  | outsideExchangeMemory (addr : Nat)
  deriving DecidableEq, Repr

/-- Why a step can be refused. -/
inductive Refusal where
  /-- A command that has no meaning yet, by the table's mnemonic. No arm of exec answers it. Safe. -/
  | notModelled (mnemonic : String)
  deriving DecidableEq, Repr

/-- Nothing handed on. -/
def Work.empty : Work :=
  { dirty := [], answers := [], alarms := [], sent := [], occupations := [], touched := [], failures := [],
    freed := false, tokenHeld := false, modeNotice := false, halt := false }

/-- R175: the load record after every reset. -/
def LoadRec.empty : LoadRec :=
  { state := .idle, next := 0, received := 0, length := none, buffer := [] }

/-- No sweep and no time lock (R181). -/
def Sweep.off : Sweep := { stage := .none, seen := [], lockExpiry := none }

/-- R107: no position, nothing urgent, no exchange. -/
def BusRec.quiet : BusRec := { position := none, urgent := [], exchange := none }

/-- A persistent section with no record (log entry 30). -/
def Persistent.empty : Persistent :=
  { sections := [], points := [], signals := [], areas := [], tokens := [] }

/-- The blocks after a power-on hard restart with an unprogrammed store (R173, R182): no image in force, CONFIGURING. -/
def Blocks.powerOn : Blocks :=
  { clock := 0
    key := false
    mode := .configuring
    sweep := Sweep.off
    selfCheckDue := none
    stored := { valid := false, bytes := [] }
    persistent := Persistent.empty
    inForce := none
    load := LoadRec.empty
    running := none
    writes := []
    sections := []
    points := []
    signals := []
    holds := []
    routes := List.replicate 48 none
    waiting := []
    units := []
    busA := BusRec.quiet
    busB := BusRec.quiet
    links := List.replicate 4 none
    lines := List.replicate 16 none
    collected := List.replicate 4 []
    lineStateDue := none
    areas := []
    arms := []
    alarms := []
    overflow := false
    alarmCounter := 1
    freeIndex := 0
    work := Work.empty }

/-- The exchange port after that restart (R195). The initialisation leaves every mirror with stamps 1; the mode change
that ends the restart latches MODE, and it rewrites the summary block with generation 2, which latches MIRROR
(R172, R193, R192, log entry 4). -/
def Port.powerOn : Port :=
  { notice := 18#6
    mask := 0
    intake := []
    inFlight := List.replicate 32 false
    handed := none
    strayMark := false
    stray := none
    generation := 2
    hostMem := []
    mirrorMem := [(0x0100, 2#8), (0x0104, 2#8), (0x01FC, 2#8)]
    hostRead := .none
    sent := [] }

/-- The machine right after a power-on hard restart with an unprogrammed store. -/
def State.reset : State :=
  { pending := [], held := false, blocks := Blocks.powerOn, port := Port.powerOn }

end Sys2Proof.Machine
end

