-- ==== Sys2Proof/Machine/TableFormat.lean ====
section
/-! DEFINITION. The layout of a control-table image (12.5): reading its bytes into entries. Past the end of the bytes
everything reads as 0; R6 condition 4 keeps such an image from being used. -/

namespace Sys2Proof.Machine

/-- R3, 12.5: the header fields. -/
def readHeader (bs : List Byte) : Header :=
  { format := fieldAt bs 0 2
    length := fieldAt bs 4 4
    sections := byteAt bs 8
    points := byteAt bs 9
    signals := byteAt bs 10
    routes := fieldAt bs 12 2
    overlaps := byteAt bs 14
    units := byteAt bs 15
    lines := byteAt bs 16
    areas := byteAt bs 17
    timeLock := fieldAt bs 18 2
    area := fieldAt bs 20 2
    crc := fieldAt bs 60 4 }

/-- Count items read one after another, with the bytes they take in all. -/
def readMany {α : Type} (one : List Byte → α × Nat) : Nat → List Byte → List α × Nat
  | 0, _ => ([], 0)
  | k + 1, bs =>
    let e := one bs
    let rest := readMany one k (bs.drop e.2)
    (e.1 :: rest.1, e.2 + rest.2)

/-- k one-byte numbers at offset a. -/
def numbersAt (bs : List Byte) (a k : Nat) : List Nat := (List.range k).map (fun i => byteAt bs (a + i))

/-- k point-and-position items of two bytes at offset a. -/
def pointPosAt (bs : List Byte) (a k : Nat) : List RawPointPos :=
  (List.range k).map (fun i => { point := byteAt bs (a + 2 * i), pos := byteAt bs (a + 2 * i + 1) })

def readSection (bs : List Byte) : RawSection × Nat :=
  ({ kind := byteAt bs 0, unit := byteAt bs 1, slot := byteAt bs 2, line := byteAt bs 3, delay := fieldAt bs 4 2 }, 6)

def readPoint (bs : List Byte) : RawPoint × Nat :=
  ({ ends := byteAt bs 0, unit1 := byteAt bs 1, slot1 := byteAt bs 2, unit2 := byteAt bs 3, slot2 := byteAt bs 4
     sec := byteAt bs 5, limit := byteAt bs 6 }, 8)

def readSignal (bs : List Byte) : RawSignal × Nat :=
  ({ unit := byteAt bs 0, slot := byteAt bs 1, approach := numbersAt bs 3 (byteAt bs 2) }, 3 + byteAt bs 2)

def readPathPoint (bs : List Byte) (a : Nat) : RawPathPoint :=
  { point := byteAt bs a, pos := byteAt bs (a + 1), index := byteAt bs (a + 2) }

def readFlank (bs : List Byte) (a : Nat) : RawFlank :=
  { kind := byteAt bs a, number := byteAt bs (a + 1), pos := byteAt bs (a + 2), subKind := byteAt bs (a + 3)
    subNumber := byteAt bs (a + 4), subPos := byteAt bs (a + 5), index := byteAt bs (a + 6) }

def readRoute (bs : List Byte) : RawRoute × Nat :=
  let n := byteAt bs 3
  let p := byteAt bs 4
  let o := byteAt bs 5
  let f := byteAt bs 6
  ({ entry := byteAt bs 0, exitKind := byteAt bs 1, exit := byteAt bs 2, flags := byteAt bs 7
     release := fieldAt bs 8 2
     path := numbersAt bs 10 n
     points := (List.range p).map (fun i => readPathPoint bs (10 + n + 3 * i))
     overlaps := numbersAt bs (10 + n + 3 * p) o
     flanks := (List.range f).map (fun i => readFlank bs (10 + n + 3 * p + o + 7 * i)) },
   10 + n + 3 * p + o + 7 * f)

def readOverlap (bs : List Byte) : RawOverlap × Nat :=
  let n := byteAt bs 0
  let p := byteAt bs 1
  ({ release := fieldAt bs 2 2, sections := numbersAt bs 4 n, points := pointPosAt bs (4 + n) p }, 4 + n + 2 * p)

def readUnit (bs : List Byte) : RawUnit × Nat :=
  ({ bus := byteAt bs 0, address := byteAt bs 1, kinds := numbersAt bs 3 (byteAt bs 2) }, 3 + byteAt bs 2)

/-- A NONE or OUT entry is its 10-byte fixed part alone (12.5). -/
def readLine (bs : List Byte) : RawLine × Nat :=
  let bare := byteAt bs 2 = 0 ∨ byteAt bs 2 = 1
  let n := if bare then 0 else byteAt bs 5
  let p := if bare then 0 else byteAt bs 6
  ({ port := byteAt bs 0, lineOnPort := byteAt bs 1, mode := byteAt bs 2, border := byteAt bs 3
     holder := byteAt bs 4, recSections := numbersAt bs 10 n, recPoints := pointPosAt bs (10 + n) p
     endSignal := byteAt bs 7, neighbour := fieldAt bs 8 2 }, 10 + n + 2 * p)

def readArea (bs : List Byte) : RawArea × Nat :=
  let n := byteAt bs 0
  let g := byteAt bs 1
  ({ sections := numbersAt bs 2 n, boundary := numbersAt bs (2 + n) g }, 2 + n + g)

/-- An image's entries in the kind order of R5, and the length its counts and list counts give (R6 condition 4). -/
def readImage (bs : List Byte) : RawImage × Nat :=
  let h := readHeader bs
  let b0 := bs.drop 64
  let se := readMany readSection h.sections b0
  let b1 := b0.drop se.2
  let po := readMany readPoint h.points b1
  let b2 := b1.drop po.2
  let si := readMany readSignal h.signals b2
  let b3 := b2.drop si.2
  let ro := readMany readRoute h.routes b3
  let b4 := b3.drop ro.2
  let ov := readMany readOverlap h.overlaps b4
  let b5 := b4.drop ov.2
  let un := readMany readUnit h.units b5
  let b6 := b5.drop un.2
  let li := readMany readLine h.lines b6
  let b7 := b6.drop li.2
  let ar := readMany readArea h.areas b7
  ({ head := h, sections := se.1, points := po.1, signals := si.1, routes := ro.1, overlaps := ov.1, units := un.1
     lines := li.1, areas := ar.1 },
   64 + se.2 + po.2 + si.2 + ro.2 + ov.2 + un.2 + li.2 + ar.2)

/-! ### The entries of a checked image -/

/-- A position code of a checked entry. -/
def positionOf (c : Nat) : Position := if c = 2 then .reverse else .normal

def PointPos.ofRaw (r : RawPointPos) : PointPos := { point := r.point, pos := positionOf r.pos }

def SectionEntry.ofRaw (r : RawSection) : SectionEntry :=
  { kind := if r.kind = 2 then .counted else .circuit, unit := r.unit, slot := r.slot
    line := if r.line = 255 then none else some r.line, delay := r.delay }

def PointEntry.ofRaw (r : RawPoint) : PointEntry :=
  { ends :=
      if r.ends = 2 then [{ unit := r.unit1, slot := r.slot1 }, { unit := r.unit2, slot := r.slot2 }]
      else [{ unit := r.unit1, slot := r.slot1 }]
    sec := r.sec, limit := r.limit }

def SignalEntry.ofRaw (r : RawSignal) : SignalEntry := { unit := r.unit, slot := r.slot, approach := r.approach }

/-- A flank element (12.5): kind 1 a point, 2 a signal. -/
def FlankElement.ofRaw (kind number pos : Nat) : FlankElement :=
  if kind = 1 then .point number (positionOf pos) else .signal number

def FlankEntry.ofRaw (r : RawFlank) : FlankEntry :=
  { primary := FlankElement.ofRaw r.kind r.number r.pos
    substitute := if r.subKind = 0 then none else some (FlankElement.ofRaw r.subKind r.subNumber r.subPos)
    index := r.index }

def RouteEntry.ofRaw (r : RawRoute) : RouteEntry :=
  { entry := r.entry
    exit := if r.exitKind = 1 then .signal r.exit else .line r.exit
    path := r.path
    points := r.points.map (fun p => { point := p.point, pos := positionOf p.pos, index := p.index })
    overlaps := r.overlaps
    flanks := r.flanks.map FlankEntry.ofRaw
    release := r.release
    sweepAllowed := r.flags % 2 = 1 }

def OverlapEntry.ofRaw (r : RawOverlap) : OverlapEntry :=
  { sections := r.sections, points := r.points.map PointPos.ofRaw, release := r.release }

def SlotKind.ofCode : Nat → SlotKind
  | 2 => .point
  | 3 => .signal
  | _ => .sec

def UnitEntry.ofRaw (r : RawUnit) : UnitEntry :=
  { bus := if r.bus = 2 then .b else .a, address := r.address, slots := r.kinds.map SlotKind.ofCode }

def Direction.ofCode : Nat → Direction
  | 1 => .outbound
  | 2 => .inbound
  | 3 => .bidirectional
  | _ => .unfitted

def LineEntry.ofRaw (r : RawLine) : LineEntry :=
  { mode := Direction.ofCode r.mode, border := r.border, localFirst := r.holder = 1, recSections := r.recSections
    recPoints := r.recPoints.map PointPos.ofRaw, endSignal := r.endSignal, neighbour := r.neighbour }

def AreaEntry.ofRaw (r : RawArea) : AreaEntry := { sections := r.sections, boundary := r.boundary }

/-- The entries of an image that passed its checks, as the blocks use them. -/
def Image.ofRaw (r : RawImage) : Image :=
  { head := r.head
    sections := r.sections.map SectionEntry.ofRaw
    points := r.points.map PointEntry.ofRaw
    signals := r.signals.map SignalEntry.ofRaw
    routes := r.routes.map RouteEntry.ofRaw
    overlaps := r.overlaps.map OverlapEntry.ofRaw
    units := r.units.map UnitEntry.ofRaw
    lines := r.lines.map LineEntry.ofRaw
    areas := r.areas.map AreaEntry.ofRaw }

/-- The working copy of stored bytes (R2, log entry 26). -/
def WorkingCopy.ofBytes (bs : List Byte) : WorkingCopy :=
  { bytes := bs, image := Image.ofRaw (readImage bs).1 }

end Sys2Proof.Machine
end

