-- ==== Sys2Proof/Machine/TableCheck.lean ====
section
/-! DEFINITION. The consistency conditions of an image (R5 to R9, R12 to R17), in the order COMMIT TABLES checks
them. -/

namespace Sys2Proof.Machine

/-- No item appears twice. -/
def allDistinct {α : Type} [DecidableEq α] : List α → Bool
  | [] => true
  | x :: xs => !xs.contains x && allDistinct xs

/-- A list field holds a count in its range and distinct, existing numbers. -/
def listOk (low high limit : Nat) (xs : List Nat) : Bool :=
  low ≤ xs.length && xs.length ≤ high && xs.all (· < limit) && allDistinct xs

/-- NORMAL or REVERSE. -/
def positionCodeOk (c : Nat) : Bool := c == 1 || c == 2

/-- The unit exists, the slot is below its slot count, and the slot is of the kind. -/
def RawImage.slotOk (r : RawImage) (unit slot kind : Nat) : Bool :=
  match r.units[unit]? with
  | none => false
  | some u => u.kinds[slot]? == some kind

/-- The section a point's own entry names. -/
def RawImage.pointSection (r : RawImage) (p : Nat) : Option Nat := (r.points[p]?).map (·.sec)

/-- The mode code of a present line entry. -/
def RawImage.lineMode (r : RawImage) (l : Nat) : Option Nat := (r.lines[l]?).map (·.mode)

/-- R7. -/
def sectionConditions (r : RawImage) (n : Nat) (e : RawSection) : List Bool :=
  [ e.kind == 1 || e.kind == 2,
    r.slotOk e.unit e.slot 1,
    e.delay ≤ 10000,
    e.line == 255 ||
      (match r.lines[e.line]? with
       | none => false
       | some l => l.mode != 0 && l.border == n) ]

/-- R8. -/
def pointConditions (r : RawImage) (_ : Nat) (e : RawPoint) : List Bool :=
  [ e.ends == 1 || e.ends == 2,
    r.slotOk e.unit1 e.slot1 2,
    e.ends != 2 || (r.slotOk e.unit2 e.slot2 2 && (e.unit2 != e.unit1 || e.slot2 != e.slot1)),
    e.sec < r.sections.length,
    2 ≤ e.limit && e.limit ≤ 20 ]

/-- R9. -/
def signalConditions (r : RawImage) (_ : Nat) (e : RawSignal) : List Bool :=
  [ r.slotOk e.unit e.slot 3,
    listOk 0 4 r.sections.length e.approach ]

/-- A flank element exists, with a position if it is a point (R12 condition 12). -/
def RawImage.flankOk (r : RawImage) (kind number pos : Nat) : Bool :=
  (kind == 1 && number < r.points.length && positionCodeOk pos) || (kind == 2 && number < r.signals.length)

/-- The primaries and present substitutes of a flank list, as (kind, number). -/
def flankElements (fs : List RawFlank) : List (Nat × Nat) :=
  fs.flatMap (fun f => (f.kind, f.number) :: (if f.subKind = 0 then [] else [(f.subKind, f.subNumber)]))

/-- The overlaps a route's choice list names. -/
def RawImage.overlapsOf (r : RawImage) (e : RawRoute) : List RawOverlap := e.overlaps.filterMap (fun o => r.overlaps[o]?)

/-- R12. -/
def routeConditions (r : RawImage) (_ : Nat) (e : RawRoute) : List Bool :=
  let overlaps := r.overlapsOf e
  let elements := flankElements e.flanks
  let border := e.exitKind == 2
  [ e.entry < r.signals.length,
    (e.exitKind == 1 && e.exit < r.signals.length && e.exit != e.entry) ||
      (border && (r.lineMode e.exit == some 1 || r.lineMode e.exit == some 3)),
    listOk 1 12 r.sections.length e.path,
    (match r.signals[e.entry]? with
     | none => false
     | some s => e.path.all (fun x => !s.approach.contains x)),
    !border || e.path.getLast? == (r.lines[e.exit]?).map (·.border),
    listOk 0 10 r.points.length (e.points.map (·.point)) && e.points.all (fun p => positionCodeOk p.pos),
    e.points.all (fun p =>
      1 ≤ p.index && p.index ≤ e.path.length && e.path[p.index - 1]? == r.pointSection p.point),
    listOk 0 3 r.overlaps.length e.overlaps,
    !border || e.overlaps.isEmpty,
    e.flags % 2 != 1 || e.overlaps.isEmpty,
    e.path.all (fun x => overlaps.all (fun o => !o.sections.contains x)),
    e.flanks.length ≤ 8 && e.flanks.all (fun f =>
      r.flankOk f.kind f.number f.pos && (f.subKind == 0 || r.flankOk f.subKind f.subNumber f.subPos)),
    e.flanks.all (fun f => 1 ≤ f.index && f.index ≤ e.path.length),
    elements.all (fun x => x.1 != 1 ||
      (!(e.points.map (·.point)).contains x.2 && overlaps.all (fun o => !(o.points.map (·.point)).contains x.2))),
    elements.all (fun x => x.1 != 2 || x.2 != e.entry),
    allDistinct elements,
    e.release ≤ 300 ]

/-- R13. -/
def overlapConditions (r : RawImage) (_ : Nat) (e : RawOverlap) : List Bool :=
  [ listOk 1 4 r.sections.length e.sections,
    listOk 0 4 r.points.length (e.points.map (·.point)) && e.points.all (fun p => positionCodeOk p.pos),
    e.points.all (fun p => match r.pointSection p.point with
      | none => false
      | some x => e.sections.contains x),
    e.release ≤ 300 ]

/-- Every element reference to a slot, as (unit, slot): sections, signals, and the ends of points (R14 condition 4). -/
def RawImage.slotRefs (r : RawImage) : List (Nat × Nat) :=
  r.sections.map (fun e => (e.unit, e.slot)) ++ r.signals.map (fun e => (e.unit, e.slot)) ++
    r.points.flatMap (fun e => (e.unit1, e.slot1) :: (if e.ends = 2 then [(e.unit2, e.slot2)] else []))

/-- R14. -/
def unitConditions (r : RawImage) (n : Nat) (e : RawUnit) : List Bool :=
  [ (e.bus == 1 || e.bus == 2) && 1 ≤ e.address && e.address ≤ 31 && 1 ≤ e.kinds.length && e.kinds.length ≤ 8,
    (r.units.take n).all (fun u => u.bus != e.bus || u.address != e.address),
    e.kinds.all (fun k => 1 ≤ k && k ≤ 3),
    (List.range e.kinds.length).all (fun s => r.slotRefs.count (n, s) == 1) ]

/-- R16. -/
def lineConditions (r : RawImage) (n : Nat) (e : RawLine) : List Bool :=
  let both := [ e.port ≤ 3 && e.lineOnPort ≤ 3 && e.port * 4 + e.lineOnPort == n, e.mode ≤ 3 ]
  let receives := e.mode == 2 || e.mode == 3
  if e.mode = 0 then both
  else both ++
    [ (match r.sections[e.border]? with
       | none => false
       | some s => s.line == n) && r.areas.all (fun a => !a.sections.contains e.border),
      if e.mode = 3 then e.holder == 1 || e.holder == 2 else e.holder == 0,
      !receives || (listOk 1 6 r.sections.length e.recSections && e.recSections.head? == some e.border),
      !receives || (listOk 0 4 r.points.length (e.recPoints.map (·.point)) &&
        e.recPoints.all (fun p => positionCodeOk p.pos &&
          (match r.pointSection p.point with
           | none => false
           | some x => e.recSections.contains x))),
      !receives || e.endSignal < r.signals.length,
      1 ≤ e.neighbour && e.neighbour != r.head.area,
      (r.lines.take n).all (fun l => l.mode == 0 || l.port != e.port || l.neighbour == e.neighbour) ]

/-- R17. -/
def areaConditions (r : RawImage) (n : Nat) (e : RawArea) : List Bool :=
  let lower := r.areas.take n
  [ listOk 1 16 r.sections.length e.sections,
    e.sections.all (fun x => lower.all (fun a => !a.sections.contains x)),
    listOk 0 8 r.signals.length e.boundary,
    e.boundary.all (fun g => lower.countP (fun a => a.boundary.contains g) ≤ 1) ]

/-- R3: the counts' ranges. -/
def Header.countsOk (h : Header) : Bool :=
  h.sections ≤ 240 && h.points ≤ 96 && h.signals ≤ 128 && h.routes ≤ 384 && h.overlaps ≤ 192 && h.units ≤ 48 &&
    h.lines ≤ 16 && h.areas ≤ 16

/-- R6, over the image's own bytes. -/
def headerConditions (bs : List Byte) : List Bool :=
  let h := readHeader bs
  [ imageCrc bs == imageCrcField bs,
    h.format == 1,
    h.countsOk,
    h.length == (readImage bs).2 && h.length ≤ 131072,
    h.timeLock ≤ 600,
    1 ≤ h.area && h.area ≤ 65535 ]

/-- The number, from 1, of the first condition that fails. -/
def firstFailing (cs : List Bool) : Option Nat := (cs.findIdx? (!·)).map (· + 1)

/-- Entries by ascending number, each by its conditions in order: the first failing entry and condition. -/
def firstFailingEntry {α : Type} (conditions : Nat → α → List Bool) : Nat → List α → Option (Nat × Nat)
  | _, [] => none
  | n, e :: es =>
    match firstFailing (conditions n e) with
    | some c => some (n, c)
    | none => firstFailingEntry conditions (n + 1) es

/-- The first failing condition of an image: entry kind code (0 the header), entry number, condition number (12.3). -/
structure CheckFinding where
  kind : Nat
  entry : Nat
  condition : Nat
  deriving DecidableEq, Repr

/-- A kind's finding. -/
def kindFinding (kind : Nat) (f : Option (Nat × Nat)) : Option CheckFinding :=
  f.map (fun x => { kind := kind, entry := x.1, condition := x.2 })

/-- R5: the header, then the entry kinds in image order. -/
def checkImage (bs : List Byte) : Option CheckFinding :=
  match firstFailing (headerConditions bs) with
  | some c => some { kind := 0, entry := 0, condition := c }
  | none =>
    let r := (readImage bs).1
    (kindFinding 1 (firstFailingEntry (sectionConditions r) 0 r.sections)).or <|
    (kindFinding 2 (firstFailingEntry (pointConditions r) 0 r.points)).or <|
    (kindFinding 3 (firstFailingEntry (signalConditions r) 0 r.signals)).or <|
    (kindFinding 4 (firstFailingEntry (routeConditions r) 0 r.routes)).or <|
    (kindFinding 5 (firstFailingEntry (overlapConditions r) 0 r.overlaps)).or <|
    (kindFinding 6 (firstFailingEntry (unitConditions r) 0 r.units)).or <|
    (kindFinding 7 (firstFailingEntry (lineConditions r) 0 r.lines)).or <|
    kindFinding 8 (firstFailingEntry (areaConditions r) 0 r.areas)

end Sys2Proof.Machine
end

