-- ==== Sys2Proof/Machine/Ops.lean ====
section
/-! DEFINITION. The shared operations: the exchange memory, and reading and changing the blocks' records. A change of a
record marks its mirror (R18, R193); answers, alarms, telegrams and notices are collected in Blocks.work. -/

namespace Sys2Proof.Machine

/-! ### The exchange memory (11.1) -/

/-- The capacities of the Conventions table, in its order (12.4, identity block; log entry 24). -/
def capacities : List Nat :=
  [32, 128, 48, 16, 4, 64, 16, 48, 31, 8, 12, 10, 8, 3, 4, 4, 4, 6, 4, 16, 8, 16384, 131072]

/-- The identity block's bytes 4 to 251 (12.4, R194): the fixed values and the state of the table store. -/
def identityBody (valid : Bool) (length area format crc : Nat) : List Byte :=
  bytesLE 2 0x4844 ++ bytesLE 2 0x0416 ++ [1, byte (flag valid 0), 0, 0] ++ bytesLE 4 length ++ bytesLE 2 area ++
    [byte format, 0] ++ bytesLE 4 crc ++ capacities.flatMap (bytesLE 4) ++ zeros 136

/-- A byte of a mirror record whose stamps are 1 and whose body is zero (R195). -/
def Exchange.blankRecord (size offset : Nat) : Byte :=
  if offset % size = 0 ∨ offset % size = size - 4 then 1 else 0

/-- What an address with no entry reads as: the exchange memory after the initialisation of R195 with every record
absent, and 0 in the ranges the memory map does not name (log entry 6). -/
def Exchange.blank (a : Nat) : Byte :=
  if a < 0x100 then
    if a = 0 ∨ a = 252 then 1 else if 4 ≤ a ∧ a < 252 then (identityBody false 0 0 0 0).getD (a - 4) 0 else 0
  else if a = 0x100 then 1
  else if a < 0x200 then (if a = 0x104 ∨ a = 0x1FC then 1 else 0)
  else if a < 0x1200 then 0
  else if a < 0x3000 then Exchange.blankRecord 32 (a - 0x1200)
  else if a < 0x3E00 then Exchange.blankRecord 16 (a - 0x3000)
  else if a < 0x4A00 then Exchange.blankRecord 64 (a - 0x3E00)
  else if a < 0x4C00 then Exchange.blankRecord 32 (a - 0x4A00)
  else if a < 0x4F00 then Exchange.blankRecord 16 (a - 0x4C00)
  else if a < 0x4F80 then Exchange.blankRecord 32 (a - 0x4F00)
  else if a < 0x5280 then Exchange.blankRecord 48 (a - 0x4F80)
  else if a < 0x53C0 then Exchange.blankRecord 16 (a - 0x5280)
  else if a < 0x5400 then 0
  else if a < 0x5C00 then Exchange.blankRecord 32 (a - 0x5400)
  else 0

/-- The ranges the supervisor's mirror writes go to (11.1). -/
def Exchange.mirrorRange (a : Nat) : Bool :=
  a < 0x200 || (0x1200 ≤ a && a < 0x53C0) || (0x5400 ≤ a && a < 0x5C00)

/-- The byte at an address. -/
def Memory.read : Memory → Nat → Byte
  | [], a => Exchange.blank a
  | c :: m, a => if c.1 = a then c.2 else Memory.read m a

/-- Consecutive bytes from an address. -/
def Memory.readBytes (m : Memory) (a n : Nat) : List Byte := (List.range n).map (fun i => m.read (a + i))

/-- The entries that consecutive bytes from an address make: none for a byte an unlisted address reads as anyway. -/
def Memory.cells : Nat → List Byte → Memory
  | _, [] => []
  | a, b :: bs => if b = Exchange.blank a then Memory.cells (a + 1) bs else (a, b) :: Memory.cells (a + 1) bs

/-- Consecutive bytes written from an address. The canonical form is kept (Laws/Memory.lean). -/
def Memory.write (m : Memory) (a : Nat) (bs : List Byte) : Memory :=
  m.filter (fun c => c.1 < a) ++ Memory.cells a bs ++ m.filter (fun c => a + bs.length ≤ c.1)

/-- Consecutive bytes, those at selected addresses replaced by what the memory holds there. -/
def Memory.keepWhere (m : Memory) (keep : Nat → Bool) : Nat → List Byte → List Byte
  | _, [] => []
  | a, b :: bs => (if keep a then m.read a else b) :: Memory.keepWhere m keep (a + 1) bs

/-- Consecutive bytes written from an address, but for the addresses kept. -/
def Memory.writeExcept (m : Memory) (keep : Nat → Bool) (a : Nat) (bs : List Byte) : Memory :=
  m.write a (m.keepWhere keep a bs)

/-- The canonical form: addresses strictly rising, and no entry equal to what an unlisted address reads as. -/
def Memory.wf (m : Memory) : Bool :=
  decide (m.Pairwise (fun x y => x.1 < y.1)) && m.all (fun c => c.2 != Exchange.blank c.1)

/-- The byte of the exchange memory at an address: one memory, held in two parts. -/
def Port.byteAt (p : Port) (a : Nat) : Byte :=
  if Exchange.mirrorRange a then p.mirrorMem.read a else p.hostMem.read a

/-- A host write (R185): any byte of the exchange memory. -/
def Port.hostWrite (p : Port) (a : Nat) (bs : List Byte) : Port :=
  { p with
    hostMem := p.hostMem.writeExcept Exchange.mirrorRange a bs
    mirrorMem := p.mirrorMem.writeExcept (fun x => !Exchange.mirrorRange x) a bs }

/-- The address of a request cell (11.1). -/
def cellAddr (cell : Nat) : Nat := 0x200 + 128 * cell

/-! ### Tables -/

/-- The image in force (R2). -/
def Blocks.image? (b : Blocks) : Option Image := b.inForce.map (·.image)

def Blocks.sectionEntry (b : Blocks) (n : Nat) : Option SectionEntry := b.image?.bind (·.sections[n]?)

def Blocks.pointEntry (b : Blocks) (n : Nat) : Option PointEntry := b.image?.bind (·.points[n]?)

def Blocks.signalEntry (b : Blocks) (n : Nat) : Option SignalEntry := b.image?.bind (·.signals[n]?)

def Blocks.routeEntry (b : Blocks) (n : Nat) : Option RouteEntry := b.image?.bind (·.routes[n]?)

def Blocks.overlapEntry (b : Blocks) (n : Nat) : Option OverlapEntry := b.image?.bind (·.overlaps[n]?)

def Blocks.unitEntry (b : Blocks) (n : Nat) : Option UnitEntry := b.image?.bind (·.units[n]?)

def Blocks.areaEntry (b : Blocks) (n : Nat) : Option AreaEntry := b.image?.bind (·.areas[n]?)

/-- A fitted line: present, with a direction mode other than NONE (R124). -/
def Blocks.lineEntry (b : Blocks) (n : Nat) : Option LineEntry :=
  (b.image?.bind (·.lines[n]?)).filter (fun e => e.mode ≠ .unfitted)

/-! ### Records -/

def Blocks.sectionRec (b : Blocks) (n : Nat) : Option SectionRec := b.sections[n]?

def Blocks.pointRec (b : Blocks) (n : Nat) : Option PointRec := b.points[n]?

def Blocks.signalRec (b : Blocks) (n : Nat) : Option SignalRec := b.signals[n]?

def Blocks.unitRec (b : Blocks) (n : Nat) : Option UnitRec := b.units[n]?

/-- A Route Set entry. -/
def Blocks.routeRec (b : Blocks) (slot : Nat) : Option RouteRec := (b.routes[slot]?).join

/-- The link record of a port in use. -/
def Blocks.linkRec (b : Blocks) (port : Nat) : Option LinkRec := (b.links[port]?).join

/-- The record of a fitted line. -/
def Blocks.lineRec (b : Blocks) (n : Nat) : Option LineRec := (b.lines[n]?).join

def Blocks.occupancy (b : Blocks) (n : Nat) : Option Occupancy := (b.sectionRec n).map (·.occupancy)

/-- The section is CLEAR: only CLEAR is clear (R21). -/
def Blocks.isClear (b : Blocks) (n : Nat) : Bool := b.occupancy n == some .clear

/-- The section's passage mark is yes. -/
def Blocks.isPassed (b : Blocks) (n : Nat) : Bool := (b.sectionRec n).any (·.passage)

/-- The port of a line (00_scope, Numbering). -/
def portOf (line : Nat) : Nat := line / 4

/-- The link of the line's port is UP. -/
def Blocks.linkUp (b : Blocks) (port : Nat) : Bool := (b.linkRec port).any (fun l => l.state = .up)

/-- The four lines of a port. -/
def portLines (port : Nat) : List Nat := [4 * port, 4 * port + 1, 4 * port + 2, 4 * port + 3]

/-! ### Hand-offs of one event -/

/-- A record has changed and its mirror is to be rewritten once after the event (R18, R192). -/
def Blocks.mark (b : Blocks) (r : MirrorRec) : Blocks :=
  { b with work := { b.work with dirty := if b.work.dirty.contains r then b.work.dirty else b.work.dirty ++ [r] } }

/-- An answer is handed to the exchange port (R189). -/
def Blocks.answer (b : Blocks) (cell : Nat) (outcome : CellOutcome) (detail : Detail) : Blocks :=
  { b with work :=
      { b.work with answers := b.work.answers ++ [{ cell := cell, outcome := outcome, detail := detail }] } }

/-- An answer to a cell, if one is open. -/
def Blocks.answerOpt (b : Blocks) (cell : Option Nat) (outcome : CellOutcome) (detail : Detail) : Blocks :=
  match cell with
  | none => b
  | some c => b.answer c outcome detail

/-- A raise handed to the alarm list, with the time of the event that causes it (R161). -/
def Blocks.raiseAlarm (b : Blocks) (k : AlarmKind) (e : Element) (t : Clock) : Blocks :=
  { b with work := { b.work with alarms := b.work.alarms ++ [.raised k e t] } }

/-- The end of a condition handed to the alarm list (R161). -/
def Blocks.endAlarm (b : Blocks) (k : AlarmKind) (e : Element) (t : Clock) : Blocks :=
  { b with work := { b.work with alarms := b.work.alarms ++ [.ended k e t] } }

/-- "Elements freed" (R43): one for the event. -/
def Blocks.markFreed (b : Blocks) : Blocks := { b with work := { b.work with freed := true } }

/-- A failure of the internal checks: the supervisor enters HALTED when the event is closed (R183). -/
def Blocks.failCheck (b : Blocks) : Blocks := { b with work := { b.work with halt := true } }

/-- The element names of 12.1. -/
def Element.sec (n : Nat) : Element := { kind := .sec, number := n }

def Element.point (n : Nat) : Element := { kind := .point, number := n }

def Element.signal (n : Nat) : Element := { kind := .signal, number := n }

def Element.unit (n : Nat) : Element := { kind := .unit, number := n }

def Element.port (n : Nat) : Element := { kind := .port, number := n }

def Element.line (n : Nat) : Element := { kind := .line, number := n }

def Element.route (n : Nat) : Element := { kind := .route, number := n }

def Element.area (n : Nat) : Element := { kind := .area, number := n }

def Element.overlap (n : Nat) : Element := { kind := .overlap, number := n }

/-- DEVICE 0 (9.1). -/
def Element.device : Element := { kind := .device, number := 0 }

/-! ### Outgoing images (R44, R119) -/

def Blocks.busRec (b : Blocks) : Bus → BusRec
  | .a => b.busA
  | .b => b.busB

def Blocks.setBus (b : Blocks) (x : Bus) (r : BusRec) : Blocks :=
  match x with
  | .a => { b with busA := r }
  | .b => { b with busB := r }

/-- A unit joins its bus's urgent list unless it is listed (R119). -/
def Blocks.addUrgent (b : Blocks) (n : Nat) : Blocks :=
  match b.unitEntry n with
  | none => b
  | some e =>
    let r := b.busRec e.bus
    if r.urgent.contains n then b
    else (b.setBus e.bus { r with urgent := r.urgent ++ [n] }).mark (.unit n)

/-- The unit is LOST or FAULT (R44). -/
def Blocks.unitDown (b : Blocks) (n : Nat) : Bool := (b.unitRec n).any (fun u => u.state = .lost ∨ u.state = .fault)

/-- The unit is ACTIVE or SUSPECT (R24, R55). -/
def Blocks.unitTrusted (b : Blocks) (n : Nat) : Bool :=
  (b.unitRec n).any (fun u => u.state = .active ∨ u.state = .suspect)

/-- A derived slot value written into the unit's outgoing image (R119); an urgent cause lists the unit. In HALTED the
images stand as they were (R122). -/
def Blocks.setSlot (b : Blocks) (n slot : Nat) (v : SlotValue) (urgent : Bool) : Blocks :=
  match b.unitRec n with
  | none => b
  | some u =>
    if b.mode = .halted ∨ u.image[slot]? = some v ∨ u.image.length ≤ slot then b
    else
      let b := ({ b with units := b.units.set n { u with image := u.image.set slot v } }).mark (.unit n)
      if urgent then b.addUrgent n else b

/-- R44: the value of a signal's slot. -/
def Blocks.signalSlot (b : Blocks) (e : SignalEntry) (r : SignalRec) : SlotValue :=
  if b.unitDown e.unit then .signal .stop else .signal r.commanded

/-- R44: the value of both slots of a point. -/
def Blocks.pointSlot (b : Blocks) (e : PointEntry) (r : PointRec) : SlotValue :=
  if e.ends.any (fun c => b.unitDown c.unit) then .hold
  else if r.state = .moving ∧ r.possessed = false then
    match r.ref with
    | some p => .drive p
    | none => .hold
  else .hold

/-- The slot of a signal follows its record and its unit (R44). Becoming STOP is an urgent cause. -/
def Blocks.refreshSignal (b : Blocks) (n : Nat) : Blocks :=
  match b.signalEntry n, b.signalRec n with
  | some e, some r =>
    let v := b.signalSlot e r
    b.setSlot e.unit e.slot v (v = .signal .stop)
  | _, _ => b

/-- The slots of a point follow its record and its units (R44). Becoming HOLD as the point becomes FAILED is an urgent
cause. Of two ends on two units of one bus, end 1's unit joins the urgent list first: the model's choice (log entry 49). -/
def Blocks.refreshPoint (b : Blocks) (n : Nat) : Blocks :=
  match b.pointEntry n, b.pointRec n with
  | some e, some r =>
    let v := b.pointSlot e r
    e.ends.foldl (fun b c => b.setSlot c.unit c.slot v (r.state = .failed)) b
  | _, _ => b

/-! ### Changing records -/

/-- A change of a section record: mirrored when it is one (R18). -/
def Blocks.updSection (b : Blocks) (n : Nat) (f : SectionRec → SectionRec) : Blocks :=
  match b.sectionRec n with
  | none => b
  | some r => if f r = r then b else ({ b with sections := b.sections.set n (f r) }).mark (.sec n)

/-- A change of a point record, followed by its slots (R18, R44). -/
def Blocks.updPoint (b : Blocks) (n : Nat) (f : PointRec → PointRec) : Blocks :=
  match b.pointRec n with
  | none => b
  | some r =>
    if f r = r then b else (({ b with points := b.points.set n (f r) }).mark (.point n)).refreshPoint n

/-- A change of a signal record, followed by its slot (R18, R44). -/
def Blocks.updSignal (b : Blocks) (n : Nat) (f : SignalRec → SignalRec) : Blocks :=
  match b.signalRec n with
  | none => b
  | some r =>
    if f r = r then b else (({ b with signals := b.signals.set n (f r) }).mark (.signal n)).refreshSignal n

/-- A change of a Route Set entry (R45). -/
def Blocks.updRoute (b : Blocks) (slot : Nat) (f : RouteRec → RouteRec) : Blocks :=
  match b.routeRec slot with
  | none => b
  | some r => if f r = r then b else ({ b with routes := b.routes.set slot (some (f r)) }).mark (.slot slot)

/-- A change of a unit record, mirrored by R121: a change of the next sequence or the last valid reply time alone is
not. -/
def Blocks.updUnit (b : Blocks) (n : Nat) (f : UnitRec → UnitRec) : Blocks :=
  match b.unitRec n with
  | none => b
  | some u =>
    let v := f u
    let b := { b with units := b.units.set n v }
    if { v with nextSeq := u.nextSeq, lastReply := u.lastReply } = u then b else b.mark (.unit n)

/-- A change of a link record, mirrored by R124: a change of the last valid receive time alone is not. -/
def Blocks.updLink (b : Blocks) (port : Nat) (f : LinkRec → LinkRec) : Blocks :=
  match b.linkRec port with
  | none => b
  | some l =>
    let v := f l
    let b := { b with links := b.links.set port (some v) }
    if { v with lastValid := l.lastValid } = l then b else b.mark (.link port)

/-- A change of a line record (R129). -/
def Blocks.updLine (b : Blocks) (n : Nat) (f : LineRec → LineRec) : Blocks :=
  match b.lineRec n with
  | none => b
  | some l => if f l = l then b else ({ b with lines := b.lines.set n (some (f l)) }).mark (.line n)

/-- A change of a possession record (R147). -/
def Blocks.updArea (b : Blocks) (n : Nat) (f : PossessionRec → PossessionRec) : Blocks :=
  match b.areas[n]? with
  | none => b
  | some r => if f r = r then b else ({ b with areas := b.areas.set n (f r) }).mark (.area n)

/-- R172: a change of mode is shown and latches MODE. -/
def Blocks.setMode (b : Blocks) (m : Mode) : Blocks :=
  { b with mode := m, work := { b.work with modeNotice := true } }

/-- R172: the SAFE line is high while the mode is OBSERVING or SERVICE, and low while held in reset. -/
def State.safe (s : State) : Bool := !s.held && (s.blocks.mode == .observing || s.blocks.mode == .service)

end Sys2Proof.Machine
end

