-- ==== Sys2Proof/Machine/Operands.lean ====
section
/-! DEFINITION. The operands of the requests: the fields of a copied cell body (12.3), the checks of their ranges that
several requests share, and the encoding of details. -/

namespace Sys2Proof.Machine

/-- The field of k bytes at an offset of the cell (12.3); the body copied begins at offset 28. -/
def Request.field (r : Request) (offset k : Nat) : Nat := fieldAt r.body (offset - 28) k

/-- The identity field at an offset of the cell. -/
def Request.identity (r : Request) (offset : Nat) : Option Identity := identityOf (r.body.drop (offset - 28))

/-- A digit or a capital letter (12, conventions). -/
def identityChar (c : Byte) : Bool :=
  (48 ≤ c.toNat && c.toNat ≤ 57) || (65 ≤ c.toNat && c.toNat ≤ 90)

/-- A train identity: 1 to 8 characters, each a digit or a capital letter (00_scope). -/
def identityOk (i : Identity) : Bool := 1 ≤ i.length && i.length ≤ 8 && i.all identityChar

/-- R47: a present identity has 1 to 8 characters, each a digit or a capital letter. The length byte is read, since a
length above 8 is no identity. -/
def Request.identityFieldOk (r : Request) (offset : Nat) : Bool :=
  r.field offset 1 ≤ 8 && (r.identity offset).all identityOk

/-- The parameters of SET ROUTE. -/
structure RouteRequest where
  route : Nat
  options : Nat
  store : Nat
  identity : Option Identity
  deriving DecidableEq, Repr

/-- 12.3: the body of SET ROUTE. -/
def Request.setRoute (r : Request) : RouteRequest :=
  { route := r.field 28 2, options := r.field 30 1, store := r.field 32 2, identity := r.identity 34 }

/-- SWEEP is option bit 0 (12.3). -/
def RouteRequest.sweep (q : RouteRequest) : Bool := q.options % 2 = 1

/-- The count of a kind in the image (R3); kinds without entries count none. -/
def Image.count (i : Image) : Kind → Nat
  | .sec => i.sections.length
  | .point => i.points.length
  | .signal => i.signals.length
  | .unit => i.units.length
  | .line => i.lines.length
  | .route => i.routes.length
  | .area => i.areas.length
  | .overlap => i.overlaps.length
  | .port => 0
  | .device => 0

/-- The count of a kind in the image in force, 0 with none. -/
def Blocks.count (b : Blocks) (k : Kind) : Nat :=
  match b.image? with
  | none => 0
  | some i => i.count k

/-- R144: an element named by kind code and number, or the cell offset of the failing parameter, the kind before the
number. That the answer gives the offset is the model's choice (log entry 15). -/
def Blocks.elementOperand (b : Blocks) (r : Request) : Except Nat Element :=
  match Kind.ofCode (r.field 28 1) with
  | some .sec => if r.field 30 2 < b.count .sec then .ok (.sec (r.field 30 2)) else .error 30
  | some .point => if r.field 30 2 < b.count .point then .ok (.point (r.field 30 2)) else .error 30
  | some .signal => if r.field 30 2 < b.count .signal then .ok (.signal (r.field 30 2)) else .error 30
  | _ => .error 28

/-- 8.3: the kinds of target of a qualified operation. -/
def Operation.targetOk : Operation → Kind → Bool
  | .restoreSection, .sec => true
  | .emergencyRelease, .route => true
  | .removeStanding, .sec => true
  | .removeStanding, .point => true
  | .removeStanding, .signal => true
  | .forceLift, .area => true
  | .tokenRestore, .line => true
  | .receptionRelease, .line => true
  | _, _ => false

/-- R154: the target's number exists; a border line is also fitted. -/
def Blocks.targetExists (b : Blocks) (e : Element) : Bool :=
  e.number < b.count e.kind && (e.kind ≠ .line || (b.lineEntry e.number).isSome)

/-- R154: the operation and target of an ARM or EXECUTE, or the cell offset of the first failing parameter in the order
operation, kind, number, which is the model's choice (log entry 15). -/
def Blocks.qualifiedOperand (b : Blocks) (r : Request) : Except Nat (Operation × Element) :=
  match Operation.ofCode (r.field 28 1) with
  | none => .error 28
  | some op =>
    match Kind.ofCode (r.field 29 1) with
    | none => .error 29
    | some k =>
      if op.targetOk k then
        if b.targetExists { kind := k, number := r.field 30 2 } then .ok (op, { kind := k, number := r.field 30 2 })
        else .error 30
      else .error 29

/-! ### Details (12.3) -/

/-- The detail's sixteen bytes without its zero tail (12.3; log entry 15). -/
def Detail.head : Detail → List Byte
  | .none => [0]
  | .element e r o => [1, byte e.kind.code] ++ bytesLE 2 e.number ++ [byte r.code, byte o]
  | .routePlace p n s => [2, byte p, byte n, byte s]
  | .timer t e => [3] ++ bytesLE 2 t ++ clockBytes e
  | .check k n c => [4, byte k] ++ bytesLE 2 n ++ [byte c]
  | .count v c => [5] ++ bytesLE 4 v ++ [byte (flag c 0)]
  | .parameter o => [6, byte o]
  | .mode m => [7, byte m.code]
  | .precondition r => [8, byte r.code]
  | .priorState s => [9, byte s.code]

/-- The sixteen bytes of a detail: every byte its form does not use is zero (12.3). -/
def Detail.bytes (d : Detail) : List Byte := (d.head ++ zeros 16).take 16

/-- The detail that names an element and a reason. -/
def Finding.detail (f : Finding) : Detail := .element f.element f.reason 0

end Sys2Proof.Machine
end

