-- ==== Sys2Proof/Machine/AlarmList.lean ====
section
/-! DEFINITION. The alarm list (09). -/

namespace Sys2Proof.Machine

/-- The entry is about this kind and element (R161). -/
def AlarmRec.about (a : AlarmRec) (k : AlarmKind) (e : Element) : Bool := a.kind == k && a.element == e

/-- R162: the value after v: from 4,294,967,295 to 1. -/
def seqAfter (v : Nat) : Nat := if v = 4294967295 then 1 else v + 1

/-- R162: the counter advances until no entry holds its value; the list has at most 64 entries. -/
def advanceSeq : Nat → List AlarmRec → Nat → Nat
  | 0, _, v => v
  | fuel + 1, xs, v => if xs.any (fun a => a.seq == v) then advanceSeq fuel xs (seqAfter v) else v

/-- An entry joins at the tail with the counter's value, and the counter advances (R162). -/
def Blocks.appendAlarm (b : Blocks) (xs : List AlarmRec) (a : AlarmRec) : Blocks :=
  let ys := xs ++ [{ a with seq := b.alarmCounter }]
  { b with alarms := ys, alarmCounter := advanceSeq 65 ys (seqAfter b.alarmCounter) }

/-- R164: the list without its oldest LAPSED entry, the one nearest the head. -/
def withoutOldestLapsed : List AlarmRec → Option (List AlarmRec)
  | [] => none
  | a :: as => if a.state = .lapsed then some as else (withoutOldestLapsed as).map (a :: ·)

/-- R163, R164, R166: a raise. -/
def Blocks.enterRaise (b : Blocks) (k : AlarmKind) (e : Element) (t : Clock) : Blocks :=
  match b.alarms.find? (fun a => a.about k e) with
  | none =>
    let a : AlarmRec :=
      { seq := 0, kind := k, element := e, state := if k.event then .lapsed else .standing, raisedAt := t
        changedAt := t, repeats := 0 }
    if b.alarms.length < 64 then b.appendAlarm b.alarms a
    else
      match withoutOldestLapsed b.alarms with
      | some xs => b.appendAlarm xs a
      | none => { b with overflow := true }
  | some a =>
    if a.state = .lapsed then
      b.appendAlarm (b.alarms.filter (fun x => !x.about k e))
        { a with state := if k.event then .lapsed else .standing, repeats := min 255 (a.repeats + 1), changedAt := t }
    else b

/-- R165: the end of a condition. -/
def Blocks.enterEnd (b : Blocks) (k : AlarmKind) (e : Element) (t : Clock) : Blocks :=
  match b.alarms.find? (fun a => a.about k e) with
  | none => b
  | some a =>
    match a.state with
    | .standing =>
      { b with alarms := b.alarms.map (fun x =>
          if x.about k e then { x with state := .lapsed, changedAt := t } else x) }
    | .accepted => { b with alarms := b.alarms.filter (fun x => !x.about k e) }
    | .lapsed => b

/-- One raise or end. -/
def Blocks.enterOp (b : Blocks) : AlarmOp → Blocks
  | .raised k e t => b.enterRaise k e t
  | .ended k e t => b.enterEnd k e t

/-- The block that raises and ends a kind (9.5). -/
inductive AlarmOwner where
  | elementTable
  | routeEngine
  | busController
  | borderUnit
  | tableStore
  | modeController
  deriving DecidableEq, Repr

/-- 9.5, column "Raised by": the block whose rules raise a kind. -/
def AlarmKind.owner : AlarmKind → AlarmOwner
  | .pointFailed => .elementTable
  | .pointDetectionLost => .elementTable
  | .signalLampFault => .elementTable
  | .signalWrongAspect => .elementTable
  | .sectionDisturbed => .elementTable
  | .signalPassedAtStop => .routeEngine
  | .unexpectedOccupation => .routeEngine
  | .controllerLost => .busController
  | .controllerFault => .busController
  | .borderLinkDown => .borderUnit
  | .borderProtocolError => .borderUnit
  | .tokenDisagreement => .borderUnit
  | .handoverUnconfirmed => .borderUnit
  | .storeFault => .tableStore
  | .tableSelfCheck => .modeController

/-- The operation raises an alarm of a block. -/
def AlarmOp.raisedBy (w : AlarmOwner) : AlarmOp → Bool
  | .raised k _ _ => k.owner = w
  | .ended _ _ _ => false

/-- The operation raises this kind on this element. -/
def AlarmOp.raises (k : AlarmKind) (e : Element) : AlarmOp → Bool
  | .raised k' e' _ => k' == k && e' == e
  | .ended _ _ _ => false

/-- An operation placed before the first raise of a block. -/
def insertEnd (w : AlarmOwner) (o : AlarmOp) : List AlarmOp → List AlarmOp
  | [] => [o]
  | x :: xs => if x.raisedBy w then o :: x :: xs else x :: insertEnd w o xs

/-- An operation handed on after others: an end goes before every raise its block has handed on in the event (R161), but
for the end of a condition raised in the same event, which stays behind its raise (log entry 14). -/
def placeOp (ops : List AlarmOp) (o : AlarmOp) : List AlarmOp :=
  match o with
  | .raised _ _ _ => ops ++ [o]
  | .ended k e _ => if ops.any (AlarmOp.raises k e) then ops ++ [o] else insertEnd k.owner o ops

/-- The raises and ends of one event in the order in which they are entered (R161): as the blocks hand them on, each
block's ends before its raises. -/
def handedOrder (ops : List AlarmOp) : List AlarmOp := ops.foldl placeOp []

/-- The raises and ends of the event entered. -/
def Blocks.enterAlarms (b : Blocks) : Blocks := (handedOrder b.work.alarms).foldl Blocks.enterOp b

/-- R169, R170: every present condition ends at a time. -/
def Blocks.endAllAlarms (b : Blocks) (t : Clock) : Blocks :=
  { b with alarms := (b.alarms.filter (fun a => a.state ≠ .accepted)).map (fun a =>
      if a.state = .standing then { a with state := .lapsed, changedAt := t } else a) }

/-- R167: what an acknowledgement does to the entry it names. -/
def Blocks.acceptAlarm (b : Blocks) (a : AlarmRec) (n : Nat) : Blocks :=
  match a.state with
  | .standing =>
    { b with alarms := b.alarms.map (fun x =>
        if x.seq = n then { x with state := .accepted, changedAt := b.clock } else x) }
  | .accepted => b
  | .lapsed => { b with alarms := b.alarms.filter (fun x => x.seq != n) }

/-- ACKNOWLEDGE ALARM (R167). -/
def Blocks.acknowledgeAlarm (b : Blocks) (q : Request) : Blocks :=
  let n := q.field 28 4
  if n = 0 then { b with overflow := false }.answer q.cell .done .none
  else
    match b.alarms.find? (fun a => a.seq == n) with
    | none => b.answer q.cell .notFound .none
    | some a =>
      (b.acceptAlarm a n).answer q.cell .done (.priorState a.state)

end Sys2Proof.Machine
end

