-- ==== Sys2Proof/Machine/Flags.lean ====
section
/-! DEFINITION. The status registers: the NOTICE latch with its mask and line (R190), and the MODE register (R191,
12.2). -/

namespace Sys2Proof.Machine

/-- The notice classes, by their bit (12.2). -/
def Notice.cell : BitVec 6 := 1

def Notice.mirror : BitVec 6 := 2

def Notice.alarm : BitVec 6 := 4

def Notice.link : BitVec 6 := 8

def Notice.mode : BitVec 6 := 16

def Notice.stray : BitVec 6 := 32

/-- A class is latched; one already pending stays pending (R190). -/
def Port.latch (p : Port) (c : BitVec 6) : Port := { p with notice := p.notice ||| c }

/-- A class is latched on a condition. -/
def Port.latchIf (p : Port) (q : Bool) (c : BitVec 6) : Port := if q then p.latch c else p

/-- The value a read of NOTICE returns (12.2). -/
def Port.noticeValue (p : Port) : Word16 := p.notice.setWidth 16

/-- The value a read of NOTICE MASK returns (12.2). -/
def Port.maskValue (p : Port) : Word16 := p.mask.setWidth 16

/-- R190: the NOTICE line is high while a class is both pending and enabled. -/
def Port.noticeLine (p : Port) : Bool := p.notice &&& p.mask != 0

/-- R191, 12.2: the MODE register. -/
def State.modeRegister (s : State) : Word16 :=
  BitVec.ofNat 16 (s.blocks.mode.code + flag s.blocks.key 2 + flag s.safe 3 + 16 * s.blocks.load.state.code +
    64 * s.port.intake.length + flag s.blocks.overflow 12 + flag s.port.strayMark 13)

/-- 11.3, 12.2: what a host read of the register at an offset returns (log entry 36); POST and CONTROL read as 0. A
read of NOTICE also clears what it returns: that is the command NOTICE_READ. -/
def State.readRegister (s : State) (offset : Nat) : Word16 :=
  match offset with
  | 1 => s.port.noticeValue
  | 2 => s.port.maskValue
  | 3 => s.modeRegister
  | _ => 0

/-- A stray is recorded: the mark, the cause and cell of the summary block, and the STRAY class (R186, R187). -/
def Port.setStray (p : Port) (cause : StrayCause) (cell : Nat) : Port :=
  { p with strayMark := true, stray := some { cause := cause, cell := cell } }.latch Notice.stray

end Sys2Proof.Machine
end

