-- ==== Sys2Proof/Machine/Mirrors.lean ====
section
/-! DEFINITION. The mirror records (11.4, 12.4): their places, their bodies, and the writing of one record (R192). -/

namespace Sys2Proof.Machine

/-! ### Places (11.1) -/

/-- The address of a record. -/
def MirrorRec.addr : MirrorRec → Nat
  | .identity => 0
  | .summary => 0x104
  | .sec n => 0x1200 + 32 * n
  | .point n => 0x3000 + 16 * n
  | .signal n => 0x3600 + 16 * n
  | .slot n => 0x3E00 + 64 * n
  | .waiting p => 0x4A00 + 32 * p
  | .unit n => 0x4C00 + 16 * n
  | .link p => 0x4F00 + 32 * p
  | .line n => 0x4F80 + 48 * n
  | .area n => 0x5280 + 16 * n
  | .arm p => 0x5380 + 16 * p
  | .alarm p => 0x5400 + 32 * p

/-- The size of a record, stamps included. -/
def MirrorRec.size : MirrorRec → Nat
  | .identity => 256
  | .summary => 252
  | .sec _ => 32
  | .point _ => 16
  | .signal _ => 16
  | .slot _ => 64
  | .waiting _ => 32
  | .unit _ => 16
  | .link _ => 32
  | .line _ => 48
  | .area _ => 16
  | .arm _ => 16
  | .alarm _ => 32

/-- The records of section, point, signal, slot, unit, link, line and possession, every number the map has room for. -/
def numberedRecords : List MirrorRec :=
  (List.range 240).map .sec ++ (List.range 96).map .point ++ (List.range 128).map .signal ++
    (List.range 48).map .slot ++ (List.range 48).map .unit ++ (List.range 4).map .link ++
    (List.range 16).map .line ++ (List.range 16).map .area

/-- Every record of the exchange memory. -/
def allRecords : List MirrorRec :=
  [.identity, .summary] ++ numberedRecords ++ (List.range 16).map .waiting ++ (List.range 4).map .arm ++
    (List.range 64).map .alarm

/-! ### Bodies (12.4)

In a record that is present, a field whose item is none and every byte that its table does not name are 0, but for those
12.4 codes otherwise: the model's choice (log entry 48). -/

/-- The section mirror. -/
def SectionRec.mirror (r : SectionRec) : List Byte :=
  [byte r.occupancy.code, byte r.owner.code, byte r.owner.index,
    byte (flag r.reminder 0 + flag r.standing 1 + flag r.passage 2 + flag r.confirm.isSome 3)] ++
    identityBytes r.identity ++ zeros 3 ++ clockBytes r.changedAt ++ optClockBytes r.confirm

/-- The point mirror. -/
def PointRec.mirror (r : PointRec) : List Byte :=
  let ending := fun k => positionCode ((r.detection[k]?).join)
  [byte r.state.code, byte (positionCode r.ref + 4 * positionCode r.claimed + 16 * ending 0 + 64 * ending 1),
    byte (r.pathCount % 4 + 4 * (r.overlapCount % 4) + flag r.reminder 4 + flag r.standing 5 + flag r.possessed 6 +
      flag r.moveTimer.isSome 7),
    byte r.flankCount,
    byte (match r.pendingCall with
      | none => 0
      | some c => 128 + c)] ++
    (optClockBytes r.moveTimer).take 3

/-- The signal mirror. -/
def SignalRec.mirror (r : SignalRec) : List Byte :=
  [byte r.commanded.code, byte r.shown.code,
    byte (flag r.proved 0 + flag r.lampFault 1 + flag r.reminder 2 + flag r.standing 3 + flag r.owningSlot.isSome 4),
    byte (r.matchCount + 4 * r.mismatchCount + 16 * (r.possessionCount % 4)), byte (r.owningSlot.getD 0),
    byte r.flankCount]

/-- Bits set by a condition on the parts of a route's flank list. -/
def flankBits (q : FlankPart → Bool) (fs : List FlankPart) : Nat :=
  ((List.range fs.length).map (fun k => flag ((fs[k]?).any q) k)).sum

/-- The Route Set slot mirror. -/
def RouteRec.mirror (r : RouteRec) : List Byte :=
  [byte r.state.code, byte (flag r.sweep 0)] ++ bytesLE 2 r.route ++
    [byte (match r.cell with
      | none => 0
      | some c => 128 + c),
     byte r.released,
     byte (match r.reason with
      | none => 0
      | some f => f.reason.code),
     0] ++
    bytesLE 2 (match r.reason with
      | none => 0
      | some f => f.element.number) ++
    identityBytes r.identity ++
    [byte (match r.timer with
      | none => 0
      | some t => t.kind.code)] ++
    optClockBytes (r.timer.map (·.expiry)) ++
    (match r.overlap with
     | none => [0, 0]
     | some o => [byte o.state.code, byte o.number]) ++
    zeros 2 ++ optClockBytes (r.overlap.bind (·.expiry)) ++
    [byte r.flank.length, byte (flankBits (·.substitute) r.flank), byte (flankBits (·.released) r.flank)] ++
    (match r.border with
     | none => [0xFF, 0]
     | some p => [byte p.line, byte p.grant.code]) ++
    zeros 3 ++ optClockBytes (r.border.bind (·.expiry))

/-- The waiting list mirror. -/
def WaitingRec.mirror (w : WaitingRec) : List Byte :=
  [byte (if w.deferred then 2 else 1), byte (flag w.sweep 0)] ++ bytesLE 2 w.route ++ [byte w.cell, 0] ++
    bytesLE 2 w.storeTime ++ optClockBytes w.expiry ++ identityBytes w.identity

/-- Values of two bits each, the first in the lowest bits. -/
def packed : List Nat → Nat
  | [] => 0
  | v :: vs => v + 4 * packed vs

/-- The field unit mirror; urgent is a view of the bus's urgent list (R108). -/
def UnitRec.mirror (u : UnitRec) (urgent : Bool) : List Byte :=
  [byte (u.state.code + 8 * u.nextSeq + flag urgent 7), byte (u.miss + 4 * u.good + flag u.lastStatus.isSome 4)] ++
    bytesLE 2 (packed (u.image.map SlotValue.code)) ++
    bytesLE 2 (packed ((u.lastStatus.getD []).map SlotStatus.code)) ++ (optClockBytes u.lastReply).take 2

/-- The link mirror. -/
def LinkRec.mirror (l : LinkRec) : List Byte :=
  [byte l.state.code, byte l.valid, byte l.gap, byte (flag l.errorReported 0 + flag l.expected.isSome 1), l.transmit,
    l.expected.getD 0] ++
    bytesLE 2 l.neighbour ++ optClockBytes l.lastValid

/-- The border line mirror. -/
def LineRec.mirror (l : LineRec) (mode : Direction) : List Byte :=
  [byte mode.code, byte (TokenView.code (Token.view l.token)),
    byte (flag l.disagreement 0 + flag l.givePending 1 + flag l.tokenAsk.isSome 2 + flag l.entryAsk.isSome 3 +
      flag l.reception.isSome 4 + flag (l.reception.any (·.grantSent)) 5 + flag l.view.isSome 6),
    byte (match l.handover with
      | none => 0
      | some h => 1 + 2 * h.sends),
    byte (match l.handedSlot with
      | none => 0
      | some s => 128 + s),
    byte (match l.reception with
      | none => 0
      | some r => r.released)] ++
    bytesLE 2 ((l.entryAsk.getD 0).toNat) ++
    bytesLE 2 (match l.reception with
      | none => 0
      | some r => r.reference.toNat) ++
    identityBytes (l.reception.bind (·.identity)) ++ identityBytes (l.handover.bind (·.identity)) ++
    optClockBytes l.tokenAsk ++ optClockBytes (l.handover.map (·.next)) ++
    (match l.view with
     | none => [0, 0, 0, 0]
     | some v =>
       [byte (TokenView.code v.token),
        byte (flag v.borderClear 0 + flag v.reception.isSome 1 + flag v.outgoing 2)] ++
         bytesLE 2 ((v.reception.getD 0).toNat))

/-- The possession mirror; the reference itself is not shown (R147). -/
def PossessionRec.mirror (r : PossessionRec) : List Byte :=
  [byte r.state.code, byte (flag r.reference.isSome 0 + flag r.grantedAt.isSome 1), byte r.attempts, 0] ++
    optClockBytes r.grantedAt

/-- The arm list mirror. -/
def ArmRec.mirror (a : ArmRec) : List Byte :=
  [byte a.operation.code, byte a.target.kind.code] ++ bytesLE 2 a.target.number ++ clockBytes a.armTime

/-- The alarm list mirror. -/
def AlarmRec.mirror (a : AlarmRec) : List Byte :=
  [byte a.state.code, byte a.kind.code, byte a.element.kind.code, byte a.element.number] ++ bytesLE 4 a.seq ++
    clockBytes a.raisedAt ++ clockBytes a.changedAt ++ [byte a.repeats]

/-- R193: the summary block. -/
def summaryBody (b : Blocks) (stray : Option Stray) : List Byte :=
  [byte b.mode.code, byte b.sweep.stage.code, byte (b.sweep.seen.filter id).length, 0] ++
    optClockBytes b.sweep.lockExpiry ++
    [byte (b.routes.filter (·.isSome)).length, byte b.waiting.length, byte b.alarms.length, byte b.arms.length,
     byte (flag b.overflow 0)] ++
    (match stray with
     | none => [0, 0]
     | some x => [byte x.cause.code, byte x.cell])

/-- R194: the identity block. -/
def Blocks.identityBlock (b : Blocks) : List Byte :=
  match b.image? with
  | none => identityBody b.stored.valid 0 0 0 0
  | some i => identityBody b.stored.valid i.head.length i.head.area i.head.format i.head.crc

/-- R193: what a record shows; absent or empty as no bytes, which the record's padding writes as zero. -/
def Blocks.mirrorBody (b : Blocks) (stray : Option Stray) : MirrorRec → List Byte
  | .identity => b.identityBlock
  | .summary => summaryBody b stray
  | .sec n => ((b.sectionRec n).map SectionRec.mirror).getD []
  | .point n => ((b.pointRec n).map PointRec.mirror).getD []
  | .signal n => ((b.signalRec n).map SignalRec.mirror).getD []
  | .slot n => ((b.routeRec n).map RouteRec.mirror).getD []
  | .waiting p => ((b.waiting[p]?).map WaitingRec.mirror).getD []
  | .unit n =>
    ((b.unitRec n).map (fun u => u.mirror (b.busA.urgent.contains n || b.busB.urgent.contains n))).getD []
  | .link p => ((b.linkRec p).map LinkRec.mirror).getD []
  | .line n =>
    match b.lineEntry n, b.lineRec n with
    | some e, some l => l.mirror e.mode
    | _, _ => []
  | .area n => ((b.areas[n]?).map PossessionRec.mirror).getD []
  | .arm p => ((b.arms[p]?).map ArmRec.mirror).getD []
  | .alarm p => ((b.alarms[p]?).map AlarmRec.mirror).getD []

/-! ### Writing (R192) -/

/-- R192: the generation after g: from 4,294,967,295 to 1. -/
def nextGeneration (g : Nat) : Nat := if g = 4294967295 then 1 else g + 1

/-- A record as it stands in memory: stamp, body with its zero tail, stamp. -/
def stampedRecord (size generation : Nat) (body : List Byte) : List Byte :=
  bytesLE 4 generation ++ (body ++ zeros size).take (size - 8) ++ bytesLE 4 generation

/-- One record written with a generation, then the generation counter. -/
def Memory.writeMirror (m : Memory) (r : MirrorRec) (generation : Nat) (body : List Byte) : Memory :=
  (m.write r.addr (stampedRecord r.size generation body)).write 0x100 (bytesLE 4 generation)

/-- The records written one after the other, each with its own generation. -/
def Memory.writeMirrors (body : MirrorRec → List Byte) : Memory → Nat → List MirrorRec → Memory
  | m, _, [] => m
  | m, g, r :: rs =>
    Memory.writeMirrors body (m.writeMirror r (nextGeneration g) (body r)) (nextGeneration g) rs

/-- The generation counter after k mirror writes. -/
def generationAfter : Nat → Nat → Nat
  | g, 0 => g
  | g, k + 1 => generationAfter (nextGeneration g) k

/-- A record placed in a list by rising priority. -/
def insertRecord (priority : MirrorRec → Nat) (r : MirrorRec) : List MirrorRec → List MirrorRec
  | [] => [r]
  | x :: xs => if priority r ≤ priority x then r :: x :: xs else x :: insertRecord priority r xs

/-- R192: the order chosen by the exchange port for the records of one event, a free value (log entry 9). A record is
named to the free value by its address. -/
def portOrder (draw : Nat) (rs : List MirrorRec) : List MirrorRec :=
  rs.foldr (insertRecord (fun r => Config.mirrorPriority draw r.addr)) []

/-- The exchange port writes the changed records of one event (R192, R193). -/
def Port.writeMirrors (p : Port) (b : Blocks) (rs : List MirrorRec) : Port :=
  if rs.isEmpty then p
  else
    { p with
      mirrorMem := Memory.writeMirrors (b.mirrorBody p.stray) p.mirrorMem p.generation (portOrder b.freeIndex rs)
      generation := generationAfter p.generation rs.length
      notice := p.notice ||| Notice.mirror }

/-! ### Which records one event changes -/

/-- The places of a list whose content differs (R193). -/
def changedPlaces {α : Type} [DecidableEq α] (old new : List α) : List Nat :=
  (List.range (max old.length new.length)).filter (fun k => decide (old[k]? ≠ new[k]?))

/-- The records one event changes: those handed over in the event, the list places whose content differs, and the
summary block where its content differs (R193). That a stray with the cause and cell already shown does not rewrite the
summary block is the model's choice (log entry 47). -/
def changedRecords (oldPort newPort : Port) (old new : Blocks) : List MirrorRec :=
  let rs := new.work.dirty ++ (changedPlaces old.waiting new.waiting).map .waiting ++
    (changedPlaces old.arms new.arms).map .arm ++ (changedPlaces old.alarms new.alarms).map .alarm ++
    (if summaryBody old oldPort.stray = summaryBody new newPort.stray then [] else [.summary])
  rs.eraseDups

end Sys2Proof.Machine
end

