-- ==== Sys2Proof/Machine/ElementTable.lean ====
section
/-! DEFINITION. The element table (02): occupancy, point driving and detection, signal commanding and proving, loss of a
field unit, claim sets and release sets. -/

namespace Sys2Proof.Machine

/-! ### Sections -/

/-- The record after an occupancy change at time t (R18, R25): the passage mark under a ROUTE or RECEPTION owner, the
identity erased on CLEAR and DISTURBED, the confirmation timer as given. -/
def SectionRec.withOccupancy (r : SectionRec) (o : Occupancy) (t : Clock) (confirm : Option Clock) : SectionRec :=
  { r with
    occupancy := o
    passage := r.passage || (o = .occupied && (match r.owner with
      | .route _ => true
      | .reception _ => true
      | _ => false))
    identity := if o = .clear ∨ o = .disturbed then none else r.identity
    changedAt := t
    confirm := confirm }

/-- An occupancy change: the record, the end of SECTION_DISTURBED on leaving DISTURBED (R26), "elements freed" on CLEAR
(R43), and the notice with the passage mark before it (R42, R71). -/
def Blocks.setOccupancy (b : Blocks) (n : Nat) (o : Occupancy) (t : Clock) (confirm : Option Clock) : Blocks :=
  match b.sectionRec n with
  | none => b
  | some r =>
    if r.occupancy = o then b
    else
      let b := b.updSection n (fun r => r.withOccupancy o t confirm)
      let b := if r.occupancy = .disturbed then b.endAlarm .sectionDisturbed (.sec n) t else b
      let b := if o = .clear then b.markFreed else b
      { b with work :=
          { b.work with
            touched := b.work.touched ++ [n]
            occupations :=
              if o = .occupied then b.work.occupations ++ [{ sec := n, marked := r.passage }]
              else b.work.occupations } }

/-- R21, R22: a clear report after OCCUPIED, or out of DISTURBED for a CIRCUIT section. -/
def Blocks.beginClearing (b : Blocks) (n delay : Nat) (t : Clock) : Blocks :=
  if delay = 0 then b.setOccupancy n .clear t none else b.setOccupancy n .clearing t (some (Clock.after t delay))

/-- R22, R23, R26: DISTURBED by a report. -/
def Blocks.disturbByReport (b : Blocks) (n : Nat) (t : Clock) : Blocks :=
  (b.setOccupancy n .disturbed t none).raiseAlarm .sectionDisturbed (.sec n) t

/-- R21 to R24, R26: what a delivered status does. A status not named for a state leaves it (R20). -/
def Blocks.sectionReport (b : Blocks) (n : Nat) (st : SectionStatus) (t : Clock) : Blocks :=
  match b.sectionEntry n, b.occupancy n with
  | some e, some o =>
    match st, o with
    | .fault, .disturbed => b
    | .disturbed, .disturbed => b
    | .fault, _ => b.disturbByReport n t
    | .disturbed, _ => b.disturbByReport n t
    | .occupied, .occupied => b
    | .occupied, .disturbed => if e.kind = .circuit then b.setOccupancy n .occupied t none else b
    | .occupied, _ => b.setOccupancy n .occupied t none
    | .clear, .occupied => b.beginClearing n e.delay t
    | .clear, .disturbed => if e.kind = .circuit then b.beginClearing n e.delay t else b
    | .clear, _ => b
  | _, _ => b

/-- R25: a direct identity write by an owner; not applied to a section with another owner. -/
def Blocks.writeIdentity (b : Blocks) (n : Nat) (owner : Owner) (i : Identity) : Blocks :=
  b.updSection n (fun r => if r.owner = owner then { r with identity := some i } else r)

/-! ### Points -/

/-- R28: the detected position. -/
def detectedPosition (d : List (Option Position)) : Option Position :=
  if d.all (· == some .normal) then some .normal
  else if d.all (· == some .reverse) then some .reverse
  else none

/-- R29, R43: the point comes to rest; a pending call ends DONE (R69). -/
def Blocks.pointAtRest (b : Blocks) (n : Nat) (ref : Position) : Blocks :=
  match b.pointRec n with
  | none => b
  | some p =>
    let b := b.updPoint n (fun p =>
      { p with ref := some ref, state := .atRest, moveTimer := none, pendingCall := none })
    (b.answerOpt p.pendingCall .done .none).markFreed

/-- R29: the state moves on the detected position, at the time of the report. -/
def Blocks.applyDetection (b : Blocks) (n : Nat) (t : Clock) : Blocks :=
  match b.pointRec n with
  | none => b
  | some p =>
    match p.state, detectedPosition p.detection with
    | .unknown, some d => b.pointAtRest n d
    | .unknown, none => b
    | .atRest, d =>
      if d = p.ref then b
      else (b.updPoint n (fun p => { p with state := .lostDetection })).raiseAlarm .pointDetectionLost (.point n) t
    | .lostDetection, some d =>
      if p.ref = some d then (b.pointAtRest n d).endAlarm .pointDetectionLost (.point n) t else b
    | .moving, some d => if p.ref = some d then b.pointAtRest n d else b
    | .failed, some d => if p.ref = some d then (b.pointAtRest n d).endAlarm .pointFailed (.point n) t else b
    | _, none => b

/-- R28: one end's detection written. -/
def Blocks.writeDetection (b : Blocks) (n ending : Nat) (d : Option Position) : Blocks :=
  b.updPoint n (fun p => { p with detection := p.detection.set ending d })

/-- R30: the conditions under which a drive starts. -/
def Blocks.driveAllowed (b : Blocks) (n : Nat) : Bool :=
  match b.pointEntry n, b.pointRec n with
  | some e, some p =>
    !p.possessed && (b.occupancy e.sec == some .clear || b.occupancy e.sec == some .restoring)
  | _, _ => false

/-- R30: the point is already MOVING toward the target. -/
def PointRec.movingTo (p : PointRec) (target : Position) : Bool := p.state = .moving && p.ref == some target

/-- R30: a drive request; the answer says whether the drive started, or stands already. -/
def Blocks.drive (b : Blocks) (n : Nat) (target : Position) : Blocks × Bool :=
  match b.pointEntry n, b.pointRec n with
  | some e, some p =>
    if p.movingTo target then (b, true)
    else if b.driveAllowed n then
      let t := b.clock
      let b := b.updPoint n (fun p =>
        { p with ref := some target, state := .moving, moveTimer := some (Clock.after t (1000 * e.limit)) })
      let b := if p.state = .failed then b.endAlarm .pointFailed (.point n) t else b
      let b := if p.state = .lostDetection then b.endAlarm .pointDetectionLost (.point n) t else b
      (b, true)
    else (b, false)
  | _, _ => (b, false)

/-- R31: the move limit has run out, at the timer's expiry time. -/
def Blocks.moveTimeout (b : Blocks) (n : Nat) (t : Clock) : Blocks :=
  match b.pointRec n with
  | none => b
  | some p =>
    let b := b.updPoint n (fun p => { p with state := .failed, moveTimer := none, pendingCall := none })
    let b := b.raiseAlarm .pointFailed (.point n) t
    let b := b.answerOpt p.pendingCall .failed (.element (.point n) .pointFailed 0)
    { b with work := { b.work with failures := b.work.failures ++ [n] } }

/-- R69: a pending call is OVERTAKEN. -/
def Blocks.overtakeCall (b : Blocks) (n : Nat) : Blocks :=
  match b.pointRec n with
  | none => b
  | some p => (b.updPoint n (fun p => { p with pendingCall := none })).answerOpt p.pendingCall .overtaken .none

/-! ### Signals -/

/-- R33: a change of the commanded aspect, whatever its cause; an equal command is not a change. -/
def Blocks.setCommanded (b : Blocks) (n : Nat) (a : Aspect) : Blocks :=
  match b.signalRec n with
  | none => b
  | some r =>
    if r.commanded = a then b
    else
      let b := b.updSignal n (fun r =>
        { r with commanded := a, proved := false, matchCount := 0, mismatchCount := 0, lampFault := false })
      if r.lampFault then b.endAlarm .signalLampFault (.signal n) b.clock else b

/-- R33: a command from a Route Set entry, applied only for the entry named in the owning slot; another is a failure
of the internal checks. -/
def Blocks.commandSignal (b : Blocks) (slot n : Nat) (a : Aspect) : Blocks :=
  match b.signalRec n with
  | none => b.failCheck
  | some r => if r.owningSlot = some slot then b.setCommanded n a else b.failCheck

/-- The shown aspect matches the commanded one (R34). -/
def Aspect.shownBy : Aspect → Shown → Bool
  | .stop, .stop => true
  | .proceed, .proceed => true
  | .restricted, .restricted => true
  | _, _ => false

/-- R34: the record after a counted reply. -/
def SignalRec.counted (r : SignalRec) (shown : Shown) : SignalRec :=
  if r.commanded.shownBy shown then
    { r with
      shown := shown
      mismatchCount := 0
      matchCount := min 2 (r.matchCount + 1)
      proved := r.proved || 2 ≤ r.matchCount + 1
      lampFault := false }
  else
    { r with
      shown := shown
      matchCount := 0
      proved := false
      mismatchCount := min 2 (r.mismatchCount + 1)
      lampFault := r.lampFault || 2 ≤ r.mismatchCount + 1 }

/-- R34: a delivered signal status, with the value the answered telegram carried in the slot. -/
def Blocks.signalReport (b : Blocks) (n : Nat) (shown : Shown) (sent : Option SlotValue) (t : Clock) : Blocks :=
  match b.signalRec n with
  | none => b
  | some r =>
    if sent = some (.signal r.commanded) then
      let v := r.counted shown
      let b := b.updSignal n (fun r => r.counted shown)
      if v.lampFault && !r.lampFault then b.raiseAlarm .signalLampFault (.signal n) t
      else if r.lampFault && !v.lampFault then b.endAlarm .signalLampFault (.signal n) t
      else b
    else b.updSignal n (fun r => { r with shown := shown })

/-! ### Loss of a field unit (R36) -/

/-- The number of an entry that satisfies a condition, for each. -/
def indicesWhere {α : Type} (p : α → Bool) (xs : List α) : List Nat :=
  (List.range xs.length).filter (fun i => (xs[i]?).any p)

/-- R36: a section of the unit lost. -/
def Blocks.loseSection (b : Blocks) (n : Nat) (t : Clock) : Blocks :=
  (b.setOccupancy n .disturbed t none).updSection n (fun r => { r with identity := none, confirm := none })

/-- R36: the ends of a point on the unit lost. -/
def Blocks.losePoint (b : Blocks) (n unit : Nat) : Blocks :=
  match b.pointEntry n with
  | none => b
  | some e =>
    b.updPoint n (fun p =>
      { p with
        detection := (p.detection.zip e.ends).map (fun x => if x.2.unit = unit then none else x.1)
        state := if p.state = .atRest then .lostDetection else p.state })

/-- R36: a signal of the unit lost. -/
def Blocks.loseSignal (b : Blocks) (n : Nat) (t : Clock) : Blocks :=
  match b.signalRec n with
  | none => b
  | some r =>
    let b := b.updSignal n (fun r =>
      { r with shown := .dark, proved := false, matchCount := 0, mismatchCount := 0, lampFault := false })
    if r.lampFault then b.endAlarm .signalLampFault (.signal n) t else b

/-- R36: every element with a slot on the unit takes the values of an unknown element at the time of the change; the
slots become STOP and HOLD (R44). -/
def Blocks.loseUnit (b : Blocks) (unit : Nat) (t : Clock) : Blocks :=
  match b.image? with
  | none => b
  | some i =>
    let secs := indicesWhere (fun e : SectionEntry => e.unit == unit) i.sections
    let pts := indicesWhere (fun e : PointEntry => e.ends.any (fun c => c.unit == unit)) i.points
    let sigs := indicesWhere (fun e : SignalEntry => e.unit == unit) i.signals
    let b := secs.foldl (fun b n => b.loseSection n t) b
    let b := pts.foldl (fun b n => b.losePoint n unit) b
    let b := sigs.foldl (fun b n => b.loseSignal n t) b
    let b := sigs.foldl (fun b n => b.refreshSignal n) b
    pts.foldl (fun b n => b.refreshPoint n) b

/-- The slots of a unit's elements derived anew after its state has changed (R44). -/
def Blocks.refreshUnit (b : Blocks) (unit : Nat) : Blocks :=
  match b.image? with
  | none => b
  | some i =>
    let b := (indicesWhere (fun e : SignalEntry => e.unit == unit) i.signals).foldl (fun b n => b.refreshSignal n) b
    (indicesWhere (fun e : PointEntry => e.ends.any (fun c => c.unit == unit)) i.points).foldl
      (fun b n => b.refreshPoint n) b

/-! ### Claim sets and release sets (2.6) -/

/-- A point item needs a move unless the point is at rest in, or moving to, the item's position (R39). -/
def PointRec.needsMove (p : PointRec) (pos : Position) : Bool :=
  !(p.ref == some pos && (p.state = .atRest || p.state = .moving))

/-- R39: the reason for an occupancy condition not met. -/
def Occupancy.reason : Occupancy → Reason
  | .occupied => .occupied
  | .clearing => .occupied
  | _ => .disturbed

/-- R38: an occupancy condition. -/
def OccupancyCondition.metBy : OccupancyCondition → Occupancy → Bool
  | .clear, o => o = .clear
  | .sweep, o => o = .clear || o = .restoring
  | .any, _ => true

/-- R39: the first reason for which a section is unavailable. -/
def SectionRec.unavailable (r : SectionRec) (owner : Owner) (c : OccupancyCondition) : Option Reason :=
  match owner with
  | .possession _ => if r.owner = .free then none else some .owned
  | .overlap _ =>
    match r.owner with
    | .possession _ => some .possessed
    | .free => if c.metBy r.occupancy then none else some r.occupancy.reason
    | _ => some .owned
  | _ =>
    match r.owner with
    | .possession _ => some .possessed
    | .free =>
      if r.reminder || r.standing then some .restricted
      else if c.metBy r.occupancy then none else some r.occupancy.reason
    | _ => some .owned

/-- R39: the first reason for which a point is unavailable; o is the occupancy of its section. -/
def PointRec.unavailable (p : PointRec) (k : ClaimKind) (pos : Position) (o : Option Occupancy) : Option Reason :=
  if p.possessed then some .possessed
  else if p.claimed.isSome && p.claimed != some pos then some .oppositePosition
  else if k = .flank ∧ 8 ≤ p.flankCount then some .owned
  else if p.needsMove pos then
    if p.reminder || p.standing then some .restricted
    else if o = some .occupied ∨ o = some .clearing then some .occupied
    else if o = some .disturbed then some .disturbed
    else none
  else none

/-- R39: the first reason for which a point cannot take a possession mark. -/
def PointRec.unavailableToPossession (p : PointRec) : Option Reason :=
  if p.pathCount > 0 ∨ p.overlapCount > 0 ∨ p.flankCount > 0 then some .owned else none

/-- R39: the first reason for which a signal cannot be an entry signal. -/
def SignalRec.unavailableAsEntry (r : SignalRec) : Option Reason :=
  if r.possessionCount > 0 then some .possessed
  else if r.owningSlot.isSome ∨ r.flankCount > 0 then some .owned
  else if r.reminder || r.standing then some .restricted
  else none

/-- R39, R91: the reason for which a signal cannot be a flank element. -/
def SignalRec.unavailableAsFlank (r : SignalRec) : Option Reason :=
  if r.owningSlot.isSome ∨ 8 ≤ r.flankCount then some .owned else none

/-- R39: the reason for which a signal cannot be held by a possession. -/
def SignalRec.unavailableToPossession (r : SignalRec) : Option Reason :=
  if r.owningSlot.isSome then some .owned else none

/-- R39: an item that is unavailable, with its reason. An element without a record is unavailable. -/
def Blocks.unavailable (b : Blocks) (i : ClaimItem) : Option Finding :=
  match i.hold with
  | .sec n owner =>
    match b.sectionRec n with
    | none => some { element := .sec n, reason := .none }
    | some r => (r.unavailable owner i.condition).map (fun x => { element := .sec n, reason := x })
  | .point n k pos =>
    match b.pointRec n with
    | none => some { element := .point n, reason := .none }
    | some p =>
      (p.unavailable k pos ((b.pointEntry n).bind (fun e => b.occupancy e.sec))).map
        (fun x => { element := .point n, reason := x })
  | .pointPossession n =>
    match b.pointRec n with
    | none => some { element := .point n, reason := .none }
    | some p => p.unavailableToPossession.map (fun x => { element := .point n, reason := x })
  | .signalEntry n _ =>
    match b.signalRec n with
    | none => some { element := .signal n, reason := .none }
    | some r => r.unavailableAsEntry.map (fun x => { element := .signal n, reason := x })
  | .signalFlank n =>
    match b.signalRec n with
    | none => some { element := .signal n, reason := .none }
    | some r => r.unavailableAsFlank.map (fun x => { element := .signal n, reason := x })
  | .signalPossession n =>
    match b.signalRec n with
    | none => some { element := .signal n, reason := .none }
    | some r => r.unavailableToPossession.map (fun x => { element := .signal n, reason := x })

/-- R39: the first unavailable item of a claim set. -/
def Blocks.checkClaim (b : Blocks) (items : List ClaimItem) : Option Finding := items.findSome? b.unavailable

/-- The count of a claim's kind changed. -/
def PointRec.withCount (p : PointRec) (k : ClaimKind) (f : Nat → Nat) : PointRec :=
  match k with
  | .path => { p with pathCount := f p.pathCount }
  | .overlap => { p with overlapCount := f p.overlapCount }
  | .flank => { p with flankCount := f p.flankCount }

/-- The point holds a claim of any kind (R27, R93). -/
def PointRec.hasClaim (p : PointRec) : Bool := 0 < p.pathCount + p.overlapCount + p.flankCount

/-- R40: a point claim applied: the count, the claimed position, and the drive it needs; a pending call toward the
other position is overtaken first. Whether a flank claim drives a point that another claim holds, as R40 and R90 say, or
never, as R93 says, is a free value (log entry 39). -/
def Blocks.applyPointClaim (b : Blocks) (n : Nat) (k : ClaimKind) (pos : Position) : Blocks :=
  match b.pointRec n with
  | none => b
  | some p =>
    let free := Config.flankDrivesClaimed b.freeIndex n
    let b := if p.ref ≠ some pos then b.overtakeCall n else b
    let b := b.updPoint n (fun p => { p.withCount k (· + 1) with claimed := some pos })
    if p.needsMove pos && (!(k = .flank && p.hasClaim) || free) then (b.drive n pos).1 else b

/-- R40: an item applied. -/
def Blocks.applyItem (b : Blocks) (i : ClaimItem) : Blocks :=
  match i.hold with
  | .sec n owner =>
    b.updSection n (fun r => { r with owner := owner, passage := false, identity := i.identity.or r.identity })
  | .point n k pos => b.applyPointClaim n k pos
  | .pointPossession n => (b.overtakeCall n).updPoint n (fun p => { p with possessed := true })
  | .signalEntry n slot => b.updSignal n (fun r => { r with owningSlot := some slot })
  | .signalFlank n => b.updSignal n (fun r => { r with flankCount := r.flankCount + 1 })
  | .signalPossession n => b.updSignal n (fun r => { r with possessionCount := r.possessionCount + 1 })

/-- R40: an available claim set applied item by item, and entered in its owner's list of holds (R41). -/
def Blocks.applyClaim (b : Blocks) (c : Claimant) (items : List ClaimItem) : Blocks :=
  let b := items.foldl Blocks.applyItem b
  { b with holds := b.holds ++ items.map (fun i => { claimant := c, hold := i.hold }) }

/-- R39, R40: a claim set checked and applied whole, or refused whole with the first unavailable element. -/
def Blocks.claim (b : Blocks) (c : Claimant) (items : List ClaimItem) : Except Finding Blocks :=
  match b.checkClaim items with
  | some f => .error f
  | none => .ok (b.applyClaim c items)

/-- The record of a point with one claim of a kind fewer; with none left the claimed position is none (R41). -/
def PointRec.withoutClaim (p : PointRec) (k : ClaimKind) : PointRec :=
  let q := p.withCount k (· - 1)
  if q.pathCount = 0 ∧ q.overlapCount = 0 ∧ q.flankCount = 0 then { q with claimed := none } else q

/-- R41: an item released. -/
def Blocks.releaseItem (b : Blocks) (h : Hold) : Blocks :=
  match h with
  | .sec n _ =>
    b.updSection n (fun r =>
      { r with
        owner := .free
        passage := false
        identity := if r.occupancy = .clear then none else r.identity })
  | .point n k _ => b.updPoint n (fun p => p.withoutClaim k)
  | .pointPossession n => b.updPoint n (fun p => { p with possessed := false })
  | .signalEntry n _ => (b.setCommanded n .stop).updSignal n (fun r => { r with owningSlot := none })
  | .signalFlank n => b.updSignal n (fun r => { r with flankCount := r.flankCount - 1 })
  | .signalPossession n => b.updSignal n (fun r => { r with possessionCount := r.possessionCount - 1 })

/-- R41: the list of holds without the items of a release set, each item taking one hold of its owner; none where an item
names a hold that its owner does not have. -/
def takeHolds (c : Claimant) : List Hold → List HoldRec → Option (List HoldRec)
  | [], hs => some hs
  | h :: items, hs =>
    if hs.contains { claimant := c, hold := h } then takeHolds c items (hs.erase { claimant := c, hold := h }) else none

/-- R41, R43: a release set applied whole; an item its owner does not hold is a failure of the internal checks, and the
set is not applied. -/
def Blocks.release (b : Blocks) (c : Claimant) (items : List Hold) : Blocks :=
  match takeHolds c items b.holds with
  | some hs => { items.foldl Blocks.releaseItem b with holds := hs }.markFreed
  | none => b.failCheck

/-! ### The two timers of the element table -/

/-- CONFIRMATION_TIMER_EXPIRY (R21): in CLEARING, the timer's expiry makes the section CLEAR, at the expiry time. -/
def Blocks.confirmationExpiry (b : Blocks) (n : Nat) : Option Blocks :=
  match b.sectionRec n with
  | none => none
  | some r =>
    match r.confirm with
    | none => none
    | some t =>
      if r.occupancy = .clearing ∧ Clock.reached b.clock t then some (b.setOccupancy n .clear t none) else none

/-- MOVE_TIMER_EXPIRY (R31), at the expiry time. -/
def Blocks.moveExpiry (b : Blocks) (n : Nat) : Option Blocks :=
  match b.pointRec n with
  | none => none
  | some p =>
    match p.moveTimer with
    | none => none
    | some t => if p.state = .moving ∧ Clock.reached b.clock t then some (b.moveTimeout n t) else none

end Sys2Proof.Machine
end

