-- ==== Sys2Proof/Machine/BorderSend.lean ====
section
/-! DEFINITION. What the border unit (07) sends, and what the other blocks ask of it: asks for the token and for entry,
and the giving up of an entry. -/

namespace Sys2Proof.Machine

/-- The kind code of a border telegram (12.6). -/
def Telegram.code : Telegram → Nat
  | .lineState _ => 1
  | .tokenAsk _ => 2
  | .tokenGive _ => 3
  | .tokenDecline _ => 4
  | .entryAsk _ _ _ => 5
  | .entryGrant _ _ => 6
  | .entryDeny _ _ => 7
  | .entryFree _ _ => 8
  | .trainPass _ _ => 9
  | .trainTaken _ => 10

/-- 12.6: the four characters of a line view. -/
def LineView.bytes (v : LineView) : List Byte :=
  [byte (TokenView.code v.token), byte (flag v.borderClear 0 + flag v.reception.isSome 1 + flag v.outgoing 2)] ++
    bytesBE16 ((v.reception.map (·.toNat)).getD 0)

/-- 12.6: the characters after the header: the line number for every kind but LINE STATE, and the kind's own fields. -/
def Telegram.own : Telegram → List Byte
  | .lineState vs => vs.flatMap LineView.bytes
  | .tokenAsk l => [byte l]
  | .tokenGive l => [byte l]
  | .tokenDecline l => [byte l]
  | .entryAsk l r i => [byte l] ++ bytesBE16 r.toNat ++ identityBytes i
  | .entryGrant l r => [byte l] ++ bytesBE16 r.toNat
  | .entryDeny l r => [byte l] ++ bytesBE16 r.toNat
  | .entryFree l r => [byte l] ++ bytesBE16 r.toNat
  | .trainPass l i => [byte l] ++ identityBytes i
  | .trainTaken l => [byte l]

/-- 12.6: the data bytes of a telegram before its CRC characters. -/
def Telegram.bytes (t : Telegram) (area : Nat) (seq : Byte) : List Byte :=
  [byte t.code] ++ bytesBE16 area ++ [seq] ++ t.own

/-- A telegram sent on a port in use: it carries the area identity and the transmit sequence, which then advances from
255 back to 0 (R127). In HALTED nothing is sent (R124). -/
def Blocks.sendBorder (b : Blocks) (port : Nat) (t : Telegram) : Blocks :=
  match b.image?, b.linkRec port with
  | some i, some l =>
    if b.mode = .halted then b
    else
      let chars := telegramChars (t.bytes i.head.area l.transmit)
      let b := b.updLink port (fun l => { l with transmit := l.transmit + 1 })
      { b with work := { b.work with sent := b.work.sent ++ [.border port t chars] } }
  | _, _ => b

/-- A telegram that names a line, sent on the line's port. -/
def Blocks.sendLine (b : Blocks) (line : Nat) (t : Telegram) : Blocks := b.sendBorder (portOf line) t

/-- The Route Set entry whose exit is a line: its slot (R130: at most one). -/
def Blocks.outgoingSlot (b : Blocks) (line : Nat) : Option Nat :=
  (List.range b.routes.length).find? (fun s =>
    (b.routeRec s).any (fun r => r.border.any (fun p => p.line == line)))

/-- The route exits to the line. -/
def Blocks.exitsTo (b : Blocks) (route line : Nat) : Bool := (b.routeEntry route).any (fun e => e.exit = .line line)

/-- R130: the line has a holding. -/
def Blocks.hasHolding (b : Blocks) (line : Nat) : Bool :=
  (b.outgoingSlot line).isSome || b.waiting.any (fun w => b.exitsTo w.route line) ||
    (b.lineRec line).any (fun l => l.reception.isSome)

/-- R131: TOKEN ASK is sent, and the token wait of 5 s started, unless an ask is already running. -/
def Blocks.askToken (b : Blocks) (line : Nat) : Blocks :=
  match b.lineRec line with
  | none => b
  | some l =>
    if l.tokenAsk.isSome then b
    else (b.sendLine line (.tokenAsk line)).updLine line (fun l =>
      { l with tokenAsk := some (Clock.after b.clock 5000) })

/-- R135: ENTRY ASK can be sent: the link is UP and the line's disagreement mark is no. -/
def Blocks.canAskEntry (b : Blocks) (line : Nat) : Bool :=
  b.linkUp (portOf line) && (b.lineRec line).any (fun l => !l.disagreement)

/-- R135: ENTRY ASK with the route number as reference. -/
def Blocks.sendEntryAsk (b : Blocks) (line : Nat) (reference : Word16) (identity : Option Identity) : Blocks :=
  (b.sendLine line (.entryAsk line reference identity)).updLine line (fun l => { l with entryAsk := some reference })

/-- R135: the line's entry ask is forgotten. -/
def Blocks.forgetEntryAsk (b : Blocks) (line : Nat) : Blocks := b.updLine line (fun l => { l with entryAsk := none })

/-- R87, R135: an asked or granted entry is given up: ENTRY FREE, and the entry ask becomes none. -/
def Blocks.freeEntry (b : Blocks) (line : Nat) (reference : Word16) : Blocks :=
  (b.sendLine line (.entryFree line reference)).forgetEntryAsk line

/-- R87, R135, R137: what the border unit does when a border route is released whole, by its grant. The line's entry ask
becomes none in every case (R135). -/
def Blocks.borderReleased (b : Blocks) (p : BorderPart) (reference : Word16) : Blocks :=
  match p.grant with
  | .none => b.forgetEntryAsk p.line
  | .asked => b.freeEntry p.line reference
  | .granted => b.freeEntry p.line reference
  | .lost =>
    if b.linkUp (portOf p.line) then b.freeEntry p.line reference
    else b.updLine p.line (fun l => { l with deferredFree := some reference, entryAsk := none })

/-- R133, R134: a token now HELD is told to the route engine, which re-examines its waiting list (R65). -/
def Blocks.noticeTokenHeld (b : Blocks) : Blocks := { b with work := { b.work with tokenHeld := true } }

end Sys2Proof.Machine
end

