-- ==== Sys2Proof/Machine/StoreList.lean ====
section
/-! DEFINITION. The store write list (R174): queueing a record write, and reporting its end. -/

namespace Sys2Proof.Machine

/-- R132: the give's store write has ended, finished or failed: TOKEN GIVE is sent. -/
def Blocks.sendGive (b : Blocks) (line : Nat) : Blocks :=
  (b.updLine line (fun l => { l with givePending := false })).sendLine line (.tokenGive line)

/-- R174: the end of a record write reported to the block that queued it; a failed write answers STORE_FAULT. -/
def Blocks.reportWrite (b : Blocks) (r : Report) (finished : Bool) : Blocks :=
  match r with
  | .answer a => if finished then b.answer a.cell a.outcome a.detail else b.answer a.cell .storeFault .none
  | .give line => b.sendGive line
  | .nothing => b

/-- R174: a failed write raises STORE_FAULT for DEVICE 0. -/
def Blocks.storeFault (b : Blocks) : Blocks := b.raiseAlarm .storeFault .device b.clock

/-- R174: a record write joins the list, and begins at once when nothing runs or waits; with 32 writes in the list it
is reported failed at once. -/
def Blocks.queueRecord (b : Blocks) (v : RecordValue) (r : Report) : Blocks :=
  if 32 ≤ b.writes.length then b.storeFault.reportWrite r false
  else if b.running.isNone ∧ b.writes.isEmpty then { b with running := some (.record v r) }
  else { b with writes := b.writes ++ [.record v r] }

end Sys2Proof.Machine
end

