-- ==== Sys2Proof/Machine/Protection.lean ====
section
/-! DEFINITION. The protection unit (05): the choice of overlaps and flank elements, their items in claim and release
sets, and the overlap from claim to release. -/

namespace Sys2Proof.Machine

/-- A hold asked for with occupancy condition CLEAR and no identity. -/
def Hold.item (h : Hold) : ClaimItem := { hold := h, condition := .clear, identity := none }

/-- R89, R103: the holds of an overlap: its sections, then its points, in table order. -/
def OverlapEntry.holds (o : OverlapEntry) (slot : Nat) : List Hold :=
  o.sections.map (fun n => .sec n (.overlap slot)) ++ o.points.map (fun p => .point p.point .overlap p.pos)

/-- The hold on a flank element (R96). -/
def FlankElement.hold : FlankElement → Hold
  | .point n pos => .point n .flank pos
  | .signal n => .signalFlank n

/-- R95: the element assigned. -/
def FlankEntry.assigned (f : FlankEntry) (p : FlankPart) : FlankElement :=
  if p.substitute then f.substitute.getD f.primary else f.primary

/-- The holds of an overlap by number. -/
def Blocks.overlapHolds (b : Blocks) (n slot : Nat) : List Hold :=
  match b.overlapEntry n with
  | none => []
  | some o => o.holds slot

/-- R97: the first available choice; with choices and none available, the first unavailable element of the first. -/
def Blocks.chooseOverlap (b : Blocks) (slot : Nat) (choices : List Nat) : Except Finding (Option Nat) :=
  match choices with
  | [] => .ok none
  | first :: _ =>
    match choices.find? (fun n => (b.checkClaim ((b.overlapHolds n slot).map Hold.item)).isNone) with
    | some n => .ok (some n)
    | none =>
      match b.checkClaim ((b.overlapHolds first slot).map Hold.item) with
      | some f => .error f
      | none => .ok (some first)

/-- R90 to R92: PRIMARY if available, else SUBSTITUTE if named and available, else the primary and its reason. -/
def Blocks.chooseFlank (b : Blocks) (f : FlankEntry) : Except Finding FlankPart :=
  match b.unavailable f.primary.hold.item with
  | none => .ok { substitute := false, released := false }
  | some x =>
    match f.substitute with
    | none => .error x
    | some s =>
      if (b.unavailable s.hold.item).isNone then .ok { substitute := true, released := false } else .error x

/-- R89: flank entries one by one in table order, up to the first failure. -/
def Blocks.chooseFlanks (b : Blocks) : List FlankEntry → Except Finding (List FlankPart)
  | [] => .ok []
  | f :: fs =>
    match b.chooseFlank f with
    | .error x => .error x
    | .ok p =>
      match b.chooseFlanks fs with
      | .error x => .error x
      | .ok ps => .ok (p :: ps)

/-- R89: the assignment made. -/
structure Assignment where
  overlap : Option Nat
  flanks : List FlankPart
  deriving DecidableEq, Repr

/-- R89: overlap choices first, then flank entries. -/
def Blocks.protection (b : Blocks) (slot : Nat) (e : RouteEntry) : Except Finding Assignment :=
  match b.chooseOverlap slot e.overlaps with
  | .error x => .error x
  | .ok o =>
    match b.chooseFlanks e.flanks with
    | .error x => .error x
    | .ok fs => .ok { overlap := o, flanks := fs }

/-- The holds of a route's overlap part, if it is still present. -/
def Blocks.overlapPartHolds (b : Blocks) (slot : Nat) (o : Option OverlapPart) : List Hold :=
  match o with
  | none => []
  | some p => b.overlapHolds p.number slot

/-- A flank entry with its assignment. -/
abbrev FlankPair := FlankEntry × FlankPart

/-- The holds of the flank assignments not yet released that satisfy a condition on the entry (R96). -/
def flankHolds (fs : List FlankPair) (q : FlankEntry → Bool) : List Hold :=
  (fs.filter (fun x => !x.2.released && q x.1)).map (fun x => (x.1.assigned x.2).hold)

/-- R96: the assignments that protect an index are marked released. -/
def markReleased (fs : List FlankPair) (q : FlankEntry → Bool) : List FlankPart :=
  fs.map (fun x => if q x.1 then { x.2 with released := true } else x.2)

/-! ### The overlap (5.6) -/

/-- A point is at rest in a position (R55, R98). -/
def Blocks.restsIn (b : Blocks) (p : PointPos) : Bool :=
  (b.pointRec p.point).any (fun r => r.state = .atRest && r.ref == some p.pos)

/-- R98: every overlap point rests in its claimed position. -/
def Blocks.overlapAtRest (b : Blocks) (n : Nat) : Bool :=
  match b.overlapEntry n with
  | none => false
  | some o => o.points.all b.restsIn

/-- R98: the overlap part when the claim set has been applied. -/
def Blocks.newOverlapPart (b : Blocks) (n : Nat) : OverlapPart :=
  { number := n, state := if b.overlapAtRest n then .locked else .claimed, expiry := none }

/-- R99: in CLAIMED and LOCKED the state follows the points. -/
def Blocks.testOverlap (b : Blocks) (slot : Nat) : Blocks :=
  match (b.routeRec slot).bind (·.overlap) with
  | none => b
  | some p =>
    if p.state = .claimed ∨ p.state = .locked then
      b.updRoute slot (fun r => { r with overlap := some (b.newOverlapPart p.number) })
    else b

/-- R104: the overlap given back in a release set of its own. -/
def Blocks.releaseOverlap (b : Blocks) (slot : Nat) : Blocks :=
  match (b.routeRec slot).bind (·.overlap) with
  | none => b
  | some p =>
    (b.release (.slot slot) (b.overlapHolds p.number slot)).updRoute slot (fun r => { r with overlap := none })

/-- Every section of the overlap is CLEAR (R101). -/
def Blocks.overlapClear (b : Blocks) (n : Nat) : Bool :=
  match b.overlapEntry n with
  | none => false
  | some o => o.sections.all b.isClear

/-- R101: the timer has run out. -/
def Blocks.overlapTimeout (b : Blocks) (slot : Nat) : Blocks :=
  match (b.routeRec slot).bind (·.overlap) with
  | none => b
  | some p =>
    if b.overlapClear p.number then b.releaseOverlap slot
    else b.updRoute slot (fun r => { r with overlap := some { p with state := .expired, expiry := none } })

/-- R100: the train has reached the berth of an entry in PASSING. -/
def Blocks.berthReached (b : Blocks) (e : RouteEntry) (r : RouteRec) : Bool :=
  r.state = .passing && (e.path.getLast?).any b.isPassed &&
    (e.path.length ≤ 1 || e.path.length - 1 ≤ r.released || (e.path[e.path.length - 2]?).any b.isPassed)

/-- R100, R101: timing starts when the train has reached the berth; a release time of 0 expires in the same event. -/
def Blocks.testOverlapTiming (b : Blocks) (slot : Nat) : Blocks :=
  match b.routeRec slot with
  | none => b
  | some r =>
    match b.routeEntry r.route, r.overlap with
    | some e, some p =>
      if (p.state = .claimed ∨ p.state = .locked) ∧ b.berthReached e r then
        match b.overlapEntry p.number with
        | none => b
        | some o =>
          let q := { p with state := .timing, expiry := some (Clock.after b.clock (1000 * o.release)) }
          let b := b.updRoute slot (fun r => { r with overlap := some q })
          if o.release = 0 then b.overlapTimeout slot else b
      else b
    | _, _ => b

/-- R102: in EXPIRED the overlap is released when every section is CLEAR. -/
def Blocks.testOverlapExpired (b : Blocks) (slot : Nat) : Blocks :=
  match (b.routeRec slot).bind (·.overlap) with
  | none => b
  | some p => if p.state = .expired ∧ b.overlapClear p.number then b.releaseOverlap slot else b

/-- OVERLAP_TIMER_EXPIRY (R101): in TIMING, the expiry reached. -/
def Blocks.overlapExpiry (b : Blocks) (slot : Nat) : Option Blocks :=
  match (b.routeRec slot).bind (·.overlap) with
  | none => none
  | some p => if p.state = .timing ∧ Clock.due b.clock p.expiry then some (b.overlapTimeout slot) else none

end Sys2Proof.Machine
end

