-- ==== Sys2Proof/Machine/RouteEngine.lean ====
section
/-! DEFINITION. The route engine (03, 04): the Route Set from SETTING to release, sequential and whole release, and the
waiting list. -/

namespace Sys2Proof.Machine

/-- A Route Set entry with its table entry. -/
def Blocks.entryAt (b : Blocks) (slot : Nat) : Option (RouteEntry × RouteRec) :=
  (b.routeRec slot).bind (fun r => (b.routeEntry r.route).map (fun e => (e, r)))

/-- The flank entries of a route with their assignments. -/
def flankPairs (e : RouteEntry) (r : RouteRec) : List FlankPair := e.flanks.zip r.flank

/-- The reason of a finding. -/
def Finding.mk' (e : Element) (r : Reason) : Finding := { element := e, reason := r }

/-! ### Claim and release sets of a route -/

/-- R77: every hold the entry still has, in claim set order. -/
def Blocks.wholeHolds (b : Blocks) (slot : Nat) (e : RouteEntry) (r : RouteRec) : List Hold :=
  (e.path.drop r.released).map (fun n => .sec n (.route slot)) ++
    (e.points.filter (fun p => r.released < p.index)).map (fun p => .point p.point .path p.pos) ++
    (if r.released = 0 then [.signalEntry e.entry slot] else []) ++
    b.overlapPartHolds slot r.overlap ++ flankHolds (flankPairs e r) (fun _ => true)

/-- R74, R75: the assignments released with path section k: those that protect it, and with the last section all. -/
def releasedWith (e : RouteEntry) (k : Nat) (f : FlankEntry) : Bool := f.index = k || k = e.path.length

/-- R74: the holds given back with path section k, the front section. -/
def Blocks.passageHolds (b : Blocks) (slot : Nat) (e : RouteEntry) (r : RouteRec) (sec k : Nat) : List Hold :=
  [.sec sec (.route slot)] ++
    (e.points.filter (fun p => p.index = k)).map (fun p => .point p.point .path p.pos) ++
    (if k = 1 then [.signalEntry e.entry slot] else []) ++
    flankHolds (flankPairs e r) (releasedWith e k) ++
    (if k = e.path.length then b.overlapPartHolds slot r.overlap else [])

/-- R51: the claim set of a route. -/
def Blocks.routeClaim (b : Blocks) (slot : Nat) (e : RouteEntry) (sweep : Bool) (identity : Option Identity)
    (a : Assignment) : List ClaimItem :=
  e.path.map (fun n =>
      { hold := .sec n (.route slot), condition := if sweep then .sweep else .clear, identity := identity }) ++
    e.points.map (fun p => (Hold.point p.point .path p.pos).item) ++
    [(Hold.signalEntry e.entry slot).item] ++
    (match a.overlap with
     | none => []
     | some n => (b.overlapHolds n slot).map Hold.item) ++
    (e.flanks.zip a.flanks).map (fun x => (x.1.assigned x.2).hold.item)

/-! ### Proofs (R55) -/

/-- Every point the entry claims, in claim set order, with its claimed position. -/
def Blocks.claimedPoints (b : Blocks) (e : RouteEntry) (r : RouteRec) : List PointPos :=
  (e.points.filter (fun p => r.released < p.index)).map (fun p => { point := p.point, pos := p.pos }) ++
    (match r.overlap.bind (fun o => b.overlapEntry o.number) with
     | none => []
     | some o => o.points) ++
    (flankPairs e r).filterMap (fun x =>
      if x.2.released then none
      else match x.1.assigned x.2 with
        | .point n pos => some { point := n, pos := pos }
        | .signal _ => none)

/-- Every signal the entry holds as a flank signal. -/
def flankSignals (e : RouteEntry) (r : RouteRec) : List Nat :=
  (flankPairs e r).filterMap (fun x =>
    if x.2.released then none
    else match x.1.assigned x.2 with
      | .point _ _ => none
      | .signal n => some n)

/-- R55, proof 3: the field units of the path sections, the path point ends and the entry signal. -/
def Blocks.routeUnits (b : Blocks) (e : RouteEntry) : List Nat :=
  e.path.filterMap (fun n => (b.sectionEntry n).map (·.unit)) ++
    e.points.flatMap (fun p => ((b.pointEntry p.point).map (fun x => x.ends.map (·.unit))).getD []) ++
    ((b.signalEntry e.entry).map (·.unit)).toList

/-- R55, proof 4: the section meets the occupancy condition of its claim. -/
def Blocks.meetsClaim (b : Blocks) (sweep : Bool) (n : Nat) : Bool :=
  b.isClear n || (sweep && b.occupancy n == some .restoring)

/-- The path sections not yet released. -/
def unreleased (e : RouteEntry) (r : RouteRec) : List Nat := e.path.drop r.released

/-- R55, proof 4: the first path section not yet released that fails the condition of its claim. -/
def Blocks.unmetSection (b : Blocks) (e : RouteEntry) (r : RouteRec) : Option Nat :=
  (unreleased e r).find? (fun n => !b.meetsClaim r.sweep n)

/-- The signal shows STOP. -/
def Blocks.showsStop (b : Blocks) (n : Nat) : Bool := (b.signalRec n).any (fun s => s.shown = .stop)

/-- R55: the first proof that fails, if any. -/
def Blocks.unmetProof (b : Blocks) (e : RouteEntry) (r : RouteRec) : Option Finding :=
  (((b.claimedPoints e r).find? (fun p => !b.restsIn p)).map
      (fun p => Finding.mk' (.point p.point) .pointNotProved)).or <|
  (((flankSignals e r).find? (fun n => !b.showsStop n)).map
      (fun n => Finding.mk' (.signal n) .flankSignalNotStop)).or <|
  (((b.routeUnits e).find? (fun n => !b.unitTrusted n)).map
      (fun n => Finding.mk' (.unit n) .unitNotActive)).or <|
  ((b.unmetSection e r).map (fun n => Finding.mk' (.sec n) .sectionNotClear)).or <|
  match r.overlap with
  | none => none
  | some o => if o.state = .locked then none else some (Finding.mk' (.overlap o.number) .overlapNotLocked)

/-- R55: the further proof of a border route, grant GRANTED. -/
def unmetGrant (r : RouteRec) : Option Finding :=
  match r.border with
  | none => none
  | some p => if p.grant = .granted then none else some (Finding.mk' (.line p.line) .grantLost)

/-! ### Leaving the Route Set -/

/-- The slot of an entry becomes free; the handed-over slot of its line becomes none (R141). The line's entry ask is left
as it stands, which after a passage is the model's choice (log entry 31); a whole release ends it (R135). -/
def Blocks.leave (b : Blocks) (slot : Nat) : Blocks :=
  let line := ((b.routeRec slot).bind (·.border)).map (·.line)
  let b := ({ b with routes := b.routes.set slot none }).mark (.slot slot)
  match line with
  | none => b
  | some l => b.updLine l (fun r => if r.handedSlot = some slot then { r with handedSlot := none } else r)

/-- R57: a border route is torn down whole and its cell answered BORDER_REFUSED. -/
def Blocks.tearDown (b : Blocks) (slot : Nat) : Blocks :=
  match b.entryAt slot with
  | none => b
  | some (e, r) =>
    ((b.release (.slot slot) (b.wholeHolds slot e r)).answerOpt r.cell .borderRefused .none).leave slot

/-- R77: the whole release of an entry; an open cell is answered WITHDRAWN (R66), and the border unit told (R87). -/
def Blocks.wholeRelease (b : Blocks) (slot : Nat) : Blocks :=
  match b.entryAt slot with
  | none => b
  | some (e, r) =>
    let b := (b.release (.slot slot) (b.wholeHolds slot e r)).answerOpt r.cell .withdrawn .none
    let b := b.leave slot
    match r.border with
    | none => b
    | some p => b.borderReleased p (BitVec.ofNat 16 r.route)

/-! ### Clearing (R56) and loss of proof (R58 to R62) -/

/-- R56: the aspect that clears an entry. -/
def clearAspect (sweep : Bool) : Aspect := if sweep then .restricted else .proceed

/-- R56: the entry goes CLEARED and its entry signal is commanded off. -/
def Blocks.clearEntry (b : Blocks) (slot : Nat) (e : RouteEntry) (r : RouteRec) : Blocks :=
  (b.updRoute slot (fun r => { r with state := .cleared })).commandSignal slot e.entry (clearAspect r.sweep)

/-- R56, R135: the ask for entry, or the deny reported at once. -/
def Blocks.askEntry (b : Blocks) (slot line : Nat) (r : RouteRec) : Blocks :=
  if b.canAskEntry line then
    let p : BorderPart := { line := line, grant := .asked, expiry := some (Clock.after b.clock 10000) }
    (b.updRoute slot (fun r => { r with border := some p })).sendEntryAsk line (BitVec.ofNat 16 r.route) r.identity
  else b.tearDown slot

/-- R56: what follows from LOCKED. -/
def Blocks.actLocked (b : Blocks) (slot : Nat) (e : RouteEntry) (r : RouteRec) : Blocks :=
  match r.border with
  | none => b.clearEntry slot e r
  | some p =>
    match p.grant with
    | .granted => b.clearEntry slot e r
    | .none => b.askEntry slot p.line r
    | .asked => b
    | .lost => b

/-- R59, R60: the entry goes STALLED with a reason; an open cell is answered STALLED. -/
def Blocks.stall (b : Blocks) (slot : Nat) (r : RouteRec) (f : Finding) : Blocks :=
  (b.updRoute slot (fun r => { r with state := .stalled, reason := some f, cell := none })).answerOpt r.cell .stalled
    f.detail

/-- R58, R62: a CLEARED entry loses a proof: STOP, HELD with the reason; an open cell is answered. -/
def Blocks.holdEntry (b : Blocks) (slot : Nat) (e : RouteEntry) (r : RouteRec) (f : Finding) (o : CellOutcome)
    (d : Detail) : Blocks :=
  ((b.commandSignal slot e.entry .stop).updRoute slot (fun r =>
    { r with state := .held, reason := some f, cell := none })).answerOpt r.cell o d

/-- R55, R56, R61, R62, R58: the proofs tested in SETTING, LOCKED and CLEARED. Of a lamp fault and another lost proof in
one event the other proof gives reason and answer: the model's choice (log entry 13). LAMP_FAULT carries no detail, R58
stating none (log entry 15). -/
def Blocks.reactProofs (b : Blocks) (slot : Nat) : Blocks :=
  match b.entryAt slot with
  | none => b
  | some (e, r) =>
    match r.state with
    | .setting =>
      match b.unmetProof e r with
      | some _ => b
      | none => (b.updRoute slot (fun r => { r with state := .locked })).actLocked slot e r
    | .locked =>
      match b.unmetProof e r with
      | some f => b.updRoute slot (fun r => { r with state := .setting, reason := some f })
      | none => b.actLocked slot e r
    | .cleared =>
      match (b.unmetProof e r).or (unmetGrant r) with
      | some f => b.holdEntry slot e r f .conflict f.detail
      | none =>
        if (b.signalRec e.entry).any (·.lampFault) then
          b.holdEntry slot e r (Finding.mk' (.signal e.entry) .lampFault) .lampFault .none
        else b
    | _ => b

/-- R58: the entry signal is proved, and the open cell is answered SET with the slot. -/
def Blocks.reactProved (b : Blocks) (slot : Nat) : Blocks :=
  match b.entryAt slot with
  | none => b
  | some (e, r) =>
    if r.state = .cleared ∧ r.cell.isSome ∧ (b.signalRec e.entry).any (·.proved) then
      (b.updRoute slot (fun r => { r with cell := none })).answerOpt r.cell .set (.routePlace 1 slot r.state.code)
    else b

/-! ### Passage and sequential release (4.1) -/

/-- R70: passage. -/
def Blocks.passage (b : Blocks) (slot : Nat) (e : RouteEntry) (r : RouteRec) : Blocks :=
  ((b.commandSignal slot e.entry .stop).updRoute slot (fun r =>
    { r with state := .passing, cell := none })).answerOpt r.cell .set (.routePlace 1 slot RouteState.passing.code)

/-- R71: a train has passed the entry signal at stop. -/
def Blocks.passedAtStop (b : Blocks) (slot : Nat) (e : RouteEntry) : Blocks :=
  (b.raiseAlarm .signalPassedAtStop (.signal e.entry) b.clock).updRoute slot (fun r =>
    { r with state := .passing, timer := none })

/-- R60: unexpected occupation of a path section. -/
def Blocks.unexpectedOccupation (b : Blocks) (slot sec : Nat) (r : RouteRec) : Blocks :=
  (b.raiseAlarm .unexpectedOccupation (.sec sec) b.clock).stall slot r (Finding.mk' (.sec sec) .unexpectedOccupation)

/-- R60, R62, R70, R71: path section i (from 0), not yet released, has become OCCUPIED. -/
def Blocks.reactOccupation (b : Blocks) (slot i : Nat) (o : Occupation) : Blocks :=
  match b.entryAt slot with
  | none => b
  | some (e, r) =>
    if i < r.released then b
    else
      match r.state with
      | .setting => b.unexpectedOccupation slot o.sec r
      | .locked => b.unexpectedOccupation slot o.sec r
      | .stalled => b.unexpectedOccupation slot o.sec r
      | .cleared =>
        if i = 0 then b.passage slot e r
        else
          let f := (b.unmetProof e r).getD (Finding.mk' (.sec o.sec) .sectionNotClear)
          b.holdEntry slot e r f .conflict f.detail
      | .held => if i = 0 then b.passedAtStop slot e else b
      | .cancelling => if i = 0 then b.passedAtStop slot e else b
      | .emergency => if i = 0 ∧ o.marked = false then b.passedAtStop slot e else b
      | .passing => b

/-- The occupations of this event in the entry's path, in path order. -/
def Blocks.reactOccupations (b : Blocks) (slot : Nat) : Blocks :=
  match b.entryAt slot with
  | none => b
  | some (e, _) =>
    (List.range e.path.length).foldl (fun b i =>
      match b.work.occupations.find? (fun o => e.path[i]? == some o.sec) with
      | none => b
      | some o => b.reactOccupation slot i o) b

/-- R59: a claimed point has become FAILED. -/
def Blocks.reactFailure (b : Blocks) (slot point : Nat) : Blocks :=
  match b.entryAt slot with
  | none => b
  | some (e, r) =>
    if (b.claimedPoints e r).any (fun p => p.point == point) then
      let f := Finding.mk' (.point point) .pointFailed
      match r.state with
      | .setting => b.stall slot r f
      | .stalled =>
        if r.reason.any (fun x => x.reason = .pointFailed) then b.updRoute slot (fun r => { r with reason := some f })
        else b
      | _ => b
    else b

/-- R59: a STALLED entry whose reason is POINT_FAILED returns to SETTING when none of its claimed points is FAILED. -/
def Blocks.reactRecovery (b : Blocks) (slot : Nat) : Blocks :=
  match b.entryAt slot with
  | none => b
  | some (e, r) =>
    if r.state = .stalled ∧ r.reason.any (fun x => x.reason = .pointFailed) ∧
        (b.claimedPoints e r).all (fun p => (b.pointRec p.point).all (fun q => q.state ≠ .failed)) then
      b.updRoute slot (fun r => { r with state := .setting })
    else b

/-- R73, R75: the front section meets the conditions of its release. -/
def Blocks.frontReady (b : Blocks) (e : RouteEntry) (r : RouteRec) : Bool :=
  match e.path[r.released]? with
  | none => false
  | some n =>
    b.isPassed n && b.isClear n &&
      (match e.path[r.released + 1]? with
       | none => true
       | some m => b.occupancy m == some .occupied || b.occupancy m == some .clearing || b.isPassed m)

/-- R74, R75: the front section given back; after the last the entry leaves the Route Set. -/
def Blocks.releaseFront (b : Blocks) (slot : Nat) (e : RouteEntry) (r : RouteRec) : Blocks :=
  match e.path[r.released]? with
  | none => b
  | some n =>
    let k := r.released + 1
    let b := b.release (.slot slot) (b.passageHolds slot e r n k)
    if k = e.path.length then b.leave slot
    else
      b.updRoute slot (fun r =>
        { r with released := k, flank := markReleased (flankPairs e r) (releasedWith e k) })

/-- R73: the front section is tested, and again after each release. -/
def Blocks.sequentialRelease : Nat → Blocks → Nat → Blocks
  | 0, b, _ => b
  | fuel + 1, b, slot =>
    match b.entryAt slot with
    | none => b
    | some (e, r) =>
      if b.frontReady e r then Blocks.sequentialRelease fuel (b.releaseFront slot e r) slot else b

/-- R73, R86: in PASSING and EMERGENCY, after a notice about a path section. -/
def Blocks.reactRelease (b : Blocks) (slot : Nat) : Blocks :=
  match b.entryAt slot with
  | none => b
  | some (e, r) =>
    if (r.state = .passing ∨ r.state = .emergency) ∧ (unreleased e r).any (fun n => b.work.touched.contains n) then
      b.sequentialRelease e.path.length slot
    else b

/-- What one event does to one entry, in the order of log entry 13. -/
def Blocks.reactEntry (b : Blocks) (slot : Nat) : Blocks :=
  let b := b.reactOccupations slot
  let b := b.work.failures.foldl (fun b n => b.reactFailure slot n) b
  let b := b.reactRecovery slot
  let b := b.testOverlap slot
  let b := b.reactProofs slot
  let b := b.reactProved slot
  let b := b.testOverlapTiming slot
  let b := b.testOverlapExpired slot
  b.reactRelease slot

/-! ### SET ROUTE: restriction, availability, outcome (R50 to R54) -/

def Blocks.sectionMarked (b : Blocks) (n : Nat) : Bool := (b.sectionRec n).any (fun r => r.reminder || r.standing)

def Blocks.pointMarked (b : Blocks) (n : Nat) : Bool := (b.pointRec n).any (fun r => r.reminder || r.standing)

def Blocks.signalMarked (b : Blocks) (n : Nat) : Bool := (b.signalRec n).any (fun r => r.reminder || r.standing)

/-- The section is owned as POSSESSION. -/
def Blocks.sectionPossessed (b : Blocks) (n : Nat) : Bool :=
  (b.sectionRec n).any (fun r => match r.owner with
    | .possession _ => true
    | _ => false)

/-- R50: the first possessed section of an overlap. -/
def Blocks.overlapPossessed (b : Blocks) (n : Nat) : Option Nat :=
  (b.overlapEntry n).bind (fun o => o.sections.find? b.sectionPossessed)

/-- R50: the restriction stage: the outcome and the finding, if it refuses. -/
def Blocks.restrictionStage (b : Blocks) (e : RouteEntry) : Option (CellOutcome × Finding) :=
  if b.signalMarked e.entry then some (.restricted, Finding.mk' (.signal e.entry) .restricted)
  else
    match e.path.find? b.sectionMarked with
    | some n => some (.restricted, Finding.mk' (.sec n) .restricted)
    | none =>
      match e.points.find? (fun p => b.pointMarked p.point) with
      | some p => some (.restricted, Finding.mk' (.point p.point) .restricted)
      | none =>
        match e.path.find? b.sectionPossessed with
        | some n => some (.possessed, Finding.mk' (.sec n) .possessed)
        | none =>
          if e.overlaps.all (fun o => (b.overlapPossessed o).isSome) then
            (e.overlaps.head?.bind b.overlapPossessed).map (fun n =>
              (.possessed, Finding.mk' (.sec n) .possessed))
          else none

/-- R52: the token condition. -/
inductive TokenCondition where
  | met
  | askable (line : Nat)
  | unavailable (line : Nat)
  deriving DecidableEq, Repr

/-- R52, by the line's direction mode, token and link. -/
def Blocks.tokenCondition (b : Blocks) (e : RouteEntry) : TokenCondition :=
  match e.exit with
  | .signal _ => .met
  | .line l =>
    match b.lineEntry l, b.lineRec l with
    | some t, some r =>
      match t.mode, r.token with
      | .outbound, _ => .met
      | .bidirectional, some .held => .met
      | .bidirectional, some .notHeld => if b.linkUp (portOf l) then .askable l else .unavailable l
      | _, _ => .unavailable l
    | _, _ => .unavailable l

/-- R45: the lowest-numbered free slot. -/
def Blocks.freeSlot (b : Blocks) : Option Nat := b.routes.findIdx? (·.isNone)

/-- R53: the entry created in its slot, with the parts the protection unit fills and the border part. The line's
deferred free with the same reference becomes none (R137). Its proofs are tested at once. -/
def Blocks.createEntry (b : Blocks) (slot : Nat) (e : RouteEntry) (route : Nat) (sweep : Bool)
    (identity : Option Identity) (cell : Nat) (a : Assignment) : Blocks :=
  let r : RouteRec :=
    { route := route
      state := .setting
      reason := none
      sweep := sweep
      identity := identity
      cell := some cell
      released := 0
      timer := none
      overlap := a.overlap.map b.newOverlapPart
      flank := a.flanks
      border := match e.exit with
        | .signal _ => none
        | .line l => some { line := l, grant := .none, expiry := none } }
  let b := ({ b with routes := b.routes.set slot (some r) }).mark (.slot slot)
  let b := match e.exit with
    | .signal _ => b
    | .line l => b.updLine l (fun x =>
        if x.deferredFree = some (BitVec.ofNat 16 route) then { x with deferredFree := none } else x)
  b.reactEntry slot

/-- What the availability stage finds (R51). -/
inductive Availability where
  | applied (b : Blocks)
  | askable (line : Nat)
  | unavailable (f : Finding)

/-- R51 to R53: the availability stage: slot, token condition, protection, claim set. -/
def Blocks.availability (b : Blocks) (e : RouteEntry) (route : Nat) (sweep : Bool) (identity : Option Identity)
    (cell : Nat) : Availability :=
  match b.freeSlot with
  | none => .unavailable (Finding.mk' (.route route) .setFull)
  | some slot =>
    match b.tokenCondition e with
    | .askable l => .askable l
    | .unavailable l => .unavailable (Finding.mk' (.line l) .border)
    | .met =>
      match b.protection slot e with
      | .error f => .unavailable f
      | .ok a =>
        match b.claim (.slot slot) (b.routeClaim slot e sweep identity a) with
        | .error f => .unavailable f
        | .ok b => .applied (b.createEntry slot e route sweep identity cell a)

/-- R53: the answer to an unavailable request with store time 0. -/
def refusal (f : Finding) : CellOutcome × Detail :=
  if f.reason = .setFull then (.setFull, .none) else (.conflict, f.detail)

/-- R46: an entry appended to the waiting list, or WAIT_FULL. -/
def Blocks.wait (b : Blocks) (w : WaitingRec) : Blocks :=
  if 16 ≤ b.waiting.length then b.answer w.cell .waitFull .none else { b with waiting := b.waiting ++ [w] }

/-- The Route Set slot that holds a route (R49). -/
def Blocks.slotOf (b : Blocks) (route : Nat) : Option Nat :=
  (List.range b.routes.length).find? (fun s => (b.routeRec s).any (fun r => r.route == route))

/-- The place of a route in the waiting list, from 0 (R49). -/
def Blocks.placeOf (b : Blocks) (route : Nat) : Option Nat := b.waiting.findIdx? (fun w => w.route == route)

/-- R46: a waiting entry leaves, and the list closes up. -/
def Blocks.unwait (b : Blocks) (route : Nat) : Blocks :=
  { b with waiting := b.waiting.filter (fun w => w.route != route) }

/-- R49: ACTIVE with the entry's place in the detail. -/
def Blocks.answerActive (b : Blocks) (cell : Nat) (slot : Nat) (r : RouteRec) : Blocks :=
  b.answer cell .active (.routePlace 1 slot r.state.code)

/-- R49: ACTIVE with the entry's list position in the detail. -/
def Blocks.answerWaiting (b : Blocks) (cell place : Nat) : Blocks := b.answer cell .active (.routePlace 2 (place + 1) 0)

/-- R25: the passage mark of every path section not yet released is set to no. -/
def Blocks.clearPassage (b : Blocks) (e : RouteEntry) (r : RouteRec) : Blocks :=
  (unreleased e r).foldl (fun b n => b.updSection n (fun s => { s with passage := false })) b

/-- R63: a re-clear attempt. Proof 4 of R55 includes that no path section is OCCUPIED, CLEARING or DISTURBED. -/
def Blocks.reClear (b : Blocks) (slot : Nat) (e : RouteEntry) (r : RouteRec) (cell : Nat) : Blocks :=
  match (b.unmetProof e r).or (unmetGrant r) with
  | some f => (b.updRoute slot (fun r => { r with reason := some f })).answer cell .conflict f.detail
  | none => ((b.clearPassage e r).updRoute slot (fun r => { r with cell := some cell })).clearEntry slot e r

/-- R64: the points to be driven again. -/
def PointState.needsReDrive : PointState → Bool
  | .failed => true
  | .lostDetection => true
  | .unknown => true
  | _ => false

/-- R64: drives requested in order; the points whose drive did not start. -/
def Blocks.reDrives (b : Blocks) : List PointPos → Blocks × List Nat
  | [] => (b, [])
  | p :: ps =>
    if (b.pointRec p.point).any (fun q => q.state.needsReDrive) then
      let d := b.drive p.point p.pos
      let rest := d.1.reDrives ps
      (rest.1, if d.2 then rest.2 else p.point :: rest.2)
    else b.reDrives ps

/-- R64: a re-drive. Refused for a drive that did not start, its detail gives the point with DRIVE_NOT_STARTED also where
the entry keeps the reason POINT_FAILED, which R64 leaves open: the model's choice (log entry 15). -/
def Blocks.reDrive (b : Blocks) (slot : Nat) (e : RouteEntry) (r : RouteRec) (cell : Nat) : Blocks :=
  match b.unmetSection e r with
  | some n =>
    let f := Finding.mk' (.sec n) .sectionNotClear
    (b.updRoute slot (fun r => { r with reason := some f })).answer cell .stalled f.detail
  | none =>
    let d := b.reDrives (b.claimedPoints e r)
    match d.2 with
    | n :: _ =>
      let f := Finding.mk' (.point n) .driveNotStarted
      (d.1.updRoute slot (fun r =>
        { r with reason := if r.reason.any (fun x => x.reason = .pointFailed) then r.reason else some f })).answer
        cell .stalled f.detail
    | [] =>
      (d.1.clearPassage e r).updRoute slot (fun r =>
        { r with state := .setting, reason := none, cell := some cell })

/-- R47: the cell offset of the first failing parameter of a SET ROUTE, in the order of R47's list, which is the model's
choice (log entry 15). -/
def Blocks.routeParameter (b : Blocks) (q : Request) : Option Nat :=
  let p := q.setRoute
  if b.count .route ≤ p.route then some 28
  else if 600 < p.store then some 32
  else if !q.identityFieldOk 34 then some 34
  else if 2 ≤ p.options then some 30
  else if p.sweep && !(b.routeEntry p.route).any (·.sweepAllowed) then some 30
  else none

/-- R48 in OBSERVING: the request is stored DEFERRED, or answered. That REFUSED_MODE gives the mode, as R188's does, is the
model's choice, R48 stating no detail (log entry 15). -/
def Blocks.setRouteObserving (b : Blocks) (q : Request) : Blocks :=
  let p := q.setRoute
  match b.placeOf p.route with
  | some n => b.answerWaiting q.cell n
  | none =>
    if 0 < p.store ∧ b.waiting.length < 16 then
      b.wait { route := p.route, deferred := true, sweep := p.sweep, identity := p.identity, storeTime := p.store,
               expiry := none, cell := q.cell }
    else b.answer q.cell .refusedMode (.mode b.mode)

/-- R53, R54: the outcome stage for a route not held and not waiting. -/
def Blocks.setRouteNew (b : Blocks) (q : Request) (e : RouteEntry) : Blocks :=
  let p := q.setRoute
  let entry (ms : Nat) : WaitingRec :=
    { route := p.route, deferred := false, sweep := p.sweep, identity := p.identity, storeTime := p.store
      expiry := some (Clock.after q.takenAt ms), cell := q.cell }
  match b.restrictionStage e with
  | some (o, f) => b.answer q.cell o f.detail
  | none =>
    match b.availability e p.route p.sweep p.identity q.cell with
    | .applied b => b
    | .askable l => (b.askToken l).wait (entry (if p.store = 0 then 5000 else 1000 * p.store))
    | .unavailable f =>
      if p.store = 0 then b.answer q.cell (refusal f).1 (refusal f).2 else b.wait (entry (1000 * p.store))

/-- SET ROUTE: parameters (R47), mode (R48), presence (R49), then R50 to R54. -/
def Blocks.setRoute (b : Blocks) (q : Request) : Blocks :=
  match b.routeParameter q with
  | some o => b.answer q.cell .badParameter (.parameter o)
  | none =>
    if b.mode ≠ .service then b.setRouteObserving q
    else
      let route := q.setRoute.route
      match b.slotOf route with
      | some slot =>
        match b.entryAt slot with
        | none => b
        | some (e, r) =>
          match r.state with
          | .held => b.reClear slot e r q.cell
          | .stalled => b.reDrive slot e r q.cell
          | _ => b.answerActive q.cell slot r
      | none =>
        match b.placeOf route with
        | some n => b.answerWaiting q.cell n
        | none =>
          match b.routeEntry route with
          | none => b
          | some e => b.setRouteNew q e

/-! ### The waiting list (3.4) -/

/-- R65: one WAITING entry examined. A token-wait entry is removed as unavailable when its token is HELD (R54); with the
Route Set full too it is answered CONFLICT, naming the route with SET_FULL, and with the Route Set full and the token not
HELD it stays: the model's choices (log entry 43). That CONFLICT names the unavailable element, as R53's does, is the
model's choice (log entry 15). -/
def Blocks.examine (b : Blocks) (w : WaitingRec) : Blocks :=
  match b.routeEntry w.route with
  | none => b
  | some e =>
    match b.restrictionStage e with
    | some (o, f) => (b.unwait w.route).answer w.cell o f.detail
    | none =>
      match (b.unwait w.route).availability e w.route w.sweep w.identity w.cell with
      | .applied b => b
      | .askable l => b.askToken l
      | .unavailable f =>
        if w.storeTime = 0 ∧ b.tokenCondition e = .met then (b.unwait w.route).answer w.cell .conflict f.detail else b

/-- R65: one pass over the list, oldest entry first, every entry examined once. -/
def Blocks.waitingPass (b : Blocks) : Blocks :=
  b.waiting.foldl (fun b w => if !w.deferred && b.waiting.contains w then b.examine w else b) b

/-- R67: on entry to SERVICE every DEFERRED entry becomes WAITING, with a new expiry. -/
def Blocks.wakeDeferred (b : Blocks) : Blocks :=
  { b with waiting := b.waiting.map (fun w =>
      if w.deferred then
        { w with deferred := false, expiry := some (Clock.after b.clock (1000 * w.storeTime)) }
      else w) }

/-- R54: declined, or no answer: every token-wait entry for the line is removed and answered BORDER_REFUSED. -/
def Blocks.refuseTokenWaits (b : Blocks) (line : Nat) : Blocks :=
  let hit := fun w : WaitingRec => !w.deferred && w.storeTime = 0 && b.exitsTo w.route line
  (b.waiting.filter hit).foldl (fun b w => b.answer w.cell .borderRefused .none)
    { b with waiting := b.waiting.filter (fun w => !hit w) }

/-- WAITING_ENTRY_EXPIRY (R66) and TOKEN_WAIT_ENTRY_EXPIRY (R54): the entry removed and answered. -/
def Blocks.waitingExpiry (b : Blocks) (route : Nat) (tokenWait : Bool) (o : CellOutcome) : Option Blocks :=
  match b.waiting.find? (fun w => w.route == route) with
  | none => none
  | some w =>
    if w.deferred = false ∧ decide (w.storeTime = 0) = tokenWait ∧ Clock.due b.clock w.expiry then
      some ((b.unwait route).answer w.cell o .none)
    else none

/-! ### CANCEL ROUTE (R78 to R82) -/

/-- R81: a cancel of a CLEARED or HELD route. -/
def Blocks.cancelCleared (b : Blocks) (slot : Nat) (e : RouteEntry) (r : RouteRec) (cell : Nat) : Blocks :=
  let b := b.commandSignal slot e.entry .stop
  let b := (b.updRoute slot (fun r => { r with cell := none })).answerOpt r.cell .withdrawn .none
  let approach := ((b.signalEntry e.entry).map (·.approach)).getD []
  if approach.all b.isClear ∨ e.release = 0 then (b.wholeRelease slot).answer cell .done .none
  else
    let t := Clock.after b.clock (1000 * e.release)
    (b.updRoute slot (fun r =>
      { r with state := .cancelling, timer := some { kind := .approach, expiry := t } })).answer cell .timing
      (.timer e.release t)

/-- CANCEL ROUTE (R78). That BAD_PARAMETER gives the offset of the route, as R47's does, is the model's choice, R78 stating
no detail (log entry 15). -/
def Blocks.cancelRoute (b : Blocks) (q : Request) : Blocks :=
  let route := q.field 28 2
  if b.count .route ≤ route then b.answer q.cell .badParameter (.parameter 28)
  else
    match b.waiting.find? (fun w => w.route == route) with
    | some w => ((b.unwait route).answer w.cell .withdrawn .none).answer q.cell .done .none
    | none =>
      match (b.slotOf route).bind (fun s => (b.entryAt s).map (fun x => (s, x))) with
      | none => b.answer q.cell .notFound .none
      | some (slot, e, r) =>
        match r.state with
        | .setting => (b.wholeRelease slot).answer q.cell .done .none
        | .stalled => (b.wholeRelease slot).answer q.cell .done .none
        | .locked => (b.wholeRelease slot).answer q.cell .done .none
        | .cleared => b.cancelCleared slot e r q.cell
        | .held => b.cancelCleared slot e r q.cell
        | .cancelling =>
          match r.timer with
          | none => b
          | some t => b.answer q.cell .timing (.timer e.release t.expiry)
        | .passing => b.answer q.cell .passing (.routePlace 1 slot r.state.code)
        | .emergency => b.answer q.cell .passing (.routePlace 1 slot r.state.code)

/-- APPROACH_TIMER_EXPIRY (R83) and EMERGENCY_TIMER_EXPIRY (R86): the whole release. -/
def Blocks.routeTimerExpiry (b : Blocks) (slot : Nat) (k : TimerKind) : Option Blocks :=
  match (b.routeRec slot).bind (·.timer) with
  | none => none
  | some t => if t.kind = k ∧ Clock.reached b.clock t.expiry then some (b.wholeRelease slot) else none

/-- The states in which a border entry acts on a DENY or on the expiry of its entry wait (R57; log entry 31). -/
def RouteState.awaitsGrant : RouteState → Bool
  | .setting => true
  | .stalled => true
  | .locked => true
  | _ => false

/-- ENTRY_WAIT_EXPIRY (R57, R135): the route torn down, the ask forgotten and ENTRY FREE sent. -/
def Blocks.entryWaitExpiry (b : Blocks) (slot : Nat) : Option Blocks :=
  match b.routeRec slot with
  | none => none
  | some r =>
    match r.border with
    | none => none
    | some p =>
      if p.grant = .asked ∧ r.state.awaitsGrant ∧ Clock.due b.clock p.expiry then
        some ((b.tearDown slot).freeEntry p.line (BitVec.ofNat 16 r.route))
      else none

/-! ### Emergency release (4.4) -/

/-- R85: the emergency release time, in seconds. -/
def RouteEntry.emergencyTime (e : RouteEntry) : Nat := max e.release 120

/-- R85: an accepted emergency release. -/
def Blocks.startEmergency (b : Blocks) (slot : Nat) (e : RouteEntry) (r : RouteRec) : Blocks :=
  let b := if r.released = 0 then b.commandSignal slot e.entry .stop else b
  let t := Clock.after b.clock (1000 * e.emergencyTime)
  (b.updRoute slot (fun r =>
    { r with state := .emergency, timer := some { kind := .emergency, expiry := t }, cell := none })).answerOpt r.cell
    .withdrawn .none

/-- R84: the route engine's result for an EXECUTE of EMERGENCY RELEASE. That TIMING gives the emergency release time
beside the expiry is the model's choice (log entry 15). -/
def Blocks.emergencyRelease (b : Blocks) (route cell : Nat) : Blocks :=
  match (b.slotOf route).bind (fun s => (b.entryAt s).map (fun x => (s, x))) with
  | none => b.answer cell .notFound .none
  | some (slot, e, r) =>
    match r.state with
    | .held => (b.startEmergency slot e r).answer cell .done .none
    | .stalled => (b.startEmergency slot e r).answer cell .done .none
    | .cancelling => (b.startEmergency slot e r).answer cell .done .none
    | .passing => (b.startEmergency slot e r).answer cell .done .none
    | .emergency =>
      match r.timer with
      | none => b
      | some t => b.answer cell .timing (.timer e.emergencyTime t.expiry)
    | _ => b.answer cell .conflict (.routePlace 1 slot r.state.code)

/-! ### CALL POINTS (3.6) -/

/-- CALL POINTS (R68, R69). The details of its answers are the model's choice (log entry 15). -/
def Blocks.callPoints (b : Blocks) (q : Request) : Blocks :=
  let n := q.field 28 1
  match b.pointEntry n, b.pointRec n with
  | some e, some p =>
    match Position.ofCode (q.field 29 1) with
    | none => b.answer q.cell .badParameter (.parameter 29)
    | some pos =>
      if p.pathCount > 0 ∨ p.overlapCount > 0 ∨ p.flankCount > 0 then b.answer q.cell .claimed .none
      else if p.reminder || p.standing then
        b.answer q.cell .restricted (Finding.mk' (.point n) .restricted).detail
      else if p.possessed then b.answer q.cell .possessed (Finding.mk' (.point n) .possessed).detail
      else if p.state = .atRest ∧ p.ref = some pos then b.answer q.cell .done .none
      else if !b.isClear e.sec then b.answer q.cell .occupied .none
      else
        let b := (b.overtakeCall n).updPoint n (fun p => { p with pendingCall := some q.cell })
        (b.drive n pos).1
  | _, _ => b.answer q.cell .badParameter (.parameter 28)

end Sys2Proof.Machine
end

