-- ==== Sys2Proof/Machine/BusControl.lean ====
section
/-! DEFINITION. The element bus controllers (06): poll selection, command telegrams, replies and misses, unit states, and
the start-up sweep they feed (R181). -/

namespace Sys2Proof.Machine

/-! ### Poll selection and command telegrams (R110, R120, R122) -/

/-- R107: the configured units of a bus, as (address, table index), ordered by address. -/
def Blocks.busUnits (b : Blocks) (x : Bus) : List (Nat × Nat) :=
  match b.image? with
  | none => []
  | some i =>
    (List.range 32).flatMap (fun a =>
      (indicesWhere (fun e : UnitEntry => e.bus == x && e.address == a) i.units).map (fun n => (a, n)))

/-- R120: the round robin's next unit: the lowest address above the position, else the lowest on the bus. -/
def nextInRound (units : List (Nat × Nat)) (position : Option Nat) : Option (Nat × Nat) :=
  (units.find? (fun u => position.all (fun p => p < u.1))).or units.head?

/-- The value a slot of a kind carries in HALTED (R122). -/
def SlotKind.safeValue : SlotKind → SlotValue
  | .signal => .signal .stop
  | .point => .hold
  | .sec => .none

/-- R110, R122: the slot values of the next telegram to a unit. -/
def Blocks.imageToSend (b : Blocks) (e : UnitEntry) (u : UnitRec) : List SlotValue :=
  if b.mode = .halted then e.slots.map SlotKind.safeValue else u.image

/-- R110, 12.6: the characters of a command telegram. -/
def commandChars (address seq : Nat) (values : List SlotValue) : List LineChar :=
  telegramChars ([byte address, byte seq] ++ values.map (fun v => byte v.code))

/-- R110: the command telegram to a unit is built and put on the line, and the exchange is outstanding. -/
def Blocks.poll (b : Blocks) (x : Bus) (n : Nat) : Blocks :=
  match b.unitEntry n, b.unitRec n with
  | some e, some u =>
    let values := b.imageToSend e u
    let b := b.setBus x { b.busRec x with
      exchange := some { unit := n, seq := u.nextSeq, sent := values, endTime := none, spent := false } }
    let b := b.updUnit n (fun u =>
      if u.state = .unknown ∧ b.mode ≠ .halted then
        { u with nextSeq := (u.nextSeq + 1) % 16, state := .syncing, miss := 0, good := 0 }
      else { u with nextSeq := (u.nextSeq + 1) % 16 })
    { b with work := { b.work with
        sent := b.work.sent ++ [.command x n (commandChars e.address u.nextSeq values)] } }
  | _, _ => b

/-- R120: the next unit is chosen and polled; an exchange still outstanding is left. -/
def Blocks.startPoll (b : Blocks) (x : Bus) : Blocks :=
  let r := b.busRec x
  if r.exchange.isSome then b
  else
    match r.urgent with
    | n :: rest => ((b.setBus x { r with urgent := rest }).mark (.unit n)).poll x n
    | [] =>
      match nextInRound (b.busUnits x) r.position with
      | none => b
      | some u => (b.setBus x { r with position := some u.1 }).poll x u.2

/-- R115: the outstanding exchange is closed. -/
def Blocks.closeExchange (b : Blocks) (x : Bus) : Blocks := b.setBus x { b.busRec x with exchange := none }

/-- COMMAND_TELEGRAM_END (R111): the last character has left the line, which fixes the reply timeout. -/
def Blocks.telegramEnd (b : Blocks) (x : Bus) : Option Blocks :=
  match (b.busRec x).exchange with
  | none => none
  | some e =>
    if e.endTime.isSome then none
    else some (b.setBus x { b.busRec x with exchange := some { e with endTime := some b.clock } })

/-! ### The start-up sweep (R181) -/

/-- R67, R172: SERVICE is entered; the waiting list is then examined once. The time lock's expiry goes with the state ENDED,
which no rule says: the model's choice (log entry 45). -/
def Blocks.enterService (b : Blocks) : Blocks :=
  (({ b with sweep := { b.sweep with stage := .ended, lockExpiry := none } }.setMode .service).mark
    .summary).wakeDeferred.noticeTokenHeld

/-- R181: with every mark set the sweep is complete; a time lock of 0 enters SERVICE in the same event. -/
def Blocks.completeSweep (b : Blocks) : Blocks :=
  if b.sweep.stage = .sweeping ∧ b.sweep.seen.all id then
    match (b.image?.map (·.head.timeLock)).getD 0 with
    | 0 => b.enterService
    | t => { b with sweep :=
        { b.sweep with stage := .locking, lockExpiry := some (Clock.after b.clock (1000 * t)) } }.mark .summary
  else b

/-- R181: a unit has entered ACTIVE or LOST. The summary is rewritten where its count of marks changes (R193,
changedRecords). -/
def Blocks.unitSeen (b : Blocks) (n : Nat) : Blocks :=
  if b.sweep.stage = .sweeping then
    ({ b with sweep := { b.sweep with seen := b.sweep.seen.set n true } }).completeSweep
  else b

/-- TIME_LOCK_EXPIRY (R181). -/
def Blocks.timeLockExpiry (b : Blocks) : Option Blocks :=
  if b.sweep.stage = .locking ∧ Clock.due b.clock b.sweep.lockExpiry then some b.enterService else none

/-! ### Unit states (6.4) -/

/-- R118: the alarms of a unit's state: ends first, then the raise. -/
def Blocks.unitAlarms (b : Blocks) (n : Nat) (s : UnitState) (t : Clock) : Blocks :=
  match s with
  | .active => (b.endAlarm .controllerLost (.unit n) t).endAlarm .controllerFault (.unit n) t
  | .lost => (b.endAlarm .controllerFault (.unit n) t).raiseAlarm .controllerLost (.unit n) t
  | .fault => (b.endAlarm .controllerLost (.unit n) t).raiseAlarm .controllerFault (.unit n) t
  | _ => b

/-- R117: a change of a unit's state handed on. -/
def Blocks.unitChanged (b : Blocks) (n : Nat) (s : UnitState) (t : Clock) : Blocks :=
  let b := b.unitAlarms n s t
  match s with
  | .active => b.unitSeen n
  | .lost => ((b.updUnit n (fun u => { u with lastStatus := none })).loseUnit n t).unitSeen n
  | .fault => (b.updUnit n (fun u => { u with lastStatus := none })).loseUnit n t
  | _ => b

/-- R113: the state and good count after a valid reply. -/
def replyState (s : UnitState) (good : Nat) (ok : Bool) : UnitState × Nat :=
  if ok then
    match s with
    | .active => (.active, min 2 (good + 1))
    | .suspect => (.active, 2)
    | .lost => (.syncing, 1)
    | .fault => (.syncing, 1)
    | _ => if 2 ≤ good + 1 then (.active, 2) else (.syncing, good + 1)
  else (.fault, 0)

/-- R114: the state and miss count after a miss. -/
def missState (s : UnitState) (miss : Nat) : UnitState × Nat :=
  match s with
  | .active => (.suspect, 1)
  | .lost => (.lost, 3)
  | .unknown => (.unknown, miss)
  | s => if 3 ≤ miss + 1 then (.lost, 3) else (s, miss + 1)

/-! ### Replies (R111, R112) -/

/-- A complete reply as its data bytes and markers. -/
structure Reply where
  opening : LineChar
  seq : Byte
  health : Byte
  statuses : List Byte
  rest : List LineChar
  bytes : List Byte
  deriving DecidableEq, Repr

/-- R111: the reply collected from the characters received since the command telegram ended: data characters before the
first opening character are discarded, and exactly slot count + 5 characters are collected. -/
def collectReply (slots : Nat) (chars : List LineChar) : Option Reply :=
  let cs := (chars.dropWhile (fun c => !LineChar.marked c)).take (slots + 5)
  if cs.length < slots + 5 then none
  else
    match cs with
    | o :: s :: h :: rest =>
      some { opening := o, seq := s.data, health := h.data, statuses := (rest.take slots).map (·.data)
             rest := s :: h :: rest, bytes := cs.map (·.data) }
    | _ => none

/-- R112, condition 5: the statuses, each a value of its slot's kind. -/
def readStatuses : List SlotKind → List Byte → Option (List SlotStatus)
  | k :: ks, v :: vs =>
    match SlotStatus.ofCode k v.toNat, readStatuses ks vs with
    | some s, some ss => some (s :: ss)
    | _, _ => none
  | [], _ => some []
  | _ :: _, [] => none

/-- R112: a complete reply is valid: its health (OK or not) and statuses. Condition 7 is the caller's. The opening character
and the sequence are compared as whole bytes, so that bits 5 and 6 of the one and bits 4 to 7 of the other count: the
model's choice (log entry 40). -/
def validReply (e : UnitEntry) (seq : Nat) (r : Reply) : Option (Bool × List SlotStatus) :=
  if r.opening.data = byte (e.address + 128) ∧ r.rest.all (fun c => !LineChar.marked c) ∧ r.rest.all (·.stop) ∧
      r.seq = byte seq ∧ r.health.toNat ≤ 1 ∧ crc16Ok r.bytes then
    (readStatuses e.slots r.statuses).map (fun s => (r.health.toNat = 0, s))
  else none

/-- The number of the signal behind a slot. -/
def Blocks.signalAt (b : Blocks) (unit slot : Nat) : Option Nat :=
  b.image?.bind (fun i => i.signals.findIdx? (fun e => e.unit == unit && e.slot == slot))

/-- The number of the section behind a slot. -/
def Blocks.sectionAt (b : Blocks) (unit slot : Nat) : Option Nat :=
  b.image?.bind (fun i => i.sections.findIdx? (fun e => e.unit == unit && e.slot == slot))

/-- The number of the point behind a slot, and which of its ends. -/
def Blocks.pointAt (b : Blocks) (unit slot : Nat) : Option (Nat × Nat) :=
  b.image?.bind (fun i =>
    (i.points.findIdx? (fun e => e.ends.any (fun c => c.unit == unit && c.slot == slot))).bind (fun n =>
      (i.points[n]?).bind (fun e =>
        (e.ends.findIdx? (fun c => c.unit == unit && c.slot == slot)).map (fun k => (n, k)))))

/-- R35: a signal slot shows PROCEED or RESTRICTED against STOP sent. -/
def wrongAspect : Option SlotValue → SlotStatus → Bool
  | some (.signal .stop), .signal .proceed => true
  | some (.signal .stop), .signal .restricted => true
  | _, _ => false

/-- R35: a signal slot shows STOP or DARK against STOP sent. -/
def rightAspect : Option SlotValue → SlotStatus → Bool
  | some (.signal .stop), .signal .stop => true
  | some (.signal .stop), .signal .dark => true
  | _, _ => false

/-- A reply's statuses with their slots. -/
def slotsOf (statuses : List SlotStatus) : List (Nat × SlotStatus) :=
  (List.range statuses.length).filterMap (fun k => (statuses[k]?).map (fun s => (k, s)))

/-- R35: the check of every signal slot of a reply. -/
def Blocks.checkAspects (b : Blocks) (unit : Nat) (sent : List SlotValue) (statuses : List SlotStatus) (t : Clock) :
    Blocks :=
  (slotsOf statuses).foldl (fun b x =>
    match b.signalAt unit x.1 with
    | none => b
    | some n =>
      if wrongAspect sent[x.1]? x.2 then b.raiseAlarm .signalWrongAspect (.signal n) t
      else if rightAspect sent[x.1]? x.2 then b.endAlarm .signalWrongAspect (.signal n) t
      else b) b

/-- R35: a wrong aspect was found in the reply. -/
def anyWrongAspect (sent : List SlotValue) (statuses : List SlotStatus) : Bool :=
  (slotsOf statuses).any (fun x => wrongAspect sent[x.1]? x.2)

/-- R116: the slots delivered for sections and points: every one in the reply that makes the unit ACTIVE, else those
whose status differs from their last status. -/
def delivered (activating : Bool) (last : Option (List SlotStatus)) (x : Nat × SlotStatus) : Bool :=
  activating || last.all (fun l => l[x.1]? != some x.2)

/-- R116: one delivered status to the element table: sections, point detections (R28) and signals (R34). -/
def Blocks.deliverSlot (b : Blocks) (unit : Nat) (sent : List SlotValue) (isNew : Bool) (t : Clock)
    (x : Nat × SlotStatus) : Blocks :=
  match x.2 with
  | .sec st =>
    match b.sectionAt unit x.1 with
    | none => b
    | some n => if isNew then b.sectionReport n st t else b
  | .point d =>
    match b.pointAt unit x.1 with
    | none => b
    | some (n, k) => if isNew then b.writeDetection n k d else b
  | .signal s =>
    match b.signalAt unit x.1 with
    | none => b
    | some n => b.signalReport n s sent[x.1]? t

/-- R28: the points with a detection delivered, each once. -/
def Blocks.deliveredPoints (b : Blocks) (unit : Nat) (xs : List (Nat × SlotStatus)) : List Nat :=
  (xs.filterMap (fun x => (b.pointAt unit x.1).map (·.1))).eraseDups

/-- R116, R28: the delivery of a reply; R29 is applied once to each point delivered. The order, which the spec leaves open,
is the model's choice (log entry 42): every status by rising slot, then R29 to each point by the rising slot of its first
end delivered. The raises of one reply take their sequences in it. -/
def Blocks.deliver (b : Blocks) (unit : Nat) (activating : Bool) (last : Option (List SlotStatus))
    (sent : List SlotValue) (statuses : List SlotStatus) (t : Clock) : Blocks :=
  let xs := slotsOf statuses
  let b := xs.foldl (fun b x => b.deliverSlot unit sent (delivered activating last x) t x) b
  let b := (b.deliveredPoints unit (xs.filter (delivered activating last))).foldl (fun b n => b.applyDetection n t) b
  b.updUnit unit (fun u => { u with lastStatus := some statuses })

/-- R115: the work of a valid reply, at its arrival. -/
def Blocks.takeReply (b : Blocks) (x : Bus) (ex : Exchange) (u : UnitRec) (ok : Bool) (statuses : List SlotStatus) :
    Blocks :=
  let t := b.clock
  let n := ex.unit
  let b := (b.closeExchange x).updUnit n (fun u => { u with miss := 0, lastReply := some t })
  let b := b.checkAspects n ex.sent statuses t
  let v := replyState u.state u.good (ok && !anyWrongAspect ex.sent statuses)
  let b := b.updUnit n (fun u => { u with state := v.1, good := v.2 })
  let b := if u.state = v.1 then b else b.refreshUnit n
  let b := if v.1 = .active then b.deliver n (u.state ≠ .active) u.lastStatus ex.sent statuses t else b
  if u.state = v.1 then b else b.unitChanged n v.1 t

/-- R111: the reply timeout of an exchange has not passed at the clock. -/
def Exchange.inTime (e : Exchange) (now : Clock) : Bool :=
  match e.endTime with
  | none => false
  | some t => Clock.age now t ≤ 20

/-- REPLY_COMPLETE (R111, R112, R115): a reply complete at or before the timeout; an invalid one leaves the exchange to
its timeout. In HALTED it is discarded unchecked (R122, log entry 10). The next poll begins after the event. -/
def Blocks.replyComplete (b : Blocks) (x : Bus) (chars : List LineChar) : Option Blocks :=
  match (b.busRec x).exchange with
  | none => none
  | some ex =>
    match b.unitEntry ex.unit, b.unitRec ex.unit with
    | some e, some u =>
      if ex.spent ∨ ex.inTime b.clock = false then none
      else
        match collectReply e.slots.length chars with
        | none => none
        | some r =>
          if b.mode = .halted then
            if Config.haltedReplyEndsExchange b.freeIndex then some (b.closeExchange x) else none
          else
            match validReply e ex.seq r with
            | none => some (b.setBus x { b.busRec x with exchange := some { ex with spent := true } })
            | some v => some (b.takeReply x ex u v.1 v.2)
    | _, _ => none

/-- R114: a miss, at the reply timeout. -/
def Blocks.takeMiss (b : Blocks) (n : Nat) (u : UnitRec) (t : Clock) : Blocks :=
  let v := missState u.state u.miss
  let b := b.updUnit n (fun u => { u with state := v.1, miss := v.2, good := 0 })
  if u.state = v.1 then b else b.unitChanged n v.1 t

/-- REPLY_TIMEOUT (R111, R114): the timeout reached with the exchange still outstanding. -/
def Blocks.replyTimeout (b : Blocks) (x : Bus) : Option Blocks :=
  match (b.busRec x).exchange with
  | none => none
  | some ex =>
    match ex.endTime with
    | none => none
    | some t =>
      if Clock.reached b.clock (Clock.after t 20) then
        let c := b.closeExchange x
        if b.mode = .halted then some c
        else
          match b.unitRec ex.unit with
          | none => some c
          | some u => some (c.takeMiss ex.unit u (Clock.after t 20))
      else none

end Sys2Proof.Machine
end

