-- ==== Sys2Proof/Machine/Border.lean ====
section
/-! DEFINITION. The border unit (07): links, telegrams received, the token, receptions and handover. -/

namespace Sys2Proof.Machine

/-! ### Receptions (R138 to R140) -/

/-- R138: the holds of a reception not yet released from section index k (from 0) on: sections, then the points in
those sections, in table order. -/
def Blocks.receptionHolds (b : Blocks) (e : LineEntry) (line k : Nat) : List Hold :=
  let secs := e.recSections.drop k
  secs.map (fun n => .sec n (.reception line)) ++
    (e.recPoints.filter (fun p => (b.pointEntry p.point).any (fun x => secs.contains x.sec))).map
      (fun p => .point p.point .path p.pos)

/-- R138: the claim set of a reception. -/
def receptionClaim (e : LineEntry) (line : Nat) (identity : Option Identity) : List ClaimItem :=
  e.recSections.map (fun n => { hold := .sec n (.reception line), condition := .clear, identity := identity }) ++
    e.recPoints.map (fun p => (Hold.point p.point .path p.pos).item)

/-- The reception record becomes none, and with it the outgoing-none count 0 (R140). -/
def Blocks.endReception (b : Blocks) (line : Nat) : Blocks :=
  b.updLine line (fun l => { l with reception := none, outgoingNone := 0 })

/-- R140: a reception released whole. -/
def Blocks.releaseReception (b : Blocks) (line : Nat) : Blocks :=
  match b.lineEntry line, (b.lineRec line).bind (·.reception) with
  | some e, some r => (b.release (.line line) (b.receptionHolds e line r.released)).endReception line
  | _, _ => b

/-- R140, R159: no reception section has its passage mark yes. -/
def Blocks.receptionUnmarked (b : Blocks) (e : LineEntry) : Bool := e.recSections.all (fun n => !b.isPassed n)

/-- R139: the reception's points that it still claims. Those whose section was released by passage before the grant count
no longer: the model's choice (log entry 44). -/
def Blocks.receptionPoints (b : Blocks) (e : LineEntry) (r : Reception) : List PointPos :=
  e.recPoints.filter (fun p =>
    (b.pointEntry p.point).any (fun x => (e.recSections.drop r.released).contains x.sec))

/-- R139: before the grant is sent, a FAILED point releases the reception and denies the entry; with every point at
rest in position the grant is sent. -/
def Blocks.testGrant (b : Blocks) (line : Nat) : Blocks :=
  match b.lineEntry line, (b.lineRec line).bind (·.reception) with
  | some e, some r =>
    if r.grantSent then b
    else if (b.receptionPoints e r).any (fun p => (b.pointRec p.point).any (fun q => q.state = .failed)) then
      (b.releaseReception line).sendLine line (.entryDeny line r.reference)
    else if (b.receptionPoints e r).all b.restsIn then
      (b.updLine line (fun l => { l with reception := some { r with grantSent := true } })).sendLine line
        (.entryGrant line r.reference)
    else b
  | _, _ => b

/-- R140: the front section of a reception meets the conditions of its release. -/
def Blocks.receptionFrontReady (b : Blocks) (e : LineEntry) (r : Reception) : Bool :=
  match e.recSections[r.released]? with
  | none => false
  | some n =>
    b.isPassed n && b.isClear n &&
      (match e.recSections[r.released + 1]? with
       | none => true
       | some m => b.occupancy m == some .occupied || b.occupancy m == some .clearing || b.isPassed m)

/-- R140: the front section released with the points whose own section it is. -/
def Blocks.releaseReceptionFront (b : Blocks) (e : LineEntry) (line : Nat) (r : Reception) : Blocks :=
  match e.recSections[r.released]? with
  | none => b
  | some n =>
    let points := e.recPoints.filter (fun p => (b.pointEntry p.point).any (fun x => x.sec == n))
    let b := b.release (.line line)
      (.sec n (.reception line) :: points.map (fun p => .point p.point .path p.pos))
    if r.released + 1 = e.recSections.length then b.endReception line
    else b.updLine line (fun l => { l with reception := some { r with released := r.released + 1 } })

/-- R140: the front section is tested, and again after each release. -/
def Blocks.receptionPassage : Nat → Blocks → Nat → Blocks
  | 0, b, _ => b
  | fuel + 1, b, line =>
    match b.lineEntry line, (b.lineRec line).bind (·.reception) with
    | some e, some r =>
      if b.receptionFrontReady e r then Blocks.receptionPassage fuel (b.releaseReceptionFront e line r) line else b
    | _, _ => b

/-! ### Handover (R141) -/

/-- R141: a handover starts on a line, over one that may still be SENDING. -/
def Blocks.startHandover (b : Blocks) (line slot : Nat) (identity : Option Identity) : Blocks :=
  let b := if (b.lineRec line).any (fun l => l.handover.isSome) then
      b.raiseAlarm .handoverUnconfirmed (.line line) b.clock else b
  (b.sendLine line (.trainPass line identity)).updLine line (fun l =>
    { l with
      handover := some { identity := identity, sends := 1, next := Clock.after b.clock 1000 }
      handedSlot := some slot })

/-- R141: the border section has become OCCUPIED under the line's entry in PASSING or EMERGENCY. -/
def Blocks.testHandover (b : Blocks) (line : Nat) : Blocks :=
  match b.lineEntry line, b.lineRec line, b.outgoingSlot line with
  | some e, some l, some slot =>
    match b.routeRec slot with
    | none => b
    | some r =>
      if (b.work.occupations.any (fun o => o.sec == e.border)) ∧ (r.state = .passing ∨ r.state = .emergency) ∧
          (b.sectionRec e.border).any (fun s => s.owner = .route slot) ∧ l.handedSlot ≠ some slot then
        b.startHandover line slot r.identity
      else b
  | _, _, _ => b

/-- HANDOVER_SEND_TIME (R141). -/
def Blocks.handoverSendTime (b : Blocks) (line : Nat) : Option Blocks :=
  match (b.lineRec line).bind (·.handover) with
  | none => none
  | some h =>
    if Clock.reached b.clock h.next then
      if h.sends < 3 then
        some ((b.sendLine line (.trainPass line h.identity)).updLine line (fun l =>
          { l with handover := some { h with sends := h.sends + 1, next := Clock.after h.next 1000 } }))
      else
        some ((b.raiseAlarm .handoverUnconfirmed (.line line) h.next).updLine line (fun l =>
          { l with handover := none }))
    else none

/-- What one event does to one line: handover, grant, passage of a reception (log entry 13). -/
def Blocks.reactLine (b : Blocks) (line : Nat) : Blocks :=
  ((b.testHandover line).testGrant line).receptionPassage 6 line

/-! ### The token (R131 to R134) -/

/-- A token change with its store write queued (R132 to R134). -/
def Blocks.setToken (b : Blocks) (line : Nat) (t : Token) (r : Report) : Blocks :=
  (b.updLine line (fun l => { l with token := some t })).queueRecord (.token line t) r

/-- R131: a token ask ends without the token: declined or no answer (R54). -/
def Blocks.endTokenAsk (b : Blocks) (line : Nat) : Blocks :=
  if (b.lineRec line).any (fun l => l.tokenAsk.isSome) then
    (b.updLine line (fun l => { l with tokenAsk := none })).refuseTokenWaits line
  else b

/-- TOKEN_WAIT_EXPIRY (R131): no answer within the token wait. -/
def Blocks.tokenWaitExpiry (b : Blocks) (line : Nat) : Option Blocks :=
  match b.lineRec line with
  | none => none
  | some l => if Clock.due b.clock l.tokenAsk then some (b.endTokenAsk line) else none

/-- R134: the two views of a line's token disagree. -/
def viewsDisagree (t : Option Token) (v : Option LineView) : Bool :=
  match t, v.map (fun x : LineView => x.token) with
  | some .held, some .held => true
  | some .notHeld, some .notHeld => true
  | _, _ => false

/-- R134: the line becomes BLOCKED. -/
def Blocks.blockLine (b : Blocks) (line : Nat) : Blocks :=
  (b.updLine line (fun l => { l with disagreement := false })).setToken line .blocked .nothing

/-- R134: the check of a bidirectional line when the link becomes UP. -/
def Blocks.checkToken (b : Blocks) (line : Nat) : Blocks :=
  match b.lineEntry line, b.lineRec line with
  | some e, some l =>
    if e.mode = .bidirectional ∧ viewsDisagree l.token l.view then
      let b := b.raiseAlarm .tokenDisagreement (.line line) b.clock
      if b.hasHolding line then b.updLine line (fun l => { l with disagreement := true }) else b.blockLine line
    else b
  | _, _ => b

/-- R134: the recheck at a later LINE STATE while the mark is yes. -/
def Blocks.recheckToken (b : Blocks) (line : Nat) : Blocks :=
  match b.lineRec line with
  | none => b
  | some l =>
    if l.disagreement then
      if viewsDisagree l.token l.view then (if b.hasHolding line then b else b.blockLine line)
      else (b.updLine line (fun l => { l with disagreement := false })).endAlarm .tokenDisagreement (.line line) b.clock
    else b

/-! ### Links (R124 to R128, R136, R137) -/

/-- R125: a telegram discarded. -/
def Blocks.discardTelegram (b : Blocks) (port : Nat) : Blocks :=
  match b.linkRec port with
  | none => b
  | some l =>
    let b := b.updLink port (fun l =>
      { l with valid := if l.state = .starting then 0 else l.valid, errorReported := true })
    if l.errorReported then b else b.raiseAlarm .borderProtocolError (.port port) b.clock

/-- The characters of the telegram open on a port (R199); none is open where there are none. -/
def Blocks.collectedOn (b : Blocks) (port : Nat) : List LineChar := (b.collected[port]?).getD []

/-- The characters of the telegram open on a port replaced. -/
def Blocks.setCollected (b : Blocks) (port : Nat) (chars : List LineChar) : Blocks :=
  { b with collected := b.collected.set port chars }

/-- R199: a telegram opens on the port: one still open is discarded as invalid. -/
def Blocks.breakOff (b : Blocks) (port : Nat) : Blocks :=
  if (b.collectedOn port).isEmpty then b else (b.setCollected port []).discardTelegram port

/-- R133: a TOKEN GIVE that cannot be taken: the alarm under the once-per-UP limit. -/
def Blocks.protocolError (b : Blocks) (port : Nat) : Blocks :=
  match b.linkRec port with
  | none => b
  | some l =>
    if l.errorReported then b
    else (b.updLink port (fun l => { l with errorReported := true })).raiseAlarm .borderProtocolError (.port port)
      b.clock

/-- R125: the sequence of a valid telegram, and the last valid receive time in STARTING and UP. -/
def Blocks.noteSequence (b : Blocks) (port : Nat) (seq : Byte) : Blocks :=
  b.updLink port (fun l =>
    { l with
      gap := if l.expected.isSome ∧ l.expected ≠ some seq then min 255 (l.gap + 1) else l.gap
      expected := some (seq + 1)
      lastValid := if l.state = .down then l.lastValid else some b.clock })

/-- R125, conditions 3 and 4: the sender, and the line named. -/
def Blocks.headValid (b : Blocks) (l : LinkRec) (h : TelegramHead) (line : Option Nat) : Bool :=
  h.sender.toNat == l.neighbour && line.all (fun n => portOf n == h.port && (b.lineEntry n).isSome)

/-- A telegram received, judged and its sequence noted, then acted on; its opening character breaks off one still open
on the port (R199). Not enabled in HALTED, without an image, or on a port not in use: the characters are discarded (R124,
log entry 17). -/
def Blocks.receive (b : Blocks) (h : TelegramHead) (line : Option Nat) (act : Blocks → Blocks) : Option Blocks :=
  match b.image?, b.linkRec h.port with
  | some _, some l =>
    let b := b.breakOff h.port
    if b.headValid l h line then some (act (b.noteSequence h.port h.seq)) else some (b.discardTelegram h.port)
  | _, _ => none

/-- R126: telegrams other than LINE STATE are acted on only while the link is UP. -/
def Blocks.receiveLine (b : Blocks) (h : TelegramHead) (line : Byte) (act : Blocks → Nat → Blocks) : Option Blocks :=
  b.receive h (some line.toNat) (fun b => if b.linkUp h.port then act b line.toNat else b)

/-- R128: the neighbour's views written into the records of the fitted lines. -/
def Blocks.writeViews (b : Blocks) (port : Nat) (views : List LineView) : Blocks :=
  (List.range 4).foldl (fun b k =>
    match views[k]? with
    | none => b
    | some v => b.updLine (4 * port + k) (fun l => { l with view := some v })) b

/-- R137: the grant of the line's entry, LOST, returns when nothing was changed by R134 and the neighbour still holds
the reception. -/
def Blocks.recoverGrant (b : Blocks) (before : Option LineRec) (line : Nat) : Blocks :=
  match before, b.lineRec line, b.outgoingSlot line with
  | some p, some l, some slot =>
    match b.routeRec slot with
    | none => b
    | some r =>
      if r.border.any (fun x => x.grant = .lost) ∧ l.token = p.token ∧ l.disagreement = p.disagreement ∧
          l.view.bind (·.reception) = some (BitVec.ofNat 16 r.route) then
        b.updRoute slot (fun r => { r with border := r.border.map (fun x => { x with grant := .granted }) })
      else b
  | _, _, _ => b

/-- R137: a deferred ENTRY FREE goes out when the link becomes UP. -/
def Blocks.sendDeferredFree (b : Blocks) (line : Nat) : Blocks :=
  match (b.lineRec line).bind (·.deferredFree) with
  | none => b
  | some ref => (b.sendLine line (.entryFree line ref)).updLine line (fun l => { l with deferredFree := none })

/-- R126: the link becomes UP. -/
def Blocks.linkBecomesUp (b : Blocks) (port : Nat) : Blocks :=
  let before := (portLines port).map b.lineRec
  let b := b.updLink port (fun l => { l with state := .up, errorReported := false })
  let b := b.endAlarm .borderLinkDown (.port port) b.clock
  let b := (portLines port).foldl Blocks.checkToken b
  let b := ((portLines port).zip before).foldl (fun b x => b.recoverGrant x.2 x.1) b
  (portLines port).foldl Blocks.sendDeferredFree b

/-- R140: the outgoing-route test of one line at a LINE STATE. -/
def Blocks.testOutgoing (b : Blocks) (line : Nat) : Blocks :=
  match b.lineEntry line, b.lineRec line with
  | some e, some l =>
    match l.view with
    | none => b
    | some v =>
      let count := if v.outgoing then 0 else min 2 (l.outgoingNone + 1)
      let b := b.updLine line (fun l => { l with outgoingNone := count })
      match l.reception with
      | none => b
      | some _ => if count = 2 ∧ b.receptionUnmarked e then b.releaseReception line else b
  | _, _ => b

/-- R126, R128: the link state after a valid LINE STATE, and what follows. -/
def Blocks.countLineState (b : Blocks) (port : Nat) : Blocks :=
  match b.linkRec port with
  | none => b
  | some l =>
    match l.state with
    | .down => b.updLink port (fun l => { l with state := .starting, valid := 1, lastValid := some b.clock })
    | .starting =>
      let b := b.updLink port (fun l => { l with valid := l.valid + 1 })
      if 3 ≤ l.valid + 1 then b.linkBecomesUp port else b
    | .up => (portLines port).foldl (fun b n => (b.recheckToken n).testOutgoing n) b

/-- LINE_STATE (R128). -/
def Blocks.onLineState (b : Blocks) (h : TelegramHead) (views : List LineView) : Option Blocks :=
  b.receive h none (fun b => (b.writeViews h.port views).countLineState h.port)

/-- R136: the line's entry when the link goes from UP to DOWN. One with grant ASKED is torn down whatever its state. -/
def Blocks.loseGrant (b : Blocks) (line : Nat) : Blocks :=
  match b.outgoingSlot line with
  | none => b
  | some slot =>
    match b.routeRec slot with
    | none => b
    | some r =>
      match r.border.map (fun x : BorderPart => x.grant) with
      | some .asked => (b.forgetEntryAsk line).tearDown slot
      | some .granted =>
        if r.state = .passing then b
        else b.updRoute slot (fun r => { r with border := r.border.map (fun x => { x with grant := .lost }) })
      | _ => b

/-- R134, R136, R140: one line when the link goes from UP to DOWN. -/
def Blocks.lineDown (b : Blocks) (line : Nat) (t : Clock) : Blocks :=
  match b.lineRec line with
  | none => b
  | some l =>
    let b := (b.endTokenAsk line).loseGrant line
    let b := b.updLine line (fun l => { l with disagreement := false, outgoingNone := 0 })
    if l.token = some .blocked then b else b.endAlarm .tokenDisagreement (.line line) t

/-- LINK_SILENCE_TIMEOUT (R126). -/
def Blocks.linkSilence (b : Blocks) (port : Nat) : Option Blocks :=
  match b.linkRec port with
  | none => none
  | some l =>
    match l.lastValid with
    | none => none
    | some v =>
      let t := Clock.after v 2000
      if l.state ≠ .down ∧ Clock.reached b.clock t then
        let b := b.updLink port (fun l => { l with state := .down, valid := 0, expected := none })
        if l.state = .up then
          some ((portLines port).foldl (fun b n => b.lineDown n t) (b.raiseAlarm .borderLinkDown (.port port) t))
        else some b
      else none

/-- R127: the view of one line that a LINE STATE carries. -/
def Blocks.lineView (b : Blocks) (line : Nat) : LineView :=
  match b.lineEntry line, b.lineRec line with
  | some e, some l =>
    { token := if e.mode = .bidirectional then Token.view l.token else .none
      borderClear := b.isClear e.border
      reception := l.reception.map (·.reference)
      outgoing := (b.outgoingSlot line).isSome }
  | _, _ => { token := .none, borderClear := false, reception := none, outgoing := false }

/-- LINE_STATE_INTERVAL (R127): one LINE STATE on each port in use. -/
def Blocks.lineStateInterval (b : Blocks) : Option Blocks :=
  match b.lineStateDue with
  | none => none
  | some t =>
    if Clock.reached b.clock t then
      some ((List.range 4).foldl (fun b p => b.sendBorder p (.lineState ((portLines p).map b.lineView)))
        { b with lineStateDue := some (Clock.after t 500) })
    else none

/-! ### Telegrams on a line -/

/-- TOKEN_ASK (R132). -/
def Blocks.onTokenAsk (b : Blocks) (line : Nat) : Blocks :=
  match b.lineEntry line, b.lineRec line with
  | some e, some l =>
    let decline := b.sendLine line (.tokenDecline line)
    if e.mode ≠ .bidirectional then decline
    else if l.givePending then b
    else if l.token ≠ some .held ∨ l.disagreement then decline
    else if b.mode ≠ .service then decline
    else if !b.isClear e.border ∨ (b.sectionRec e.border).any (fun s => s.owner ≠ .free) then decline
    else if b.hasHolding line then decline
    else (b.updLine line (fun l => { l with givePending := true })).setToken line .notHeld (.give line)
  | _, _ => b

/-- TOKEN_GIVE (R133). -/
def Blocks.onTokenGive (b : Blocks) (line : Nat) : Blocks :=
  match b.lineEntry line, b.lineRec line with
  | some e, some l =>
    if e.mode ≠ .bidirectional then b.protocolError (portOf line)
    else
      match l.token with
      | some .notHeld =>
        if l.reception.isSome then b.protocolError (portOf line)
        else
          ((b.updLine line (fun l => { l with tokenAsk := none })).setToken line .held .nothing).noticeTokenHeld
      | _ => b
  | _, _ => b

/-- The identity that a telegram's field gives; a length byte above 8 gives a free value (log entry 41). -/
def readIdentity (draw : Nat) : TelegramIdentity → Option Identity
  | .absent => none
  | .given i => some i
  | .overlong n chars => Config.overlongIdentity draw n chars

/-- ENTRY_ASK (R138). -/
def Blocks.onEntryAsk (b : Blocks) (line : Nat) (ref : Word16) (identity : Option Identity) : Blocks :=
  match b.lineEntry line, b.lineRec line with
  | some e, some l =>
    let deny := b.sendLine line (.entryDeny line ref)
    if b.mode ≠ .service then deny
    else if e.mode = .outbound then deny
    else if e.mode = .bidirectional ∧ (l.token ≠ some .notHeld ∨ l.givePending ∨ l.disagreement) then deny
    else
      match l.reception with
      | some r =>
        if r.reference = ref then (if r.grantSent then b.sendLine line (.entryGrant line ref) else b) else deny
      | none =>
        match b.claim (.line line) (receptionClaim e line identity) with
        | .error _ => deny
        | .ok b =>
          let r : Reception := { reference := ref, identity := identity, released := 0, grantSent := false }
          b.updLine line (fun l => { l with reception := some r, outgoingNone := 0 })
  | _, _ => b

/-- The grant of the line's Route Set entry, matched by its route reference (R135). -/
def Blocks.matchingGrant (b : Blocks) (line : Nat) (ref : Word16) : Option (Nat × RouteRec × BorderPart) :=
  (b.outgoingSlot line).bind (fun slot =>
    (b.routeRec slot).bind (fun r =>
      if BitVec.ofNat 16 r.route = ref then r.border.map (fun p => (slot, r, p)) else none))

/-- ENTRY_GRANT (R135, R57). -/
def Blocks.onEntryGrant (b : Blocks) (line : Nat) (ref : Word16) : Blocks :=
  match b.matchingGrant line ref with
  | none => b.sendLine line (.entryFree line ref)
  | some (slot, _, p) =>
    match p.grant with
    | .asked =>
      (b.forgetEntryAsk line).updRoute slot (fun r =>
        { r with border := some { p with grant := .granted, expiry := none } })
    | .none => b.sendLine line (.entryFree line ref)
    | .granted => b
    | .lost => b

/-- ENTRY_DENY (R135, R57). -/
def Blocks.onEntryDeny (b : Blocks) (line : Nat) (ref : Word16) : Blocks :=
  match b.matchingGrant line ref with
  | none => b
  | some (slot, r, p) =>
    if p.grant = .asked then
      let b := b.forgetEntryAsk line
      if r.state.awaitsGrant then b.tearDown slot else b
    else b

/-- ENTRY_FREE (R140). -/
def Blocks.onEntryFree (b : Blocks) (line : Nat) (ref : Word16) : Blocks :=
  match b.lineEntry line, (b.lineRec line).bind (·.reception) with
  | some e, some r =>
    if r.reference = ref ∧ r.released = 0 ∧ b.receptionUnmarked e then b.releaseReception line else b
  | _, _ => b

/-- TRAIN_PASS (R142). -/
def Blocks.onTrainPass (b : Blocks) (line : Nat) (identity : Option Identity) : Blocks :=
  let b := b.sendLine line (.trainTaken line)
  match b.lineEntry line, (b.lineRec line).bind (·.reception) with
  | some e, some r =>
    let b := b.updLine line (fun l => { l with reception := some { r with identity := identity } })
    match identity, e.recSections.head? with
    | some i, some n => b.writeIdentity n (.reception line) i
    | _, _ => b
  | _, _ => b

/-- TRAIN_TAKEN (R141). -/
def Blocks.onTrainTaken (b : Blocks) (line : Nat) : Blocks := b.updLine line (fun l => { l with handover := none })

/-! ### The collection of telegrams (R199) -/

/-- 12.6: the length of a telegram of a kind. -/
def telegramLength (kind : Nat) : Option Nat :=
  match kind with
  | 1 => some 22
  | 2 => some 7
  | 3 => some 7
  | 4 => some 7
  | 5 => some 18
  | 6 => some 9
  | 7 => some 9
  | 8 => some 9
  | 9 => some 16
  | 10 => some 7
  | _ => none

/-- R125: the characters collected, as many as their kind's length, make a valid telegram on the port. A framing error
spoils the telegram it falls in (R199). Whatever its own fields hold, it is valid (log entry 41). -/
def Blocks.telegramValid (b : Blocks) (port : Nat) (l : LinkRec) (chars : List LineChar) : Bool :=
  let bs := chars.map (·.data)
  let kind := Sys2Proof.Machine.byteAt bs 0
  let at16 := fun k => 256 * Sys2Proof.Machine.byteAt bs k + Sys2Proof.Machine.byteAt bs (k + 1)
  crc16Ok bs && chars.all (·.stop) &&
    b.headValid l { port := port, sender := BitVec.ofNat 16 (at16 1), seq := BitVec.ofNat 8 (Sys2Proof.Machine.byteAt bs 3) }
      (if kind = 1 then none else some (Sys2Proof.Machine.byteAt bs 4))

/-- R199: a character with its marker set opens a telegram, and one still open is discarded as invalid. One of an unknown
kind is an invalid telegram at once; what follows it up to the next marked character is discarded with it. -/
def Blocks.openTelegram (b : Blocks) (port : Nat) (c : LineChar) : Blocks :=
  let b := b.breakOff port
  if (telegramLength c.data.toNat).isSome then b.setCollected port [c] else b.discardTelegram port

/-- R199: a character with its marker clear joins the open telegram, which is judged when it has its kind's length. With
no telegram open it is discarded. A valid telegram comes by its own row and not by this one (log entry 16). -/
def Blocks.joinTelegram (b : Blocks) (port : Nat) (c : LineChar) : Blocks :=
  match b.collectedOn port with
  | [] => b
  | o :: cs =>
    let chars := o :: cs ++ [c]
    if telegramLength o.data.toNat = some chars.length then
      let d := b.setCollected port []
      match b.linkRec port with
      | none => d
      | some l => if b.telegramValid port l chars then d else d.discardTelegram port
    else b.setCollected port chars

/-- R199: one character received on a port. -/
def Blocks.collectChar (port : Nat) (b : Blocks) (c : LineChar) : Blocks :=
  if LineChar.marked c then b.openTelegram port c else b.joinTelegram port c

/-- INVALID_BORDER_TELEGRAM (R125, R199): characters received on a port in use, collected one by one from where the
port's collection stands; each telegram that is found invalid is discarded (log entry 16). -/
def Blocks.onInvalidTelegram (b : Blocks) (port : Nat) (chars : List LineChar) : Option Blocks :=
  match b.image?, b.linkRec port with
  | some _, some _ => some (chars.foldl (Blocks.collectChar port) b)
  | _, _ => none

end Sys2Proof.Machine
end

