-- ==== Sys2Proof/Machine/Settle.lean ====
section
/-! DEFINITION. What one event's record changes lead to: the notices (R42) act on routes, overlaps and lines, and
"elements freed" or a token HELD on the waiting list (R43, R65), until nothing is left to act on (log entry 13). -/

namespace Sys2Proof.Machine

/-- The element table's notices have been acted on (R42). -/
def Blocks.clearNotices (b : Blocks) : Blocks :=
  { b with work := { b.work with occupations := [], touched := [], failures := [] } }

/-- "Elements freed" and the notice of a token HELD have been acted on. -/
def Blocks.clearFreed (b : Blocks) : Blocks := { b with work := { b.work with freed := false, tokenHeld := false } }

/-- The notices act on every Route Set entry, by slot, and then on every line. -/
def Blocks.reactRound (b : Blocks) : Blocks :=
  ((List.range 16).foldl Blocks.reactLine ((List.range 48).foldl Blocks.reactEntry b)).clearNotices

/-- R43, R65: a round, and a pass over the waiting list when elements were freed or a token is HELD in SERVICE; a new
"elements freed" starts a new pass from the head of the list. -/
def Blocks.settleRounds : Nat → Blocks → Blocks
  | 0, b => b
  | fuel + 1, b =>
    let b := b.reactRound
    if (b.work.freed || b.work.tokenHeld) && b.mode == .service then
      Blocks.settleRounds fuel b.clearFreed.waitingPass
    else b.clearFreed

/-- Each pass but the first follows a release; there are at most 64 entries to release. -/
def Blocks.settle (b : Blocks) : Blocks := Blocks.settleRounds 128 b

end Sys2Proof.Machine
end

