-- ==== Sys2Proof/Machine/Restriction.lean ====
section
/-! DEFINITION. The restriction unit (08): reminders, standing restrictions, possessions, and the arm list with the six
qualified operations. -/

namespace Sys2Proof.Machine

/-! ### Marks (R144, R145, R157) -/

/-- An element's reminder mark. -/
def Blocks.reminderOf (b : Blocks) (e : Element) : Bool :=
  match e.kind with
  | .sec => (b.sectionRec e.number).any (·.reminder)
  | .point => (b.pointRec e.number).any (·.reminder)
  | .signal => (b.signalRec e.number).any (·.reminder)
  | _ => false

/-- An element's reminder mark set or cleared; holds are not touched (R41). -/
def Blocks.setReminder (b : Blocks) (e : Element) (v : Bool) : Blocks :=
  match e.kind with
  | .sec => b.updSection e.number (fun r => { r with reminder := v })
  | .point => b.updPoint e.number (fun r => { r with reminder := v })
  | .signal => b.updSignal e.number (fun r => { r with reminder := v })
  | _ => b

/-- An element's standing restriction mark. -/
def Blocks.standingOf (b : Blocks) (e : Element) : Bool :=
  match e.kind with
  | .sec => (b.sectionRec e.number).any (·.standing)
  | .point => (b.pointRec e.number).any (·.standing)
  | .signal => (b.signalRec e.number).any (·.standing)
  | _ => false

/-- An element's standing restriction mark set or cleared. -/
def Blocks.setStanding (b : Blocks) (e : Element) (v : Bool) : Blocks :=
  match e.kind with
  | .sec => b.updSection e.number (fun r => { r with standing := v })
  | .point => b.updPoint e.number (fun r => { r with standing := v })
  | .signal => b.updSignal e.number (fun r => { r with standing := v })
  | _ => b

/-- APPLY REMINDER (R144). -/
def Blocks.applyReminder (b : Blocks) (q : Request) : Blocks :=
  match b.elementOperand q with
  | .error o => b.answer q.cell .badParameter (.parameter o)
  | .ok e => (b.setReminder e true).answer q.cell .done .none

/-- REMOVE REMINDER (R144). -/
def Blocks.removeReminder (b : Blocks) (q : Request) : Blocks :=
  match b.elementOperand q with
  | .error o => b.answer q.cell .badParameter (.parameter o)
  | .ok e =>
    if b.reminderOf e then (b.setReminder e false).answer q.cell .done .none else b.answer q.cell .notFound .none

/-- DONE without a detail, when a write has finished. -/
def doneAfterWrite (cell : Nat) : Report := .answer { cell := cell, outcome := .done, detail := .none }

/-- APPLY STANDING RESTRICTION (R145). -/
def Blocks.applyStanding (b : Blocks) (q : Request) : Blocks :=
  match b.elementOperand q with
  | .error o => b.answer q.cell .badParameter (.parameter o)
  | .ok e =>
    if b.standingOf e then b.answer q.cell .done .none
    else (b.setStanding e true).queueRecord (.standing e true) (doneAfterWrite q.cell)

/-! ### Possessions (R147 to R152) -/

/-- R148: the holds of a possession, in the order of its claim set. -/
def Image.possessionHolds (i : Image) (area : Nat) : List Hold :=
  match i.areas[area]? with
  | none => []
  | some e =>
    e.sections.map (fun n => .sec n (.possession area)) ++
      (indicesWhere (fun p : PointEntry => e.sections.contains p.sec) i.points).map Hold.pointPossession ++
      e.boundary.map Hold.signalPossession

/-- R38: the items of a grant's claim set. -/
def Blocks.possessionHolds (b : Blocks) (area : Nat) : List Hold :=
  match b.image? with
  | none => []
  | some i => i.possessionHolds area

/-- What the persistent section keeps of a possession record (R147). -/
def PossessionRec.stored (r : PossessionRec) : StoredPossession :=
  { state := r.state, reference := r.reference, attempts := r.attempts }

/-- R147: a possession record that is FREE. -/
def PossessionRec.free : PossessionRec := { state := .free, reference := none, attempts := 0, grantedAt := none }

/-- R147: a change of a possession record, with its write queued. -/
def Blocks.storeArea (b : Blocks) (area : Nat) (r : PossessionRec) (a : Answer) : Blocks :=
  (b.updArea area (fun _ => r)).queueRecord (.possession area r.stored) (.answer a)

/-- R148, R149: a grant attempted. -/
def Blocks.grant (b : Blocks) (area reference cell : Nat) : Blocks :=
  match b.claim (.area area) ((b.possessionHolds area).map Hold.item) with
  | .error f => b.answer cell .conflict f.detail
  | .ok b =>
    b.storeArea area { state := .granted, reference := some reference, attempts := 5, grantedAt := some b.clock }
      { cell := cell, outcome := .done, detail := .none }

/-- GRANT POSSESSION (R148). Of a bad area and a reference of 0 the detail names the area: the model's choice (log entry
15). -/
def Blocks.grantPossession (b : Blocks) (q : Request) : Blocks :=
  let area := q.field 28 1
  let reference := q.field 30 2
  match b.areas[area]? with
  | none => b.answer q.cell .badParameter (.parameter 28)
  | some r =>
    if reference = 0 then b.answer q.cell .badParameter (.parameter 30)
    else
      match r.state with
      | .granted => b.answer q.cell .active (.element (.area area) .none 0)
      | .barred => b.answer q.cell .barred .none
      | .free => b.grant area reference q.cell

/-- R150: the lift of a possession: the release set, the disturbance of its COUNTED sections, the record FREE and its
write. -/
def Blocks.lift (b : Blocks) (area cell : Nat) : Blocks :=
  let b := b.release (.area area) (b.possessionHolds area)
  let secs := ((b.areaEntry area).map (·.sections)).getD []
  let counted := secs.filter (fun n => (b.sectionEntry n).any (fun e => e.kind = .counted))
  (counted.foldl (fun b n => b.loseSection n b.clock) b).storeArea area PossessionRec.free
    { cell := cell, outcome := .done, detail := .none }

/-- R151: a wrong reference. Byte 17 of the detail is 0: the model's choice (log entry 15). -/
def Blocks.mismatch (b : Blocks) (area cell : Nat) (r : PossessionRec) : Blocks :=
  let left := r.attempts - 1
  b.storeArea area { r with attempts := left, state := if left = 0 then .barred else r.state }
    { cell := cell, outcome := .mismatch, detail := .count left false }

/-- LIFT POSSESSION (R150). -/
def Blocks.liftPossession (b : Blocks) (q : Request) : Blocks :=
  let area := q.field 28 1
  match b.areas[area]? with
  | none => b.answer q.cell .badParameter (.parameter 28)
  | some r =>
    match r.state with
    | .free => b.answer q.cell .notFound .none
    | .barred => b.answer q.cell .barred .none
    | .granted => if r.reference = some (q.field 30 2) then b.lift area q.cell else b.mismatch area q.cell r

/-! ### The arm list (R153 to R155) -/

/-- ARM (R154). The arm time is the clock when this row serves the request (log entry 7); an entry whose expiry is due but
not yet taken still counts (log entry 21). -/
def Blocks.arm (b : Blocks) (q : Request) : Blocks :=
  match b.qualifiedOperand q with
  | .error o => b.answer q.cell .badParameter (.parameter o)
  | .ok (op, e) =>
    if 4 ≤ b.arms.length then b.answer q.cell .armFull .none
    else if b.arms.any (fun a => a.target == e) then b.answer q.cell .duplicate .none
    else
      let a : ArmRec := { operation := op, target := e, armTime := b.clock }
      { b with arms := b.arms ++ [a] }.answer q.cell .done .none

/-- ARM_ENTRY_EXPIRY (R153): the oldest entry's age reaches 30,000 ms. -/
def Blocks.armExpiry (b : Blocks) : Option Blocks :=
  match b.arms with
  | [] => none
  | a :: rest => if 30000 ≤ Clock.age b.clock a.armTime then some { b with arms := rest } else none

/-- EXECUTE (R155): the parameters, the arm entry and its age; then the operation. An entry older than 30,000 ms whose
expiry has not been taken is no longer in the list for an EXECUTE (log entry 21). -/
def Blocks.execute (b : Blocks) (q : Request) (operation : Blocks → Element → Nat → Blocks) : Blocks :=
  match b.qualifiedOperand q with
  | .error o => b.answer q.cell .badParameter (.parameter o)
  | .ok (op, e) =>
    match b.arms.find? (fun a => a.operation == op && a.target == e) with
    | none => b.answer q.cell .notArmed .none
    | some a =>
      let age := Clock.age b.clock a.armTime
      let b' := { b with arms := b.arms.filter (fun x => x != a) }
      if age < 3000 then b'.answer q.cell .tooEarly .none
      else if age ≤ 30000 then operation b' e q.cell
      else b.answer q.cell .notArmed .none

/-! ### The six operations (8.4) -/

/-- A failed precondition (8.4). -/
def Blocks.precondition (b : Blocks) (cell : Nat) (r : Reason) : Blocks := b.answer cell .conflict (.precondition r)

/-- RESTORE SECTION (R156). -/
def Blocks.restoreSection (b : Blocks) (e : Element) (cell : Nat) : Blocks :=
  match b.sectionEntry e.number, b.sectionRec e.number with
  | some t, some r =>
    if t.kind ≠ .counted then b.precondition cell .notCounted
    else if r.occupancy ≠ .disturbed then b.precondition cell .notDisturbed
    else
      let ownerOk := match r.owner with
        | .free => true
        | .reception _ => true
        | _ => false
      if !ownerOk then b.answer cell .conflict (.element e .owned r.owner.code)
      else if !b.unitTrusted t.unit then b.precondition cell .unitNotActive
      else (b.setOccupancy e.number .restoring b.clock none).answer cell .done .none
  | _, _ => b

/-- EMERGENCY RELEASE (R84). -/
def Blocks.executeEmergency (b : Blocks) (e : Element) (cell : Nat) : Blocks := b.emergencyRelease e.number cell

/-- REMOVE STANDING (R157). -/
def Blocks.removeStanding (b : Blocks) (e : Element) (cell : Nat) : Blocks :=
  if b.standingOf e then (b.setStanding e false).queueRecord (.standing e false) (doneAfterWrite cell)
  else b.answer cell .notFound .none

/-- FORCE LIFT (R157). -/
def Blocks.forceLift (b : Blocks) (e : Element) (cell : Nat) : Blocks :=
  match b.areas[e.number]? with
  | none => b
  | some r => if r.state = .free then b.answer cell .notFound .none else b.lift e.number cell

/-- TOKEN RESTORE (R158). -/
def Blocks.tokenRestore (b : Blocks) (e : Element) (cell : Nat) : Blocks :=
  match b.lineEntry e.number, b.lineRec e.number with
  | some t, some l =>
    if l.token ≠ some .blocked then b.precondition cell .notBlocked
    else if !b.linkUp (portOf e.number) then b.precondition cell .linkNotUp
    else if !l.view.any (fun v => v.token = .notHeld) then b.precondition cell .neighbourView
    else if !b.isClear t.border then b.precondition cell .sectionNotClear
    else
      ((b.setToken e.number .held (doneAfterWrite cell)).endAlarm .tokenDisagreement (.line e.number)
        b.clock).noticeTokenHeld
  | _, _ => b

/-- RECEPTION RELEASE (R159). -/
def Blocks.receptionRelease (b : Blocks) (e : Element) (cell : Nat) : Blocks :=
  match b.lineEntry e.number, (b.lineRec e.number).bind (·.reception) with
  | some t, some r =>
    if b.linkUp (portOf e.number) then b.precondition cell .linkNotDown
    else if r.released ≠ 0 ∨ !b.receptionUnmarked t then b.precondition cell .receptionEntered
    else if t.recSections.any (fun n => b.occupancy n == some .occupied || b.occupancy n == some .clearing) then
      b.precondition cell .sectionNotClear
    else (b.releaseReception e.number).answer cell .done .none
  | _, _ => b.answer cell .notFound .none

end Sys2Proof.Machine
end

