-- ==== Sys2Proof/Machine/Modes.lean ====
section
/-! DEFINITION. The mode controller and the setting up of the blocks (10): records set up from an image and the
persistent section, the start-up, what a reset and the entry to HALTED do to the blocks, LEAVE SERVICE, the self-check. -/

namespace Sys2Proof.Machine

/-! ### Records set up from an image (R19, R27, R32, R108, R124, R129, R146, R147) -/

/-- The stored possession record of an area holds the area: GRANTED or BARRED. -/
def Persistent.holdsArea (p : Persistent) (area : Nat) : Bool := (p.areas[area]?).any (fun r => r.state ≠ .free)

/-- The areas of an image whose stored record is GRANTED or BARRED. -/
def heldAreas (i : Image) (p : Persistent) : List Nat := (List.range i.areas.length).filter p.holdsArea

/-- R19. -/
def SectionRec.start (i : Image) (p : Persistent) (n : Nat) : SectionRec :=
  { occupancy := .disturbed
    owner :=
      match (heldAreas i p).find? (fun a => (i.areas[a]?).any (fun e => e.sections.contains n)) with
      | none => .free
      | some a => .possession a
    reminder := false
    standing := (p.sections[n]?).getD false
    passage := false
    identity := none
    changedAt := 0
    confirm := none }

/-- R27. -/
def PointRec.start (i : Image) (p : Persistent) (n : Nat) (e : PointEntry) : PointRec :=
  { ref := none
    detection := e.ends.map (fun _ => none)
    state := .unknown
    pathCount := 0
    overlapCount := 0
    flankCount := 0
    claimed := none
    reminder := false
    standing := (p.points[n]?).getD false
    possessed := (heldAreas i p).any (fun a => (i.areas[a]?).any (fun x => x.sections.contains e.sec))
    pendingCall := none
    moveTimer := none }

/-- R32. -/
def SignalRec.start (i : Image) (p : Persistent) (n : Nat) : SignalRec :=
  { commanded := .stop
    shown := .dark
    proved := false
    matchCount := 0
    mismatchCount := 0
    lampFault := false
    owningSlot := none
    flankCount := 0
    possessionCount :=
      ((heldAreas i p).filter (fun a => (i.areas[a]?).any (fun e => e.boundary.contains n))).length
    reminder := false
    standing := (p.signals[n]?).getD false }

/-- R147: reloaded with granted-at none. -/
def PossessionRec.start (p : Persistent) (n : Nat) : PossessionRec :=
  match p.areas[n]? with
  | none => PossessionRec.free
  | some r => { state := r.state, reference := r.reference, attempts := r.attempts, grantedAt := none }

/-- R108. -/
def UnitRec.start (e : UnitEntry) : UnitRec :=
  { state := .unknown, miss := 0, good := 0, nextSeq := 0, image := e.slots.map SlotKind.safeValue
    lastStatus := none, lastReply := none }

/-- The fitted lines of a port, by number (R15). -/
def Image.fittedLines (i : Image) (port : Nat) : List Nat :=
  (portLines port).filter (fun n => (i.lines[n]?).any (fun e => e.mode ≠ .unfitted))

/-- R124: the link record of a port in use; its neighbour is that of its fitted lines (R16). -/
def LinkRec.start (i : Image) (port : Nat) : Option LinkRec :=
  match i.fittedLines port with
  | [] => none
  | n :: _ => some
    { state := .down, valid := 0, lastValid := none, transmit := 0, expected := none, gap := 0, errorReported := false
      neighbour := ((i.lines[n]?).map (·.neighbour)).getD 0 }

/-- R129. -/
def LineRec.start (i : Image) (p : Persistent) (n : Nat) : Option LineRec :=
  match i.lines[n]? with
  | none => none
  | some e =>
    if e.mode = .unfitted then none
    else some
      { token := if e.mode = .bidirectional then (p.tokens[n]?).join else none
        disagreement := false, givePending := false, tokenAsk := none, entryAsk := none, reception := none
        handover := none, handedSlot := none, view := none, deferredFree := none, outgoingNone := 0 }

/-- Every record set up from an image and the persistent section, with the image in force (R178). The alarm list, the
clock, the store and the load record stay. -/
def Blocks.setUp (b : Blocks) (w : WorkingCopy) : Blocks :=
  let i := w.image
  let p := b.persistent
  { b with
    inForce := some w
    selfCheckDue := some (Clock.after b.clock 60000)
    sections := (List.range i.sections.length).map (SectionRec.start i p)
    points := (List.range i.points.length).filterMap (fun n => (i.points[n]?).map (PointRec.start i p n))
    signals := (List.range i.signals.length).map (SignalRec.start i p)
    holds := (heldAreas i p).flatMap (fun a =>
      (i.possessionHolds a).map (fun h => { claimant := .area a, hold := h }))
    routes := List.replicate 48 none
    waiting := []
    units := i.units.map UnitRec.start
    busA := BusRec.quiet
    busB := BusRec.quiet
    links := (List.range 4).map (LinkRec.start i)
    lines := (List.range 16).map (LineRec.start i p)
    collected := List.replicate 4 []
    lineStateDue := some (Clock.after b.clock 500)
    areas := (List.range i.areas.length).map (PossessionRec.start p)
    arms := [] }

/-- No image in force, and no record of one (R2, R107, R124, R177). -/
def Blocks.discardRecords (b : Blocks) : Blocks :=
  { b with
    inForce := none
    selfCheckDue := none
    sections := []
    points := []
    signals := []
    holds := []
    routes := List.replicate 48 none
    waiting := []
    units := []
    busA := BusRec.quiet
    busB := BusRec.quiet
    links := List.replicate 4 none
    lines := List.replicate 16 none
    collected := List.replicate 4 []
    lineStateDue := none
    areas := [] }

/-! ### Start-up (R172, R173, R181) -/

/-- R129: TOKEN_DISAGREEMENT for every line whose token is BLOCKED once its record is set up. -/
def Blocks.raiseBlocked (b : Blocks) : Blocks :=
  (List.range 16).foldl (fun b n =>
    if (b.lineRec n).any (fun l => l.token = some .blocked) then b.raiseAlarm .tokenDisagreement (.line n) b.clock
    else b) b

/-- R181: the mode becomes OBSERVING and the sweep begins; polling begins (R107). -/
def Blocks.enterObserving (b : Blocks) : Blocks :=
  let b := { b with sweep := { stage := .sweeping, seen := List.replicate b.units.length false, lockExpiry := none } }
  ((((b.setMode .observing).mark .summary).raiseBlocked.completeSweep).startPoll .a).startPoll .b

/-- R172: the mode after the end of a restart. -/
def Blocks.startUp (b : Blocks) : Blocks :=
  if b.inForce.isSome then b.enterObserving else (b.setMode .configuring).mark .summary

/-- R173: the read of the stored image at a restart. A CRC that fails sets the mark to no. -/
def Blocks.readStore (b : Blocks) : Blocks :=
  if b.stored.valid ∧ imageCrc b.stored.bytes = imageCrcField b.stored.bytes then
    b.setUp (WorkingCopy.ofBytes b.stored.bytes)
  else { b with stored := { b.stored with valid := false } }

/-! ### Lost writes (R174, R179) -/

/-- One record of a persistent section whose reset may have reached it (R179). -/
def mixRecords {α : Type} (reached : Nat → Bool) (base : Nat) (old new : List α) : List α :=
  (List.range (max old.length new.length)).filterMap (fun k =>
    if reached (base + k) then (new[k]?).or old[k]? else (old[k]?).or new[k]?)

/-- R179: part of a reset of the persistent section. -/
def Persistent.partlyReset (reached : Nat → Bool) (old new : Persistent) : Persistent :=
  { sections := mixRecords reached 0 old.sections new.sections
    points := mixRecords reached 240 old.points new.points
    signals := mixRecords reached 336 old.signals new.signals
    areas := mixRecords reached 464 old.areas new.areas
    tokens := mixRecords reached 480 old.tokens new.tokens }

/-- R177: the persistent section as a commit resets it for its image. -/
def Persistent.fresh (i : Image) : Persistent :=
  { sections := List.replicate i.sections.length false
    points := List.replicate i.points.length false
    signals := List.replicate i.signals.length false
    areas := List.replicate i.areas.length { state := .free, reference := none, attempts := 0 }
    tokens := i.lines.map (fun e =>
      if e.mode = .bidirectional then some (if e.localFirst then .held else .notHeld) else none) }

/-- R179: a commit write that failed or was lost: what it leaves in the store is free (log entry 11). -/
def Blocks.spoilStore (b : Blocks) : Blocks :=
  { b with
    stored := { valid := false, bytes := Config.failedImage b.freeIndex }
    persistent := Persistent.partlyReset (Config.resetReached b.freeIndex) b.persistent
      (Persistent.fresh (WorkingCopy.ofBytes b.load.buffer).image) }

/-- R174, R179: a reset loses the write that runs and every write in the list. -/
def Blocks.loseWrites (b : Blocks) : Blocks :=
  let b := match b.running with
    | some (.commit _) => b.spoilStore
    | _ => b
  { b with running := none, writes := [] }

/-! ### Resets (R182) -/

/-- What stands through every reset: KEY, the store as last completed, and the model's draw counter. Everything else
takes its value after a hard restart; the mode is set at the restart's end. -/
def Blocks.hardBase (b : Blocks) : Blocks :=
  { Blocks.powerOn with key := b.key, stored := b.stored, persistent := b.persistent, freeIndex := b.freeIndex }

/-- R169: a soft restart keeps the alarm list, with every present condition ended at 0, its mark and its counter. -/
def Blocks.softBase (b : Blocks) : Blocks :=
  let a := b.endAllAlarms 0
  { b.hardBase with alarms := a.alarms, overflow := b.overflow, alarmCounter := b.alarmCounter }

/-- R182: the blocks when a reset is taken and held: writes lost, outstanding exchanges cut off (R107). -/
def Blocks.cutOff (b : Blocks) : Blocks :=
  let b := b.loseWrites
  { b with busA := { b.busA with exchange := none }, busB := { b.busB with exchange := none } }

/-! ### HALTED (R183, R184) -/

/-- R184: a section owned by a route, an overlap or a reception loses its owner and its passage mark; its confirmation
timer is dropped. The identity is kept, also of a CLEAR section: the model's choice (log entry 38). -/
def SectionRec.halt (r : SectionRec) : SectionRec :=
  match r.owner with
  | .free => { r with confirm := none }
  | .possession _ => { r with confirm := none }
  | _ => { r with owner := .free, passage := false, confirm := none }

/-- R184: a point loses its claims, its pending call and its move timer. -/
def PointRec.halt (r : PointRec) : PointRec :=
  { r with pathCount := 0, overlapCount := 0, flankCount := 0, claimed := none, pendingCall := none, moveTimer := none }

/-- R184, R33: a signal is commanded STOP, with no owning slot and no flank claim. -/
def SignalRec.halt (r : SignalRec) : SignalRec :=
  if r.commanded = .stop then { r with owningSlot := none, flankCount := 0 }
  else
    { r with owningSlot := none, flankCount := 0, commanded := .stop, proved := false, matchCount := 0
             mismatchCount := 0, lampFault := false }

/-- R184: a line loses its reception, handover and asks, and the handed-over slot with its route (R141). The
outgoing-none count becomes 0 with a reception (R140). -/
def LineRec.halt (l : LineRec) : LineRec :=
  { l with tokenAsk := none, entryAsk := none, reception := none, handover := none, handedSlot := none
           outgoingNone := if l.reception.isSome then 0 else l.outgoingNone }

/-- A possession's hold: the only ones kept on entry to HALTED (R184). -/
def HoldRec.kept (h : HoldRec) : Bool :=
  match h.claimant with
  | .area _ => true
  | _ => false

/-- R184: the route engine discards its entries; a slot that held one is handed over. -/
def Blocks.dropRoutes (b : Blocks) : Blocks :=
  (List.range b.routes.length).foldl (fun b n =>
    if (b.routeRec n).isSome then ({ b with routes := b.routes.set n none }).mark (.slot n) else b)
    { b with waiting := [] }

/-- R184: the effects on the element records and the lines. -/
def Blocks.haltRecords (b : Blocks) : Blocks :=
  let b := (List.range b.sections.length).foldl (fun b n => b.updSection n SectionRec.halt) b
  let b := (List.range b.points.length).foldl (fun b n => b.updPoint n PointRec.halt) b
  let b := (List.range b.signals.length).foldl (fun b n => b.updSignal n SignalRec.halt) b
  let b := (List.range b.lines.length).foldl (fun b n => b.updLine n LineRec.halt) b
  { b with holds := b.holds.filter HoldRec.kept }

/-- R122: a bus in HALTED: the exchange abandoned, the urgent list emptied, polling by the round robin alone. -/
def Blocks.haltBus (b : Blocks) (x : Bus) : Blocks :=
  let r := b.busRec x
  let b := r.urgent.foldl (fun b n => b.mark (.unit n)) (b.setBus x { r with urgent := [], exchange := none })
  b.startPoll x

/-- R184: the table store: no other write begins; a commit write running is abandoned. -/
def Blocks.haltStore (b : Blocks) : Blocks :=
  match b.running with
  | some (.commit _) => { b.spoilStore with running := none, writes := [] }
  | _ => { b with writes := [] }

/-- R184: entry to HALTED, in one event; raise is the time of the event that causes it (R161), none where
TABLE_SELF_CHECK is not raised (R171). -/
def Blocks.enterHalted (b : Blocks) (raise : Option Clock) : Blocks :=
  let b := (b.setMode .halted).haltStore
  let b := { b with sweep := Sweep.off, selfCheckDue := none, lineStateDue := none
                    work := { b.work with halt := false } }
  let b := b.dropRoutes.haltRecords
  let b := match raise with
    | none => b
    | some t => b.raiseAlarm .tableSelfCheck .device t
  (b.haltBus .a).haltBus .b

/-- SELF_CHECK (R183): the periodic check, due, whose raise has the timer's expiry time (R161); or a read of an internal
memory that fails its check. -/
def Blocks.selfCheck (b : Blocks) (cause : SelfCheckCause) : Option Blocks :=
  match cause with
  | .memoryFault inAlarmList => some (b.enterHalted (if inAlarmList then none else some b.clock))
  | .periodic =>
    match b.inForce, b.selfCheckDue with
    | some w, some t =>
      if Clock.reached b.clock t then
        if imageCrc w.bytes = imageCrcField w.bytes then some { b with selfCheckDue := some (Clock.after t 60000) }
        else some (b.enterHalted (some t))
      else none
    | _, _ => none

/-! ### LEAVE SERVICE (R180) -/

/-- R180: which of the Route Set, the waiting list and the receptions is the first not empty. -/
def Blocks.firstNotEmpty (b : Blocks) : Option Reason :=
  if b.routes.any (·.isSome) then some .routeSet
  else if !b.waiting.isEmpty then some .waitingList
  else if b.lines.any (fun l => l.any (fun x => x.reception.isSome)) then some .reception
  else none

/-- LEAVE SERVICE (R180). -/
def Blocks.leaveService (b : Blocks) (q : Request) : Blocks :=
  if !b.key then b.answer q.cell .keyOff .none
  else
    match b.firstNotEmpty with
    | some r => b.answer q.cell .notEmpty (.precondition r)
    | none => ({ b with arms := [], sweep := Sweep.off }.setMode .configuring).answer q.cell .done .none

end Sys2Proof.Machine
end

