-- ==== Sys2Proof/Machine/Store.lean ====
section
/-! DEFINITION. The table store (10.2 to 10.4): loading an image, committing it, and the writes of the store. -/

namespace Sys2Proof.Machine

/-! ### Loading (R175) -/

/-- R175: the load becomes ABORTED and the request is answered. -/
def Blocks.abortLoad (b : Blocks) (cell : Nat) (o : CellOutcome) : Blocks :=
  { b with load := { b.load with state := .aborted } }.answer cell o .none

/-- The load is complete: the image length is known and the bytes received equal it. -/
def LoadRec.complete (l : LoadRec) : Bool := l.length = some l.received

/-- R175 step 2: the segment would pass the buffer's size or the image length. -/
def LoadRec.passes (l : LoadRec) (n : Nat) : Bool :=
  131072 < l.received + n || l.length.any (fun m => m < l.received + n)

/-- R175 step 3: a segment appended. The next segment number wraps in its range (log entry 25). -/
def LoadRec.append (l : LoadRec) (segment : List Byte) : LoadRec :=
  { l with
    buffer := l.buffer ++ segment
    received := l.received + segment.length
    next := (l.next + 1) % 65536 }

/-- R175: a segment taken into a load record, step by step. -/
def Blocks.takeSegment (b : Blocks) (l : LoadRec) (q : Request) : Blocks :=
  let b := { b with load := l }
  if crc32 q.segment ≠ BitVec.ofNat 32 (q.field 32 4) then b.abortLoad q.cell .checkFailed
  else if l.passes q.segment.length then b.abortLoad q.cell .checkFailed
  else
    let m := l.append q.segment
    if m.length.isNone ∧ 64 ≤ m.received then
      let n := fieldAt m.buffer 4 4
      if n < 64 ∨ 131072 < n ∨ n < m.received then { b with load := m }.abortLoad q.cell .checkFailed
      else
        { b with load := { m with length := some n } }.answer q.cell .done
          (.count m.received (decide (m.received = n)))
    else { b with load := m }.answer q.cell .done (.count m.received m.complete)

/-- LOAD SEGMENT (R175). That BAD_PARAMETER gives the offset of the length is the model's choice (log entry 15). -/
def Blocks.loadSegment (b : Blocks) (q : Request) : Blocks :=
  let n := q.field 28 2
  let len := q.field 30 2
  if len = 0 ∨ 16384 < len then b.answer q.cell .badParameter (.parameter 30)
  else
    match b.load.state with
    | .idle =>
      if n = 0 then b.takeSegment { LoadRec.empty with state := .receiving } q else b.abortLoad q.cell .sequence
    | .receiving =>
      if n = 0 then b.takeSegment { LoadRec.empty with state := .receiving } q
      else if n = b.load.next then b.takeSegment b.load q
      else b.abortLoad q.cell .sequence
    | .aborted => b.answer q.cell .loadAborted .none
    | .committing => b.answer q.cell .active .none

/-- LOAD RESET (R175). -/
def Blocks.loadReset (b : Blocks) (q : Request) : Blocks :=
  if b.load.state = .committing then b.answer q.cell .active .none
  else { b with load := LoadRec.empty }.answer q.cell .done .none

/-! ### Committing (R176 to R179) -/

/-- R177: the cell of every pending call is answered WITHDRAWN. -/
def Blocks.withdrawCalls (b : Blocks) : Blocks :=
  b.points.foldl (fun b p => b.answerOpt p.pendingCall .withdrawn .none) b

/-- R177: the alarms of the event entered, and then every condition present ended (R170). -/
def Blocks.endAlarmsNow (b : Blocks) : Blocks :=
  let b := b.enterAlarms
  ({ b with work := { b.work with alarms := [] } } : Blocks).endAllAlarms b.clock

/-- R177, R193, R194: the mirrors written absent and the identity block are handed over. -/
def Blocks.markAbsent (b : Blocks) : Blocks := (numberedRecords ++ [MirrorRec.identity]).foldl Blocks.mark b

/-- R177: the commit write begins. -/
def Blocks.beginCommit (b : Blocks) (cell : Nat) : Blocks :=
  let b := { b with running := some (.commit cell), writes := [], stored := { b.stored with valid := false } }
  (b.withdrawCalls.endAlarmsNow.discardRecords).markAbsent

/-- R179: a commit write that has failed: STORE_FAULT, the load RECEIVING again, the cell answered. -/
def Blocks.commitFailed (b : Blocks) (cell : Nat) : Blocks :=
  ({ b.storeFault with load := { b.load with state := .receiving } } : Blocks).answer cell .storeFault .none

/-- The image in the load buffer checked by R5 to R17, as the detail of a refusal (R176 condition 5). -/
def Blocks.checkLoaded (b : Blocks) : Option Detail :=
  (checkImage b.load.buffer).map (fun f => .check f.kind f.entry f.condition)

/-- The lowest area whose possession is GRANTED or BARRED (R176 condition 6). -/
def Blocks.possessedArea (b : Blocks) : Option Nat := b.areas.findIdx? (fun r => r.state ≠ .free)

/-- R176: the accepted commit: COMMITTING, and the commit write queued at the tail. With the list full the load state
becomes COMMITTING and returns to RECEIVING in the one event (R179); both changes are handed over (R175), and the identity
block, whose content stands, is not rewritten: the model's choice (log entry 23). -/
def Blocks.queueCommit (b : Blocks) (cell : Nat) : Blocks :=
  if 32 ≤ b.writes.length then { b with work := { b.work with modeNotice := true } }.commitFailed cell
  else
    let b := { b with load := { b.load with state := .committing } }
    if b.running.isNone ∧ b.writes.isEmpty then b.beginCommit cell
    else { b with writes := b.writes ++ [.commit cell] }

/-- COMMIT TABLES (R176). -/
def Blocks.commitTables (b : Blocks) (q : Request) : Blocks :=
  match b.load.state with
  | .committing => b.answer q.cell .active .none
  | .aborted => b.answer q.cell .loadAborted .none
  | .idle => b.answer q.cell .incomplete .none
  | .receiving =>
    if !b.load.complete then b.answer q.cell .incomplete .none
    else if !b.key then b.answer q.cell .keyOff .none
    else
      match b.checkLoaded with
      | some d => b.answer q.cell .checkFailed d
      | none =>
        match b.possessedArea with
        | some n => b.answer q.cell .possessionsActive (.element (.area n) .none 0)
        | none => b.queueCommit q.cell

/-! ### The end of a write (R174, R178, R179) -/

/-- R174: a record write takes effect in the persistent section. -/
def Persistent.store (p : Persistent) (v : RecordValue) : Persistent :=
  match v with
  | .standing e m =>
    match e.kind with
    | .sec => { p with sections := p.sections.set e.number m }
    | .point => { p with points := p.points.set e.number m }
    | .signal => { p with signals := p.signals.set e.number m }
    | _ => p
  | .possession n r => { p with areas := p.areas.set n r }
  | .token n t => { p with tokens := p.tokens.set n (some t) }

/-- R174: the next write in the list begins. -/
def Blocks.beginNext (b : Blocks) : Blocks :=
  match b.writes with
  | [] => b
  | .record v r :: rest => { b with running := some (.record v r), writes := rest }
  | .commit cell :: _ => b.beginCommit cell

/-- R174: the record write that ran has taken effect, or the record holds its earlier value. -/
def Blocks.endRecord (b : Blocks) (v : RecordValue) (readsBack : Bool) : Blocks :=
  { b with running := none, persistent := if readsBack then b.persistent.store v else b.persistent }

/-- RECORD_WRITE_END (R174). In HALTED the write reaches its end, reported to no one, and no other begins (R184). -/
def Blocks.recordWriteEnd (b : Blocks) (readsBack : Bool) : Option Blocks :=
  match b.running with
  | some (.record v r) =>
    let c := b.endRecord v readsBack
    if b.mode = .halted then some c
    else some (((if readsBack then c else c.storeFault).reportWrite r readsBack).beginNext)
  | _ => none

/-- R178: the effects of a completed commit. -/
def Blocks.commitCompleted (b : Blocks) (cell : Nat) : Blocks :=
  let w := WorkingCopy.ofBytes b.load.buffer
  let b := ({ b with
    running := none
    stored := { valid := true, bytes := b.load.buffer }
    persistent := Persistent.fresh w.image
    load := LoadRec.empty } : Blocks).setUp w
  (b.enterObserving).answer cell .done .none

/-- The records a block has set up, by number (R193). -/
def Blocks.presentRecords (b : Blocks) : List MirrorRec :=
  (List.range b.sections.length).map .sec ++ (List.range b.points.length).map .point ++
    (List.range b.signals.length).map .signal ++ (List.range b.units.length).map .unit ++
    ((List.range 4).filter (fun n => (b.linkRec n).isSome)).map .link ++
    ((List.range 16).filter (fun n => (b.lineRec n).isSome)).map .line ++ (List.range b.areas.length).map .area

/-- COMMIT_WRITE_END (R178, R179). -/
def Blocks.commitWriteEnd (b : Blocks) (readsBack : Bool) : Option Blocks :=
  match b.running with
  | some (.commit cell) =>
    if readsBack then
      let c := b.commitCompleted cell
      some (((c.presentRecords ++ [MirrorRec.identity]).foldl Blocks.mark c).beginNext)
    else
      some (((({ b.spoilStore with running := none } : Blocks).commitFailed cell).mark .identity).beginNext)
  | _ => none

end Sys2Proof.Machine
end

