-- ==== Sys2Proof/Machine/ExchangePort.lean ====
section
/-! DEFINITION. The exchange port (11): the intake list and the taking of cells, answers, the close of an event (answers,
alarms, mirrors and notices), and the three ways in which a command acts on the machine. -/

namespace Sys2Proof.Machine

/-! ### Cells (R187, R189) -/

/-- The cell's in-flight mark. -/
def Port.isInFlight (p : Port) (cell : Nat) : Bool := p.inFlight.getD cell false

/-- R189: an answer written into its cell: outcome, detail and answer time, then DONE; the mark becomes no and CELL is
latched. -/
def Port.writeAnswer (p : Port) (now : Clock) (a : Answer) : Port :=
  let at0 := cellAddr a.cell
  { p with
    hostMem := (((p.hostMem.write (at0 + 2) [byte a.outcome.code]).write (at0 + 8)
      (clockBytes now ++ a.detail.bytes)).write at0 [3])
    inFlight := p.inFlight.set a.cell false
    notice := p.notice ||| Notice.cell }

/-- R189: the answers of an event in turn; an answer for a cell whose in-flight mark is no is not written, and is a
failure of the internal checks (the second component). -/
def Port.writeAnswers (now : Clock) : Port → List Answer → Port × Bool
  | p, [] => (p, false)
  | p, a :: as =>
    if p.isInFlight a.cell then Port.writeAnswers now (p.writeAnswer now a) as
    else ((Port.writeAnswers now p as).1, true)

/-- R186: the cells of a run, in order. -/
def runCells (first count : Nat) : List Nat := (List.range count).map (fun i => (first + i) % 32)

/-- R186: a cell offered to the intake list. -/
def offerCell (intake : List Nat) (cell : Nat) : List Nat := if intake.contains cell then intake else intake ++ [cell]

/-- R188: the modes in which a kind is accepted. -/
def RequestKind.acceptedIn (k : RequestKind) (m : Mode) : Bool :=
  match m with
  | .halted => false
  | .configuring =>
    match k with
    | .acknowledgeAlarm => true
    | .loadSegment => true
    | .loadReset => true
    | .commitTables => true
    | _ => false
  | .observing =>
    match k with
    | .callPoints => false
    | .loadSegment => false
    | .loadReset => false
    | .commitTables => false
    | _ => true
  | .service =>
    match k with
    | .loadSegment => false
    | .loadReset => false
    | .commitTables => false
    | _ => true

/-- R187: a cell copied into the request record. -/
def Port.copyCell (p : Port) (now : Clock) (cell : Nat) (k : RequestKind) : Request :=
  let body := p.hostMem.readBytes (cellAddr cell + 28) 100
  { cell := cell
    kind := k
    body := body
    takenAt := now
    segment :=
      if k = .loadSegment then p.hostMem.readBytes 0x8000 (min 16384 (fieldAt body 2 2)) else [] }

/-- R187: the taking of a cell: in flight, the clock written as taken-at, then TAKEN. -/
def Port.takeCell (p : Port) (now : Clock) (cell : Nat) : Port :=
  let at0 := cellAddr cell
  { p with
    inFlight := p.inFlight.set cell true
    hostMem := (p.hostMem.write (at0 + 4) (clockBytes now)).write at0 [2] }

/-! ### The close of an event (R161, R189, R190, R192, R193, R197) -/

/-- The state of a link, with no record shown as DOWN (R124). -/
def Blocks.linkStates (b : Blocks) : List LinkState := b.links.map (fun l => (l.map (·.state)).getD .down)

/-- R190: the token of a line that has a record before and after differs. -/
def tokenChanged (x : Option LineRec × Option LineRec) : Bool :=
  match x with
  | (some a, some c) => a.token != c.token
  | _ => false

/-- R190: a border link's state or a line's token changes (log entry 22). -/
def linkChanged (old new : Blocks) : Bool :=
  old.linkStates != new.linkStates || (old.lines.zip new.lines).any tokenChanged

/-- R190: the alarm list, an entry or the overflow mark changes. -/
def alarmChanged (old new : Blocks) : Bool := old.alarms != new.alarms || old.overflow != new.overflow

/-- R190: the mode, the SAFE level or the load state changes. -/
def modeChanged (old new : Blocks) : Bool := new.work.modeNotice || old.load.state != new.load.state

/-- R183, R189: the internal checks of the event. -/
def Blocks.closeChecks (b : Blocks) (failed : Bool) : Blocks :=
  if (failed || b.work.halt) && b.mode != .halted then b.enterHalted (some b.clock) else b

/-- The records and notices of an event handed to the exchange port. -/
def Port.closeEvent (p oldPort : Port) (old new : Blocks) : Port :=
  let p := p.writeMirrors new (changedRecords oldPort p old new)
  let p := p.latchIf (alarmChanged old new) Notice.alarm
  let p := p.latchIf (linkChanged old new) Notice.link
  let p := p.latchIf (modeChanged old new) Notice.mode
  { p with sent := new.work.sent }

/-- R197: entry to HALTED empties the intake list; a request handed on is not served. -/
def Port.halt (p : Port) (old new : Blocks) : Port :=
  if new.mode = .halted ∧ old.mode ≠ .halted then { p with intake := [], handed := none } else p

/-- The end of an event: answers written, checks closed, alarms entered, records mirrored, notices latched, and the
event's hand-offs cleared (log entries 9, 13, 18, 29). -/
def State.finish (s : State) (p : Port) (b : Blocks) : State :=
  let r := Port.writeAnswers b.clock p b.work.answers
  let b := (b.closeChecks r.2).enterAlarms
  { s with
    port := (r.1.closeEvent s.port s.blocks b).halt s.blocks b
    blocks := { b with work := Work.empty, freeIndex := s.blocks.freeIndex + 1 } }

/-! ### How a command acts -/

/-- No block acts while the supervisor is held in reset (R182) or, but for the rows named in Dispatch, in HALTED (R184). -/
def State.asleep (s : State) : Bool := s.held || s.blocks.mode == .halted

/-- An event of a block. A step that is not enabled changes nothing (log entry 2). -/
def State.event (s : State) (f : Blocks → Option Blocks) : Host.Outcome State Fault Refusal :=
  if s.asleep then .next s
  else
    match f s.blocks with
    | none => .next s
    | some b => .next (s.finish s.port b.settle)

/-- An event of an element bus, which goes on in HALTED (R122); the next poll begins after it (R120). -/
def State.busEvent (s : State) (x : Bus) (f : Blocks → Option Blocks) : Host.Outcome State Fault Refusal :=
  if s.held then .next s
  else
    match f s.blocks with
    | none => .next s
    | some b => .next (s.finish s.port ((if b.mode = .halted then b else b.settle).startPoll x))

/-- An event of the store's memory; in HALTED a record write still ends (R184). -/
def State.storeEvent (s : State) (f : Blocks → Option Blocks) : Host.Outcome State Fault Refusal :=
  if s.held then .next s
  else
    match f s.blocks with
    | none => .next s
    | some b => .next (s.finish s.port (if b.mode = .halted then b else b.settle))

/-- A request handed to its owner (R188); a request row acts on the request handed on, if it is of its kind (log entry
7). -/
def State.request (s : State) (mine : Request → Bool) (f : Blocks → Request → Blocks) :
    Host.Outcome State Fault Refusal :=
  if s.asleep then .next s
  else
    match s.port.handed with
    | none => .next s
    | some q => if mine q then .next (s.finish { s.port with handed := none } (f s.blocks q).settle) else .next s

/-- The request is of a kind. -/
def Request.isKind (k : RequestKind) (q : Request) : Bool := q.kind == k

/-- The request is an EXECUTE of an operation; one whose code is no operation is any EXECUTE row's (log entry 8). -/
def Request.executes (op : Operation) (q : Request) : Bool :=
  q.kind == .execute && (Operation.ofCode (q.field 28 1) == some op || Operation.ofCode (q.field 28 1) == none)

/-! ### TAKE_CELL (R187, R188) -/

/-- R188: a copied request checked for its kind and against the mode. -/
def State.dispatch (s : State) (p : Port) (cell kind : Nat) : State :=
  match RequestKind.ofCode kind with
  | none => s.finish p (s.blocks.answer cell .badParameter (.parameter kind))
  | some k =>
    if k.acceptedIn s.blocks.mode then
      s.finish { p with handed := some (s.port.copyCell s.blocks.clock cell k) } s.blocks
    else s.finish p (s.blocks.answer cell .refusedMode (.mode s.blocks.mode))

/-- R187: the head of the intake list examined. -/
def State.takeHead (s : State) (cell : Nat) (rest : List Nat) : State :=
  let p := { s.port with intake := rest }
  if p.isInFlight cell then s.finish (p.setStray .inFlight cell) s.blocks
  else if p.hostMem.read (cellAddr cell) ≠ 1 then s.finish (p.setStray .notPosted cell) s.blocks
  else
    s.dispatch (p.takeCell s.blocks.clock cell) cell (p.hostMem.read (cellAddr cell + 1)).toNat

/-! ### Resets (R182, R195, R196) -/

/-- R182: the supervisor is held: writes and exchanges lost, SAFE low (R172). -/
def State.hold (s : State) : State :=
  { s with held := true, blocks := s.blocks.cutOff, port := s.port.latchIf s.safe Notice.mode }

/-- R195: the addresses a hard restart initialises: the cells, the staging area and the supervisor's own ranges. -/
def Exchange.initialised (a : Nat) : Bool := (0x200 ≤ a && a < 0x1200) || (0x8000 ≤ a && a < 0xC000)

/-- R195: a record written with both stamps 1. -/
def Memory.initMirror (b : Blocks) (m : Memory) (r : MirrorRec) : Memory :=
  m.write r.addr (stampedRecord r.size 1 (b.mirrorBody none r))

/-- R195: the records that differ from absent or empty after the initialisation: none without an image, since the
memory's unlisted bytes read as the absent records with stamps 1 (Exchange.blank). -/
def Blocks.initRecords (b : Blocks) : List MirrorRec :=
  match b.inForce with
  | none => []
  | some _ => MirrorRec.identity :: b.presentRecords

/-- R195: the exchange port after the initialisation of a hard restart. -/
def Port.initialise (p : Port) (b : Blocks) : Port :=
  { notice := 0
    mask := 0
    intake := []
    inFlight := List.replicate 32 false
    handed := none
    strayMark := false
    stray := none
    generation := 1
    hostMem := p.hostMem.filter (fun c => !Exchange.initialised c.1)
    mirrorMem := b.initRecords.foldl (Memory.initMirror b) []
    hostRead := .none
    sent := [] }

/-- R182, R195: a hard restart: the stored image read, the port initialised showing the records set up, then the mode
set, and from there on changes as after any event (log entry 4). -/
def State.hardRestart (s : State) : State :=
  let b := s.blocks.loseWrites.hardBase.readStore
  let p := s.port.initialise b
  State.finish { s with held := false, blocks := b, port := p } p b.startUp.settle

/-- R196: the cells answered RESTARTED because they are in flight. -/
def Port.openCells (p : Port) : List Nat := (List.range 32).filter p.isInFlight

/-- R196: the announced cells never taken: POSTED and not in flight, in list order. -/
def Port.postedCells (p : Port) : List Nat :=
  p.intake.filter (fun c => !p.isInFlight c && p.hostMem.read (cellAddr c) == 1)

/-- R196: RESTARTED written to a cell; for one never taken the answer time is also its taken-at. -/
def Port.answerRestarted (now : Clock) (p : Port) (cell : Nat) : Port :=
  p.writeAnswer now { cell := cell, outcome := .restarted, detail := .none }

/-- R196: RESTARTED written to an announced cell that was never taken. -/
def Port.answerUntaken (now : Clock) (p : Port) (cell : Nat) : Port :=
  Port.answerRestarted now { p with hostMem := p.hostMem.write (cellAddr cell + 4) (clockBytes now) } cell

/-- R196: answers before the restart, and the intake list emptied. -/
def Port.answerAll (p : Port) (now : Clock) : Port :=
  let untaken := p.postedCells
  let p := p.openCells.foldl (Port.answerRestarted now) p
  let p := untaken.foldl (Port.answerUntaken now) p
  { p with intake := [], handed := none }

/-- R182, R196: a soft restart: answers first, then the blocks set up anew, and every mirror record rewritten. -/
def State.softRestart (s : State) : State :=
  let b := s.blocks.loseWrites.softBase.readStore.startUp.settle
  s.finish (s.port.answerAll s.blocks.clock) { b with work := { b.work with dirty := allRecords } }

end Sys2Proof.Machine
end

