-- ==== Sys2Proof/Machine/BorderEvents.lean ====
section
/-! DEFINITION. The events of the border links (07): the border unit's timers, and the telegrams received. -/

namespace Sys2Proof.Machine

/-- LINE_STATE_INTERVAL (R127). -/
def execLineStateInterval (s : State) : Host.Outcome State Fault Refusal := s.event Blocks.lineStateInterval

/-- LINK_SILENCE_TIMEOUT (R126, R136). -/
def execLinkSilenceTimeout (port : Nat) (s : State) : Host.Outcome State Fault Refusal :=
  s.event (fun b => b.linkSilence port)

/-- TOKEN_WAIT_EXPIRY (R131). -/
def execTokenWaitExpiry (line : Nat) (s : State) : Host.Outcome State Fault Refusal :=
  s.event (fun b => b.tokenWaitExpiry line)

/-- HANDOVER_SEND_TIME (R141). -/
def execHandoverSendTime (line : Nat) (s : State) : Host.Outcome State Fault Refusal :=
  s.event (fun b => b.handoverSendTime line)

/-- LINE_STATE (R126, R128). -/
def execLineState (h : TelegramHead) (views : List LineView) (s : State) : Host.Outcome State Fault Refusal :=
  s.event (fun b => b.onLineState h views)

/-- TOKEN_ASK (R132). -/
def execTokenAsk (h : TelegramHead) (line : Byte) (s : State) : Host.Outcome State Fault Refusal :=
  s.event (fun b => b.receiveLine h line Blocks.onTokenAsk)

/-- TOKEN_GIVE (R133). -/
def execTokenGive (h : TelegramHead) (line : Byte) (s : State) : Host.Outcome State Fault Refusal :=
  s.event (fun b => b.receiveLine h line Blocks.onTokenGive)

/-- TOKEN_DECLINE (R133). -/
def execTokenDecline (h : TelegramHead) (line : Byte) (s : State) : Host.Outcome State Fault Refusal :=
  s.event (fun b => b.receiveLine h line Blocks.endTokenAsk)

/-- ENTRY_ASK (R138, R139). -/
def execEntryAsk (h : TelegramHead) (line : Byte) (reference : Word16) (identity : TelegramIdentity) (s : State) :
    Host.Outcome State Fault Refusal :=
  s.event (fun b => b.receiveLine h line (fun c n => c.onEntryAsk n reference (readIdentity b.freeIndex identity)))

/-- ENTRY_GRANT (R135). -/
def execEntryGrant (h : TelegramHead) (line : Byte) (reference : Word16) (s : State) :
    Host.Outcome State Fault Refusal :=
  s.event (fun b => b.receiveLine h line (fun b n => b.onEntryGrant n reference))

/-- ENTRY_DENY (R135, R57). -/
def execEntryDeny (h : TelegramHead) (line : Byte) (reference : Word16) (s : State) :
    Host.Outcome State Fault Refusal :=
  s.event (fun b => b.receiveLine h line (fun b n => b.onEntryDeny n reference))

/-- ENTRY_FREE (R140). -/
def execEntryFree (h : TelegramHead) (line : Byte) (reference : Word16) (s : State) :
    Host.Outcome State Fault Refusal :=
  s.event (fun b => b.receiveLine h line (fun b n => b.onEntryFree n reference))

/-- TRAIN_PASS (R142). -/
def execTrainPass (h : TelegramHead) (line : Byte) (identity : TelegramIdentity) (s : State) :
    Host.Outcome State Fault Refusal :=
  s.event (fun b => b.receiveLine h line (fun c n => c.onTrainPass n (readIdentity b.freeIndex identity)))

/-- TRAIN_TAKEN (R141). -/
def execTrainTaken (h : TelegramHead) (line : Byte) (s : State) : Host.Outcome State Fault Refusal :=
  s.event (fun b => b.receiveLine h line Blocks.onTrainTaken)

/-- INVALID_BORDER_TELEGRAM (R125, R199). -/
def execInvalidBorderTelegram (port : Nat) (chars : List LineChar) (s : State) : Host.Outcome State Fault Refusal :=
  s.event (fun b => b.onInvalidTelegram port chars)

end Sys2Proof.Machine
end

