-- ==== Sys2Proof/Machine/FieldEvents.lean ====
section
/-! DEFINITION. The events of the element buses (06), of the timers, and of the store's memory and the self-check (10).
A timer's event is enabled once its expiry is reached (log entry 3). -/

namespace Sys2Proof.Machine

/-- COMMAND_TELEGRAM_END (R111). -/
def execCommandTelegramEnd (x : Bus) (s : State) : Host.Outcome State Fault Refusal :=
  s.busEvent x (fun b => b.telegramEnd x)

/-- REPLY_COMPLETE (R111 to R118). -/
def execReplyComplete (x : Bus) (chars : List LineChar) (s : State) : Host.Outcome State Fault Refusal :=
  s.busEvent x (fun b => b.replyComplete x chars)

/-- REPLY_TIMEOUT (R114). -/
def execReplyTimeout (x : Bus) (s : State) : Host.Outcome State Fault Refusal :=
  s.busEvent x (fun b => b.replyTimeout x)

/-- CONFIRMATION_TIMER_EXPIRY (R21). -/
def execConfirmationTimerExpiry (n : Nat) (s : State) : Host.Outcome State Fault Refusal :=
  s.event (fun b => b.confirmationExpiry n)

/-- MOVE_TIMER_EXPIRY (R31). -/
def execMoveTimerExpiry (n : Nat) (s : State) : Host.Outcome State Fault Refusal := s.event (fun b => b.moveExpiry n)

/-- APPROACH_TIMER_EXPIRY (R83). -/
def execApproachTimerExpiry (slot : Nat) (s : State) : Host.Outcome State Fault Refusal :=
  s.event (fun b => b.routeTimerExpiry slot .approach)

/-- EMERGENCY_TIMER_EXPIRY (R86). -/
def execEmergencyTimerExpiry (slot : Nat) (s : State) : Host.Outcome State Fault Refusal :=
  s.event (fun b => b.routeTimerExpiry slot .emergency)

/-- ENTRY_WAIT_EXPIRY (R57). -/
def execEntryWaitExpiry (slot : Nat) (s : State) : Host.Outcome State Fault Refusal :=
  s.event (fun b => b.entryWaitExpiry slot)

/-- WAITING_ENTRY_EXPIRY (R66). -/
def execWaitingEntryExpiry (route : Nat) (s : State) : Host.Outcome State Fault Refusal :=
  s.event (fun b => b.waitingExpiry route false .expired)

/-- TOKEN_WAIT_ENTRY_EXPIRY (R54). -/
def execTokenWaitEntryExpiry (route : Nat) (s : State) : Host.Outcome State Fault Refusal :=
  s.event (fun b => b.waitingExpiry route true .borderRefused)

/-- OVERLAP_TIMER_EXPIRY (R101). -/
def execOverlapTimerExpiry (slot : Nat) (s : State) : Host.Outcome State Fault Refusal :=
  s.event (fun b => b.overlapExpiry slot)

/-- ARM_ENTRY_EXPIRY (R153). -/
def execArmEntryExpiry (s : State) : Host.Outcome State Fault Refusal := s.event Blocks.armExpiry

/-- TIME_LOCK_EXPIRY (R181). -/
def execTimeLockExpiry (s : State) : Host.Outcome State Fault Refusal := s.event Blocks.timeLockExpiry

/-- SELF_CHECK (R183). -/
def execSelfCheck (cause : SelfCheckCause) (s : State) : Host.Outcome State Fault Refusal :=
  s.event (fun b => b.selfCheck cause)

/-- RECORD_WRITE_END (R174, R184). -/
def execRecordWriteEnd (readsBack : Bool) (s : State) : Host.Outcome State Fault Refusal :=
  s.storeEvent (fun b => b.recordWriteEnd readsBack)

/-- COMMIT_WRITE_END (R178, R179). -/
def execCommitWriteEnd (readsBack : Bool) (s : State) : Host.Outcome State Fault Refusal :=
  s.event (fun b => b.commitWriteEnd readsBack)

end Sys2Proof.Machine
end

