-- ==== Sys2Proof/Machine/HostCommands.lean ====
section
/-! DEFINITION. The commands of the host port and of the pins: registers (11.3), exchange memory (R185), resets (R182),
KEY (R172), and the taking of cells (R187). The port's own commands go on while the supervisor is held in reset (log
entry 12) and in HALTED (R190, R197). -/

namespace Sys2Proof.Machine

/-- HARD_RESTART (R182, R195). -/
def execHardRestart (s : State) : Host.Outcome State Fault Refusal := .next s.hardRestart

/-- The first cell of a run: POST bits 0 to 4 (12.2). -/
def postFirst (v : Word16) : Nat := v.toNat % 32

/-- The count of a run: POST bits 8 to 13 (12.2). -/
def postCount (v : Word16) : Nat := v.toNat / 256 % 64

/-- POST (R186). In HALTED a POST write changes nothing (R197). -/
def execPost (v : Word16) (s : State) : Host.Outcome State Fault Refusal :=
  if s.blocks.mode = .halted then .next s
  else if postCount v = 0 ∨ 32 < postCount v then
    .next (s.finish (s.port.setStray .badRun (postFirst v)) s.blocks)
  else
    .next { s with port := { s.port with
      intake := (runCells (postFirst v) (postCount v)).foldl offerCell s.port.intake } }

/-- NOTICE_READ (R190): the pending marks returned and cleared. -/
def execNoticeRead (s : State) : Host.Outcome State Fault Refusal :=
  .next { s with port := { s.port with hostRead := .register s.port.noticeValue, notice := 0 } }

/-- NOTICE_MASK_WRITE (R190, 12.2). -/
def execNoticeMaskWrite (v : Word16) (s : State) : Host.Outcome State Fault Refusal :=
  .next { s with port := { s.port with mask := v.setWidth 6 } }

/-- RESTART (R182, R196). In HALTED it has no effect (R191). A CONTROL write that carries both requests is CLEAR_STRAY and
then this row (log entry 46). -/
def execRestart (s : State) : Host.Outcome State Fault Refusal := if s.asleep then .next s else .next s.softRestart

/-- CLEAR_STRAY (R191), also as the first of the two commands of a CONTROL write that carries both requests (log entry
46). -/
def execClearStray (s : State) : Host.Outcome State Fault Refusal :=
  .next { s with port := { s.port with strayMark := false } }

/-- REGISTER_WRITE_NO_EFFECT (11.3, R191). -/
def execRegisterWriteNoEffect (_ : QuietRegister) (_ : Word16) (s : State) : Host.Outcome State Fault Refusal := .next s

/-- The bytes of a host access. -/
def accessSpan : HostAccess → Nat × Nat
  | .read a n => (a, n)
  | .write a bs => (a, bs.length)

/-- HOST_MEMORY_ACCESS (R185). The exchange memory ends at 0xFFFF (11.1). -/
def execHostMemoryAccess (x : HostAccess) (s : State) : Host.Outcome State Fault Refusal :=
  if 0x10000 < (accessSpan x).1 + (accessSpan x).2 ∧ (accessSpan x).2 ≠ 0 then .fault (.outsideExchangeMemory (max 0x10000 (accessSpan x).1))
  else
    match x with
    | .read a n =>
      .next { s with port := { s.port with
        hostRead := .memory ((List.range n).map (fun i => s.port.byteAt (a + i))) } }
    | .write a bs => .next { s with port := s.port.hostWrite a bs }

/-- KEY_LEVEL_CHANGE (R172, R190), in every mode (log entry 27). -/
def execKeyLevelChange (level : Bool) (s : State) : Host.Outcome State Fault Refusal :=
  if s.blocks.key = level then .next s
  else .next { s with blocks := { s.blocks with key := level }, port := s.port.latch Notice.mode }

/-- TAKE_CELL (R187): with a cell announced and no request handed on (log entry 7). -/
def execTakeCell (s : State) : Host.Outcome State Fault Refusal :=
  if s.asleep ∨ s.port.handed.isSome then .next s
  else
    match s.port.intake with
    | [] => .next s
    | cell :: rest => .next (s.takeHead cell rest)

/-- RESET_ASSERTED (R182). -/
def execResetAsserted (s : State) : Host.Outcome State Fault Refusal := if s.held then .next s else .next s.hold

end Sys2Proof.Machine
end

