-- ==== Sys2Proof/Machine/RequestCommands.lean ====
section
/-! DEFINITION. The request commands (R188): each acts on the request handed to its owner, and is one event with what
follows from it. -/

namespace Sys2Proof.Machine

/-- SET_ROUTE (R47 to R64). -/
def execSetRoute (s : State) : Host.Outcome State Fault Refusal := s.request (Request.isKind .setRoute) Blocks.setRoute

/-- CANCEL_ROUTE (R78 to R82). -/
def execCancelRoute (s : State) : Host.Outcome State Fault Refusal :=
  s.request (Request.isKind .cancelRoute) Blocks.cancelRoute

/-- CALL_POINTS (R68, R69). -/
def execCallPoints (s : State) : Host.Outcome State Fault Refusal :=
  s.request (Request.isKind .callPoints) Blocks.callPoints

/-- APPLY_REMINDER (R144). -/
def execApplyReminder (s : State) : Host.Outcome State Fault Refusal :=
  s.request (Request.isKind .applyReminder) Blocks.applyReminder

/-- REMOVE_REMINDER (R144). -/
def execRemoveReminder (s : State) : Host.Outcome State Fault Refusal :=
  s.request (Request.isKind .removeReminder) Blocks.removeReminder

/-- APPLY_STANDING_RESTRICTION (R145). -/
def execApplyStandingRestriction (s : State) : Host.Outcome State Fault Refusal :=
  s.request (Request.isKind .applyStanding) Blocks.applyStanding

/-- GRANT_POSSESSION (R148, R149). -/
def execGrantPossession (s : State) : Host.Outcome State Fault Refusal :=
  s.request (Request.isKind .grantPossession) Blocks.grantPossession

/-- LIFT_POSSESSION (R150, R151). -/
def execLiftPossession (s : State) : Host.Outcome State Fault Refusal :=
  s.request (Request.isKind .liftPossession) Blocks.liftPossession

/-- ARM (R154). -/
def execArm (s : State) : Host.Outcome State Fault Refusal := s.request (Request.isKind .arm) Blocks.arm

/-- RESTORE_SECTION (R155, R156). -/
def execRestoreSection (s : State) : Host.Outcome State Fault Refusal :=
  s.request (Request.executes .restoreSection) (fun b q => b.execute q Blocks.restoreSection)

/-- EMERGENCY_RELEASE (R155, R84, R85). -/
def execEmergencyRelease (s : State) : Host.Outcome State Fault Refusal :=
  s.request (Request.executes .emergencyRelease) (fun b q => b.execute q Blocks.executeEmergency)

/-- REMOVE_STANDING (R155, R157). -/
def execRemoveStanding (s : State) : Host.Outcome State Fault Refusal :=
  s.request (Request.executes .removeStanding) (fun b q => b.execute q Blocks.removeStanding)

/-- FORCE_LIFT (R155, R157). -/
def execForceLift (s : State) : Host.Outcome State Fault Refusal :=
  s.request (Request.executes .forceLift) (fun b q => b.execute q Blocks.forceLift)

/-- TOKEN_RESTORE (R155, R158). -/
def execTokenRestore (s : State) : Host.Outcome State Fault Refusal :=
  s.request (Request.executes .tokenRestore) (fun b q => b.execute q Blocks.tokenRestore)

/-- RECEPTION_RELEASE (R155, R159). -/
def execReceptionRelease (s : State) : Host.Outcome State Fault Refusal :=
  s.request (Request.executes .receptionRelease) (fun b q => b.execute q Blocks.receptionRelease)

/-- ACKNOWLEDGE_ALARM (R167). -/
def execAcknowledgeAlarm (s : State) : Host.Outcome State Fault Refusal :=
  s.request (Request.isKind .acknowledgeAlarm) Blocks.acknowledgeAlarm

/-- LOAD_SEGMENT (R175). -/
def execLoadSegment (s : State) : Host.Outcome State Fault Refusal :=
  s.request (Request.isKind .loadSegment) Blocks.loadSegment

/-- LOAD_RESET (R175). -/
def execLoadReset (s : State) : Host.Outcome State Fault Refusal :=
  s.request (Request.isKind .loadReset) Blocks.loadReset

/-- COMMIT_TABLES (R176). -/
def execCommitTables (s : State) : Host.Outcome State Fault Refusal :=
  s.request (Request.isKind .commitTables) Blocks.commitTables

/-- LEAVE_SERVICE (R180). -/
def execLeaveService (s : State) : Host.Outcome State Fault Refusal :=
  s.request (Request.isKind .leaveService) Blocks.leaveService

end Sys2Proof.Machine
end

