-- ==== Sys2Proof/Machine/Dispatch.lean ====
section
/-! DEFINITION. The dispatch of a command to its meaning. -/

namespace Sys2Proof.Machine

def exec (i : Instr) (s : State) : Host.Outcome State Fault Refusal :=
  match i with
  | .hardRestart => Sys2Proof.Machine.execHardRestart s
  | .post value => Sys2Proof.Machine.execPost value s
  | .noticeRead => Sys2Proof.Machine.execNoticeRead s
  | .noticeMaskWrite value => Sys2Proof.Machine.execNoticeMaskWrite value s
  | .restart => Sys2Proof.Machine.execRestart s
  | .clearStray => Sys2Proof.Machine.execClearStray s
  | .registerWriteNoEffect reg value => Sys2Proof.Machine.execRegisterWriteNoEffect reg value s
  | .hostMemoryAccess access => Sys2Proof.Machine.execHostMemoryAccess access s
  | .keyLevelChange level => Sys2Proof.Machine.execKeyLevelChange level s
  | .takeCell => Sys2Proof.Machine.execTakeCell s
  | .setRoute => Sys2Proof.Machine.execSetRoute s
  | .cancelRoute => Sys2Proof.Machine.execCancelRoute s
  | .callPoints => Sys2Proof.Machine.execCallPoints s
  | .applyReminder => Sys2Proof.Machine.execApplyReminder s
  | .removeReminder => Sys2Proof.Machine.execRemoveReminder s
  | .applyStandingRestriction => Sys2Proof.Machine.execApplyStandingRestriction s
  | .grantPossession => Sys2Proof.Machine.execGrantPossession s
  | .liftPossession => Sys2Proof.Machine.execLiftPossession s
  | .arm => Sys2Proof.Machine.execArm s
  | .restoreSection => Sys2Proof.Machine.execRestoreSection s
  | .emergencyRelease => Sys2Proof.Machine.execEmergencyRelease s
  | .removeStanding => Sys2Proof.Machine.execRemoveStanding s
  | .forceLift => Sys2Proof.Machine.execForceLift s
  | .tokenRestore => Sys2Proof.Machine.execTokenRestore s
  | .receptionRelease => Sys2Proof.Machine.execReceptionRelease s
  | .acknowledgeAlarm => Sys2Proof.Machine.execAcknowledgeAlarm s
  | .loadSegment => Sys2Proof.Machine.execLoadSegment s
  | .loadReset => Sys2Proof.Machine.execLoadReset s
  | .commitTables => Sys2Proof.Machine.execCommitTables s
  | .leaveService => Sys2Proof.Machine.execLeaveService s
  | .commandTelegramEnd bus => Sys2Proof.Machine.execCommandTelegramEnd bus s
  | .replyComplete bus chars => Sys2Proof.Machine.execReplyComplete bus chars s
  | .replyTimeout bus => Sys2Proof.Machine.execReplyTimeout bus s
  | .confirmationTimerExpiry sec => Sys2Proof.Machine.execConfirmationTimerExpiry sec s
  | .moveTimerExpiry point => Sys2Proof.Machine.execMoveTimerExpiry point s
  | .approachTimerExpiry slot => Sys2Proof.Machine.execApproachTimerExpiry slot s
  | .emergencyTimerExpiry slot => Sys2Proof.Machine.execEmergencyTimerExpiry slot s
  | .entryWaitExpiry slot => Sys2Proof.Machine.execEntryWaitExpiry slot s
  | .waitingEntryExpiry route => Sys2Proof.Machine.execWaitingEntryExpiry route s
  | .tokenWaitEntryExpiry route => Sys2Proof.Machine.execTokenWaitEntryExpiry route s
  | .overlapTimerExpiry slot => Sys2Proof.Machine.execOverlapTimerExpiry slot s
  | .lineStateInterval => Sys2Proof.Machine.execLineStateInterval s
  | .linkSilenceTimeout port => Sys2Proof.Machine.execLinkSilenceTimeout port s
  | .tokenWaitExpiry line => Sys2Proof.Machine.execTokenWaitExpiry line s
  | .handoverSendTime line => Sys2Proof.Machine.execHandoverSendTime line s
  | .lineState head views => Sys2Proof.Machine.execLineState head views s
  | .tokenAsk head line => Sys2Proof.Machine.execTokenAsk head line s
  | .tokenGive head line => Sys2Proof.Machine.execTokenGive head line s
  | .tokenDecline head line => Sys2Proof.Machine.execTokenDecline head line s
  | .entryAsk head line reference identity => Sys2Proof.Machine.execEntryAsk head line reference identity s
  | .entryGrant head line reference => Sys2Proof.Machine.execEntryGrant head line reference s
  | .entryDeny head line reference => Sys2Proof.Machine.execEntryDeny head line reference s
  | .entryFree head line reference => Sys2Proof.Machine.execEntryFree head line reference s
  | .trainPass head line identity => Sys2Proof.Machine.execTrainPass head line identity s
  | .trainTaken head line => Sys2Proof.Machine.execTrainTaken head line s
  | .invalidBorderTelegram port chars => Sys2Proof.Machine.execInvalidBorderTelegram port chars s
  | .armEntryExpiry => Sys2Proof.Machine.execArmEntryExpiry s
  | .recordWriteEnd readsBack => Sys2Proof.Machine.execRecordWriteEnd readsBack s
  | .commitWriteEnd readsBack => Sys2Proof.Machine.execCommitWriteEnd readsBack s
  | .selfCheck cause => Sys2Proof.Machine.execSelfCheck cause s
  | .timeLockExpiry => Sys2Proof.Machine.execTimeLockExpiry s
  | .resetAsserted => Sys2Proof.Machine.execResetAsserted s

end Sys2Proof.Machine
end

