-- ==== Sys2Proof/Machine/Step.lean ====
section
/-! DEFINITION. One step: the command at the front of the queue, or, on an empty queue, one millisecond of the clock. -/

namespace Sys2Proof.Machine

/-- A step on an empty queue: one millisecond passes, unless the supervisor is held in reset (log entry 1). -/
def State.tick (s : State) : State :=
  if s.held then s else { s with blocks := { s.blocks with clock := Clock.after s.blocks.clock 1 } }

/-- One step. -/
def step (s : State) : Host.Outcome State Fault Refusal :=
  match s.pending with
  | [] => .next s.tick
  | c :: rest => exec c { s with pending := rest }

/-- The state with the command that a word spells at the front of its queue: no word spells one, since the table gives
no row any bits. -/
def State.withFetchWord (s : State) (nbits w : Nat) : State :=
  match decodeTableWord nbits w with
  | none => s
  | some c => { s with pending := c :: s.pending }

end Sys2Proof.Machine
end

