-- ==== Sys2Proof/Safety.lean ====
section
/-! DEFINITION. What the statements of Certificates/Slice0/Obligations.lean say of a state: the invariants, what no
follow-up of an event changes, and what it means that a request is being served and that its cell is answered. -/

namespace Sys2Proof.Machine

/-! ### Invariants -/

/-- Both parts of the exchange memory are in the canonical form. -/
def State.memoryOk (s : State) : Bool := s.port.hostMem.wf && s.port.mirrorMem.wf

/-- R186: the intake list holds cell numbers below 32, none twice; R187: one in-flight mark for each cell; a request
handed on is of a cell below 32. -/
def State.portOk (s : State) : Bool :=
  decide s.port.intake.Nodup && s.port.intake.all (· < 32) && decide (s.port.inFlight.length = 32) &&
    s.port.handed.all (fun q => decide (q.cell < 32))

/-- Between steps nothing is left to hand on. -/
def State.settled (s : State) : Bool := s.blocks.work == Work.empty

/-- R192: the generation is never 0 and fits its 32 bits. -/
def State.generationOk (s : State) : Bool := 1 ≤ s.port.generation && s.port.generation ≤ 4294967295

/-- The routes in the Route Set, by slot. -/
def Blocks.heldRoutes (b : Blocks) : List Nat := b.routes.filterMap (Option.map (·.route))

/-- The lists of the blocks in their bounds. R153: at most 4 arm entries, no target twice. R161, R162: at most 64 alarm
entries, no kind twice for one element, no raise sequence twice, and the counter's value free for the next. R45, R46,
R49: 48 slots, at most 16 waiting entries, and no route twice across both; a route is held in SERVICE alone (R184,
R180). R174: at most 32 writes wait. R199: one collection for each of the four ports. -/
structure Blocks.InBounds (b : Blocks) : Prop where
  arms : b.arms.length ≤ 4
  targets : (b.arms.map (·.target)).Nodup
  alarms : b.alarms.length ≤ 64
  conditions : (b.alarms.map (fun a => (a.kind, a.element))).Nodup
  sequences : (b.alarms.map (·.seq)).Nodup
  counter : ∀ a ∈ b.alarms, a.seq ≠ b.alarmCounter
  range : (∀ a ∈ b.alarms, 1 ≤ a.seq ∧ a.seq ≤ 4294967295) ∧ 1 ≤ b.alarmCounter ∧ b.alarmCounter ≤ 4294967295
  slots : b.routes.length = 48
  waiting : b.waiting.length ≤ 16
  once : (b.heldRoutes ++ b.waiting.map (·.route)).Nodup
  service : b.mode ≠ .service → b.heldRoutes = []
  writes : b.writes.length ≤ 32
  collected : b.collected.length = 4

/-! ### The alarm list and the restarts -/

/-- R162: the counter of blocks d is the first after that of blocks b which no entry of d holds, 1 coming after
4,294,967,295. -/
def Blocks.CounterAdvances (b d : Blocks) : Prop :=
  ∃ n, d.alarmCounter = Nat.repeat seqAfter (n + 1) b.alarmCounter ∧
    (∀ m < n, ∃ a ∈ d.alarms, a.seq = Nat.repeat seqAfter (m + 1) b.alarmCounter) ∧
    ∀ a ∈ d.alarms, a.seq ≠ d.alarmCounter

/-- R147: the stored possession record of an area is GRANTED or BARRED. -/
def Persistent.holds (p : Persistent) (area : Nat) : Prop := ∃ q, p.areas[area]? = some q ∧ q.state ≠ .free

/-- The blocks stand as a restart sets them up from an image and a persistent section, with their first polls begun. -/
structure Blocks.Restored (b : Blocks) (i : Image) (p : Persistent) : Prop where
  /-- R19, R146. -/
  sections : b.sections.length = i.sections.length ∧ ∀ n r, b.sectionRec n = some r →
    r.occupancy = .disturbed ∧ r.reminder = false ∧ r.standing = (p.sections[n]?).getD false ∧ r.passage = false ∧
    r.identity = none ∧ r.changedAt = 0 ∧ r.confirm = none ∧
    (∀ a e, p.holds a → i.areas[a]? = some e → n ∈ e.sections →
      (∀ c f, c < a → p.holds c → i.areas[c]? = some f → n ∉ f.sections) → r.owner = .possession a) ∧
    ((∀ a e, p.holds a → i.areas[a]? = some e → n ∉ e.sections) → r.owner = .free)
  /-- R27, R146, R147. -/
  points : b.points.length = i.points.length ∧ ∀ n v e, b.pointRec n = some v → i.points[n]? = some e →
    v.ref = none ∧ v.detection = e.ends.map (fun _ => none) ∧ v.state = .unknown ∧ v.pathCount = 0 ∧
    v.overlapCount = 0 ∧ v.flankCount = 0 ∧ v.claimed = none ∧ v.reminder = false ∧
    v.standing = (p.points[n]?).getD false ∧ v.pendingCall = none ∧ v.moveTimer = none ∧
    (v.possessed = true ↔ ∃ a x, p.holds a ∧ i.areas[a]? = some x ∧ e.sec ∈ x.sections)
  /-- R32, R146, R147. -/
  signals : b.signals.length = i.signals.length ∧ ∀ n r, b.signalRec n = some r →
    r.commanded = .stop ∧ r.shown = .dark ∧ r.proved = false ∧ r.matchCount = 0 ∧ r.mismatchCount = 0 ∧
    r.lampFault = false ∧ r.owningSlot = none ∧ r.flankCount = 0 ∧ r.reminder = false ∧
    r.standing = (p.signals[n]?).getD false ∧
    r.possessionCount = (List.range i.areas.length).countP (fun a =>
      (p.areas[a]?).any (fun q => q.state ≠ .free) && (i.areas[a]?).any (fun x => x.boundary.contains n))
  /-- R147. -/
  areas : b.areas.length = i.areas.length ∧ ∀ (n : Nat) (r : PossessionRec) q, b.areas[n]? = some r →
    p.areas[n]? = some q →
    r = { state := q.state, reference := q.reference, attempts := q.attempts, grantedAt := none }
  /-- R41, R147. -/
  holds : (∀ h ∈ b.holds, ∃ a, h.claimant = .area a) ∧ ∀ a,
    (p.holds a → (b.holds.filter (fun h => h.claimant = .area a)).map (·.hold) = i.possessionHolds a) ∧
    (¬ p.holds a → ∀ h ∈ b.holds, h.claimant ≠ .area a)
  /-- R108. -/
  units : b.units.length = i.units.length ∧ ∀ n u e, b.unitRec n = some u → i.units[n]? = some e →
    (u.state = .unknown ∨ u.state = .syncing) ∧ u.miss = 0 ∧ u.good = 0 ∧ u.lastStatus = none ∧ u.lastReply = none ∧
    u.image = e.slots.map (fun k => match k with
      | .signal => .signal .stop
      | .point => .hold
      | .sec => .none)
  /-- R124. -/
  links : ∀ port, port < 4 → ((b.linkRec port).isSome = true ↔ ∃ n e, portOf n = port ∧ i.lines[n]? = some e ∧
      e.mode ≠ .unfitted) ∧
    ∀ l, b.linkRec port = some l → l.state = .down ∧ l.valid = 0 ∧ l.lastValid = none ∧ l.transmit = 0 ∧
      l.expected = none ∧ l.gap = 0 ∧ l.errorReported = false ∧
      ∃ n e, portOf n = port ∧ i.lines[n]? = some e ∧ e.mode ≠ .unfitted ∧ l.neighbour = e.neighbour
  /-- R129. -/
  lines : ∀ n, n < 16 → ((b.lineRec n).isSome = true ↔ ∃ e, i.lines[n]? = some e ∧ e.mode ≠ .unfitted) ∧
    ∀ l e, b.lineRec n = some l → i.lines[n]? = some e →
      l.token = (if e.mode = .bidirectional then (p.tokens[n]?).join else none) ∧ l.disagreement = false ∧
      l.givePending = false ∧ l.tokenAsk = none ∧ l.entryAsk = none ∧ l.reception = none ∧ l.handover = none ∧
      l.handedSlot = none ∧ l.view = none ∧ l.deferredFree = none ∧ l.outgoingNone = 0
  /-- R45, R46, R127, R153, R183. -/
  rest : (∀ n, b.routeRec n = none) ∧ b.waiting = [] ∧ b.arms = [] ∧
    b.lineStateDue = some (Clock.after 0 500) ∧ b.selfCheckDue = some (Clock.after 0 60000)

/-! ### Claims (R38 to R41, R56) -/

/-- A hold on a section, of any owner. -/
def Hold.ofSection (n : Nat) : Hold → Bool
  | .sec m _ => m = n
  | _ => false

/-- A claim of a kind on a point. -/
def Hold.ofPoint (n : Nat) (k : ClaimKind) : Hold → Bool
  | .point m j _ => m = n && j = k
  | _ => false

/-- The entry claim on a signal, of any slot. -/
def Hold.ofEntry (n : Nat) : Hold → Bool
  | .signalEntry m _ => m = n
  | _ => false

/-- The owner kind is POSSESSION. -/
def Owner.isPossession : Owner → Bool
  | .possession _ => true
  | _ => false

/-- The owner kind is OVERLAP. -/
def Owner.isOverlap : Owner → Bool
  | .overlap _ => true
  | _ => false

/-- An owner has every one of these holds, each as often as it stands among them (R41). -/
def Blocks.hasHolds (b : Blocks) (c : Claimant) (items : List Hold) : Prop :=
  ∀ h, items.count h ≤ b.holds.count { claimant := c, hold := h }

/-- The holds of blocks d are those of blocks b without these of an owner: R41's lists, but for their order. -/
def Blocks.GivesBack (b d : Blocks) (c : Claimant) (items : List Hold) : Prop :=
  ∀ h : HoldRec, d.holds.count h = b.holds.count h - (if h.claimant = c then items.count h.hold else 0)

/-- How many of the holds of R41 meet a condition. -/
def Blocks.holdCount (b : Blocks) (p : Hold → Bool) : Nat := b.holds.countP (fun h => p h.hold)

/-- R38, column "Asked by": a hold is of the kind its owner asks for, and names that owner. -/
def HoldRec.proper (h : HoldRec) : Bool :=
  match h.claimant, h.hold with
  | .slot n, .sec _ o => o = .route n || o = .overlap n
  | .slot _, .point _ _ _ => true
  | .slot n, .signalEntry _ m => m = n
  | .slot _, .signalFlank _ => true
  | .line n, .sec _ o => o = .reception n
  | .line _, .point _ k _ => k = .path
  | .area n, .sec _ o => o = .possession n
  | .area _, .pointPossession _ => true
  | .area _, .signalPossession _ => true
  | _, _ => false

/-- The points among the primaries and substitutes of a route's flank entries. -/
def RouteEntry.flankPoints (e : RouteEntry) : List Nat :=
  e.flanks.flatMap (fun f => (f.primary :: f.substitute.toList).filterMap (fun x =>
    match x with
    | .point n _ => some n
    | .signal _ => none))

/-- No claim set of the image names a section or a point twice, and no section lies in two possession areas, as the
checks of an image give it (R12 conditions 3, 6, 11, 14 and 16, R13, R16, R17). -/
structure Image.Apart (i : Image) : Prop where
  sections : ∀ e ∈ i.routes, e.path.Nodup ∧
    ∀ n ∈ e.overlaps, ∀ o, i.overlaps[n]? = some o → (e.path ++ o.sections).Nodup
  points : ∀ e ∈ i.routes, (e.points.map (·.point) ++ e.flankPoints).Nodup ∧
    ∀ n ∈ e.overlaps, ∀ o, i.overlaps[n]? = some o →
      (e.points.map (·.point) ++ o.points.map (·.point) ++ e.flankPoints).Nodup
  receptions : ∀ e ∈ i.lines, e.recSections.Nodup ∧ (e.recPoints.map (·.point)).Nodup
  areas : ∀ e ∈ i.areas, e.sections.Nodup ∧ e.boundary.Nodup
  disjoint : ∀ (k m : Nat) (e f : AreaEntry), i.areas[k]? = some e → i.areas[m]? = some f → k ≠ m →
    ∀ n ∈ e.sections, n ∉ f.sections

/-- Every record shows the holds of R41's lists, and no others. A section's owner is the one its hold names, and none
without a hold. A point's counts are its claims, kind by kind, all in its claimed position, which it has exactly while
there is one; it is possessed while an area holds it. A signal's counts are its holds, and its owning slot that of its
one entry claim. Every hold is one its owner asks for, and an area whose possession is not FREE holds its items, and
none while it is FREE. -/
structure Blocks.ClaimsShown (b : Blocks) : Prop where
  owner : ∀ n r, b.sectionRec n = some r →
    (b.holds.filter (fun h => h.hold.ofSection n)).map (·.hold) = if r.owner = .free then [] else [.sec n r.owner]
  path : ∀ n p, b.pointRec n = some p → p.pathCount = b.holdCount (Hold.ofPoint n .path)
  overlap : ∀ n p, b.pointRec n = some p → p.overlapCount = b.holdCount (Hold.ofPoint n .overlap)
  flank : ∀ n p, b.pointRec n = some p → p.flankCount = b.holdCount (Hold.ofPoint n .flank)
  claimed : ∀ n p, b.pointRec n = some p → (p.claimed = none ↔ p.pathCount + p.overlapCount + p.flankCount = 0)
  position : ∀ n p, b.pointRec n = some p → ∀ h ∈ b.holds, ∀ k x, h.hold = .point n k x → p.claimed = some x
  possessed : ∀ n p, b.pointRec n = some p → (p.possessed = true ↔ ∃ h ∈ b.holds, h.hold = .pointPossession n)
  signalFlank : ∀ n r, b.signalRec n = some r → r.flankCount = b.holdCount (fun h => h = .signalFlank n)
  signalPossession : ∀ n r, b.signalRec n = some r → r.possessionCount = b.holdCount (fun h => h = .signalPossession n)
  entry : ∀ n r, b.signalRec n = some r →
    (b.holds.filter (fun h => h.hold.ofEntry n)).map (·.hold) = (r.owningSlot.map (Hold.signalEntry n)).toList
  proper : ∀ h ∈ b.holds, h.proper = true
  areas : ∀ n, (b.holds.filter (fun h => h.claimant = .area n)).map (·.hold) =
    if (b.areas[n]?).any (fun r => r.state ≠ .free) then b.possessionHolds n else []

/-- R56: a signal commanded off STOP is the entry signal of the one CLEARED entry in its owning slot; and a path section
is given back behind a train alone (R73). -/
structure Blocks.SignalsGuarded (b : Blocks) : Prop where
  off : ∀ n r, b.signalRec n = some r → r.commanded ≠ .stop →
    ∃ slot e x, r.owningSlot = some slot ∧ b.entryAt slot = some (e, x) ∧ x.state = .cleared ∧ e.entry = n
  released : ∀ slot r, b.routeRec slot = some r → r.released ≠ 0 → r.state = .passing ∨ r.state = .emergency

/-! ### Outcomes -/

/-- An outcome that is a next state with a property. -/
def goesOn (o : Host.Outcome State Fault Refusal) (q : State → Prop) : Prop :=
  match o with
  | .next t => q t
  | .fault _ => False
  | .refused _ => False

/-! ### The parts of the records that no follow-up changes -/

def SectionRec.kept (r : SectionRec) : Occupancy × Bool × Bool × Clock :=
  (r.occupancy, r.reminder, r.standing, r.changedAt)

def PointRec.kept (p : PointRec) : List (Option Position) × Bool × Bool := (p.detection, p.reminder, p.standing)

def SignalRec.kept (r : SignalRec) : Shown × Bool × Bool := (r.shown, r.reminder, r.standing)

def UnitRec.kept (u : UnitRec) : UnitState × Nat × Nat × Option (List SlotStatus) × Option Clock :=
  (u.state, u.miss, u.good, u.lastStatus, u.lastReply)

def LinkRec.kept (l : LinkRec) : LinkState × Nat × Option Clock × Option Byte × Nat × Bool × Nat :=
  (l.state, l.valid, l.lastValid, l.expected, l.gap, l.errorReported, l.neighbour)

def LineRec.kept (l : LineRec) : Option Token × Bool × Bool × Option LineView :=
  (l.token, l.disagreement, l.givePending, l.view)

/-- Blocks b keep of blocks a what no follow-up and no end of an event changes: the clock, KEY, the image, the load, the
possession records, the arm list and the characters collected on the links, and of the other records the parts above. -/
structure Blocks.Kept (a b : Blocks) : Prop where
  clock : b.clock = a.clock
  key : b.key = a.key
  inForce : b.inForce = a.inForce
  load : b.load = a.load
  areas : b.areas = a.areas
  arms : b.arms = a.arms
  collected : b.collected = a.collected
  sections : b.sections.map SectionRec.kept = a.sections.map SectionRec.kept
  points : b.points.map PointRec.kept = a.points.map PointRec.kept
  signals : b.signals.map SignalRec.kept = a.signals.map SignalRec.kept
  units : b.units.map UnitRec.kept = a.units.map UnitRec.kept
  links : b.links.map (Option.map LinkRec.kept) = a.links.map (Option.map LinkRec.kept)
  lines : b.lines.map (Option.map LineRec.kept) = a.lines.map (Option.map LineRec.kept)

/-! ### The blocks after an event -/

/-- Blocks with nothing for the follow-ups of an event to act on: no Route Set entry, no reception, no re-examination of
the waiting list due, and no failed check. -/
def Blocks.quiet (b : Blocks) : Prop :=
  (∀ n, b.routeRec n = none) ∧ (∀ n, (b.lineRec n).bind (·.reception) = none) ∧
    (b.waiting = [] ∨ b.mode ≠ .service ∨ (b.work.freed = false ∧ b.work.tokenHeld = false)) ∧ b.work.halt = false

/-- Blocks x are what an event makes of the blocks itself, its alarms entered, and blocks b are what stands after its
follow-ups and its end: what they keep is x's; unless they end in HALTED, so are the mode, the sweep, the store and the
times below; and with nothing to follow up, b is x with the hand-offs cleared. -/
structure Blocks.After (x b : Blocks) : Prop where
  kept : Blocks.Kept x b
  mode : b.mode = x.mode ∨ b.mode = .halted
  steady : b.mode = x.mode → b.sweep = x.sweep ∧ b.stored = x.stored ∧ b.persistent = x.persistent ∧
    b.running = x.running ∧ b.writes = x.writes ∧ b.lineStateDue = x.lineStateDue ∧
    b.selfCheckDue = x.selfCheckDue ∧ b.busA.exchange = x.busA.exchange ∧ b.busB.exchange = x.busB.exchange
  quiet : x.quiet → b = { x with work := Work.empty, freeIndex := x.freeIndex + 1 }

/-- A section, point or signal has its record, as every one of the image in force has (R18, R27, R32). -/
def Blocks.recorded (b : Blocks) (e : Element) : Prop :=
  match e.kind with
  | .sec => b.sectionRec e.number ≠ none
  | .point => b.pointRec e.number ≠ none
  | .signal => b.signalRec e.number ≠ none
  | _ => False

/-- The blocks with one section record replaced. -/
def Blocks.withSection (b : Blocks) (n : Nat) (r : SectionRec) : Blocks := { b with sections := b.sections.set n r }

/-- The blocks with one line record replaced. -/
def Blocks.withLine (b : Blocks) (n : Nat) (l : LineRec) : Blocks := { b with lines := b.lines.set n (some l) }

/-- The blocks with one link record replaced. -/
def Blocks.withLink (b : Blocks) (port : Nat) (l : LinkRec) : Blocks := { b with links := b.links.set port (some l) }

/-- The state after an event of a block that makes blocks b of it: its follow-ups and its end. -/
def State.ended (s : State) (b : Blocks) : State := s.finish s.port b.settle

/-- The same for the serving of a request: it is no longer handed on. -/
def State.served (s : State) (b : Blocks) : State := s.finish { s.port with handed := none } b.settle

/-- R174: a write joins the list, or begins at once when nothing runs or waits. -/
def Blocks.withWrite (b : Blocks) (w : Write) : Blocks :=
  if b.running = none ∧ b.writes = [] then { b with running := some w } else { b with writes := b.writes ++ [w] }

/-! ### Requests and answers -/

/-- A request that a request row serves: the supervisor awake, the request handed on and of this kind, its cell one of
the 32 and in flight, and nothing left from an earlier event. -/
def State.serving (s : State) (k : RequestKind) (q : Request) : Prop :=
  s.asleep = false ∧ s.port.handed = some q ∧ q.kind = k ∧ q.cell < 32 ∧ s.port.isInFlight q.cell = true ∧
    s.blocks.work = Work.empty

/-- The row of EXECUTE for each qualified operation. -/
def executeRow : Operation → Instr
  | .restoreSection => .restoreSection
  | .emergencyRelease => .emergencyRelease
  | .removeStanding => .removeStanding
  | .forceLift => .forceLift
  | .tokenRestore => .tokenRestore
  | .receptionRelease => .receptionRelease

/-- R155: the oldest arm entry of an operation and a target. -/
def Blocks.armed (b : Blocks) (op : Operation) (e : Element) : Option ArmRec :=
  b.arms.find? (fun a => a.operation == op && a.target == e)

/-- R153: an entry leaves the arm list, and those behind it keep their order. -/
def Blocks.disarm (b : Blocks) (a : ArmRec) : Blocks := { b with arms := b.arms.filter (fun x => x != a) }

/-- An EXECUTE of an operation on a target that finds its entry armed 3,000 to 30,000 ms before (R155). -/
def State.executing (s : State) (op : Operation) (q : Request) (e : Element) (a : ArmRec) : Prop :=
  s.serving .execute q ∧ s.blocks.qualifiedOperand q = .ok (op, e) ∧ s.blocks.armed op e = some a ∧
    3000 ≤ Clock.age s.blocks.clock a.armTime ∧ Clock.age s.blocks.clock a.armTime ≤ 30000

/-- A telegram that names a line, from the neighbour, on a link that is UP (R125, R126). -/
def State.hears (s : State) (h : TelegramHead) (line : Nat) (k : LineEntry) (l : LineRec) : Prop :=
  s.asleep = false ∧ s.blocks.work = Work.empty ∧
    (∃ m, s.blocks.linkRec h.port = some m ∧ m.state = .up ∧ h.sender.toNat = m.neighbour) ∧ portOf line = h.port ∧
    s.blocks.lineEntry line = some k ∧ s.blocks.lineRec line = some l

/-- The nine telegrams that name a line (12.6), with their operands. -/
def lineTelegrams (h : TelegramHead) (line : Byte) (ref : Word16) (identity : TelegramIdentity) : List Instr :=
  [.tokenAsk h line, .tokenGive h line, .tokenDecline h line, .entryAsk h line ref identity, .entryGrant h line ref,
    .entryDeny h line ref, .entryFree h line ref, .trainPass h line identity, .trainTaken h line]

/-- R189: the cell holds the answer: DONE, the outcome, the clock as answer time, the detail; it is no longer in flight,
and CELL is pending. -/
def State.answered (t : State) (c : Nat) (o : CellOutcome) (d : Detail) : Prop :=
  t.port.byteAt (cellAddr c) = 3 ∧ t.port.byteAt (cellAddr c + 2) = byte o.code ∧
    (∀ i < 20, t.port.byteAt (cellAddr c + 8 + i) = (clockBytes t.blocks.clock ++ d.bytes).getD i 0) ∧
    t.port.isInFlight c = false ∧ t.port.notice.getLsbD 0 = true

/-- A request row ends request q with an answer, over blocks x of its own effect: the next state is that of x with the
answer handed over, the cell holds it, and x stands as Blocks.After says. -/
def State.serves (s : State) (c : Instr) (q : Request) (x : Blocks) (o : CellOutcome) (d : Detail) : Prop :=
  exec c s = .next (s.served (x.answer q.cell o d)) ∧
    goesOn (exec c s) (fun t => t.answered q.cell o d ∧ x.After t.blocks)

/-- The rows that act on a block alone: the requests, the events of the buses, of the links, of the timers and of the
store, and the self-check. The others are the host's rows, the pins, the resets and TAKE_CELL. -/
def blockRow : Instr → Bool
  | .hardRestart => false
  | .post _ => false
  | .noticeRead => false
  | .noticeMaskWrite _ => false
  | .restart => false
  | .clearStray => false
  | .registerWriteNoEffect _ _ => false
  | .hostMemoryAccess _ => false
  | .keyLevelChange _ => false
  | .takeCell => false
  | .resetAsserted => false
  | _ => true

end Sys2Proof.Machine
end

