-- ==== Sys2Proof/WellFormed.lean ====
section
/-! DEFINITION. When a command's operands lie in the ranges the spec gives them. The meanings answer every command;
an operand outside its range names nothing that exists, and the command then does nothing (log entry 2). -/

namespace Sys2Proof

/-- The identity field of a telegram: 1 to 8 characters that count, or a length byte above 8 before eight characters. -/
def TelegramIdentity.ok : TelegramIdentity → Bool
  | .absent => true
  | .given i => 1 ≤ i.length && i.length ≤ 8
  | .overlong n chars => 8 < n.toNat && chars.length == 8

/-- A token view is one of the four that 12.6 names, or another code. -/
def TokenView.ok : TokenView → Bool
  | .other c => 3 < c.toNat
  | _ => true

/-- A border telegram's head names one of the four ports. -/
def TelegramHead.ok (h : TelegramHead) : Bool := h.port < 4

/-- A host access stays inside the 64 KiB exchange memory (11.1). -/
def HostAccess.ok : HostAccess → Bool
  | .read a n => a + n ≤ 65536
  | .write a bs => a + bs.length ≤ 65536

/-- A write that can have no effect: to NOTICE or MODE, or to CONTROL with neither request bit (R191, 12.2). A CONTROL write
with a request is the row of that request, and one with both is two commands: the model's choice (log entry 46). -/
def quietWriteOk : QuietRegister → Word16 → Bool
  | .notice, _ => true
  | .mode, _ => true
  | .control, v => v &&& 3#16 == 0#16

/-- The operands of a command lie in the ranges of the Conventions (00_scope). -/
def wellFormed : Instr → Bool
  | .hardRestart => true
  | .post _ => true
  | .noticeRead => true
  | .noticeMaskWrite _ => true
  | .restart => true
  | .clearStray => true
  | .registerWriteNoEffect r v => quietWriteOk r v
  | .hostMemoryAccess a => a.ok
  | .keyLevelChange _ => true
  | .takeCell => true
  | .setRoute => true
  | .cancelRoute => true
  | .callPoints => true
  | .applyReminder => true
  | .removeReminder => true
  | .applyStandingRestriction => true
  | .grantPossession => true
  | .liftPossession => true
  | .arm => true
  | .restoreSection => true
  | .emergencyRelease => true
  | .removeStanding => true
  | .forceLift => true
  | .tokenRestore => true
  | .receptionRelease => true
  | .acknowledgeAlarm => true
  | .loadSegment => true
  | .loadReset => true
  | .commitTables => true
  | .leaveService => true
  | .commandTelegramEnd _ => true
  | .replyComplete _ _ => true
  | .replyTimeout _ => true
  | .confirmationTimerExpiry n => n < 240
  | .moveTimerExpiry n => n < 96
  | .approachTimerExpiry n => n < 48
  | .emergencyTimerExpiry n => n < 48
  | .entryWaitExpiry n => n < 48
  | .waitingEntryExpiry n => n < 384
  | .tokenWaitEntryExpiry n => n < 384
  | .overlapTimerExpiry n => n < 48
  | .lineStateInterval => true
  | .linkSilenceTimeout n => n < 4
  | .tokenWaitExpiry n => n < 16
  | .handoverSendTime n => n < 16
  | .lineState h views => h.ok && views.length == 4 && views.all (fun v => v.token.ok)
  | .tokenAsk h _ => h.ok
  | .tokenGive h _ => h.ok
  | .tokenDecline h _ => h.ok
  | .entryAsk h _ _ i => h.ok && i.ok
  | .entryGrant h _ _ => h.ok
  | .entryDeny h _ _ => h.ok
  | .entryFree h _ _ => h.ok
  | .trainPass h _ i => h.ok && i.ok
  | .trainTaken h _ => h.ok
  | .invalidBorderTelegram p _ => p < 4
  | .armEntryExpiry => true
  | .recordWriteEnd _ => true
  | .commitWriteEnd _ => true
  | .selfCheck _ => true
  | .timeLockExpiry => true
  | .resetAsserted => true

end Sys2Proof
end

