-- ==== Sys2Proof/Certificates/Slice0/Obligations.lean ====
section
/-! DEFINITION. The statements for the provers. They speak of the model by the functions its meanings use; what a
follow-up of an event cannot change is Blocks.Kept, and what an answered cell holds is State.answered (Safety.lean). -/

open Sys2Proof Sys2Proof.Machine

/-! ### The machine -/

/-- A step takes the command at the front of the queue and runs it on the queue's rest. -/
def Obligations.StepRunsTheFrontCommand : Prop :=
  ∀ (c : Instr) (rest : List Instr) (s : State),
    step { s with pending := c :: rest } = exec c { s with pending := rest }

/-- Every command whose operands are in their ranges takes a next state, in every state, and leaves the queue. That a
command which the rules do not enable goes on, and with what, is the model's choice (log entry 2). On an empty queue one
millisecond passes, unless the supervisor is held in reset (the model's choice, log entry 1). -/
def Obligations.CommandsGoOnAndTimePasses : Prop :=
  (∀ (c : Instr) (s : State), wellFormed c = true → goesOn (exec c s) (fun t => t.pending = s.pending)) ∧
  ∀ s : State, s.pending = [] → step s = .next
    (if s.held then s else { s with blocks := { s.blocks with clock := s.blocks.clock + 1 } })

/-- Every step keeps both parts of the exchange memory in the canonical form: addresses rising, no entry that equals
what an unlisted address reads as. -/
def Obligations.StepsKeepTheMemoryCanonical : Prop :=
  ∀ s t : State, s.memoryOk = true → step s = .next t → t.memoryOk = true

/-- Every step keeps the port in order: the intake list holds cell numbers below 32, none twice; there are 32 in-flight
marks; a request handed on is of a cell below 32. Every step leaves nothing to hand on, and keeps the generation in its
range: never 0, and within 32 bits. -/
def Obligations.StepsKeepThePortAndTheGeneration : Prop :=
  ∀ s t : State, step s = .next t → (s.portOk = true → t.portOk = true) ∧
    (s.settled = true → t.settled = true) ∧ (s.generationOk = true → t.generationOk = true)

/-- Every step keeps the lists of the blocks in their bounds, and they are so after reset: the arm list, the alarm list
and its counter, the Route Set and the waiting list, the store write list (R153, R161, R162, R45, R46, R49, R174). -/
def Obligations.StepsKeepTheListsInBounds : Prop :=
  State.reset.blocks.InBounds ∧ ∀ s t : State, s.blocks.InBounds → step s = .next t → t.blocks.InBounds

/-- Under an image whose claim sets name no section or point twice, every step keeps the records showing the holds of
their owners, no section with two owners, and a signal off STOP only for one CLEARED entry (R38 to R41, R56); and they
are so after reset. -/
def Obligations.StepsKeepTheClaims : Prop :=
  (State.reset.blocks.ClaimsShown ∧ State.reset.blocks.SignalsGuarded) ∧
  ∀ s t : State, (∀ w, s.blocks.inForce = some w → w.image.Apart) → (∀ w, t.blocks.inForce = some w → w.image.Apart) →
    s.blocks.ClaimsShown → s.blocks.SignalsGuarded → step s = .next t →
    t.blocks.ClaimsShown ∧ t.blocks.SignalsGuarded

/-- HALTED is left by a hard restart alone, and SAFE stays low in it. Once held in reset, the supervisor is held until a
HARD_RESTART, with SAFE low, and no block acts (log entry 12). -/
def Obligations.HaltedAndHeldUntilAHardRestart : Prop :=
  ∀ (c : Instr) (s t : State), c ≠ .hardRestart → exec c s = .next t →
    (s.blocks.mode = .halted → t.blocks.mode = .halted ∧ t.safe = false) ∧
    (s.held = true → t.held = true ∧ t.safe = false ∧ (blockRow c = true → t = s))

/-- The machine right after a power-on hard restart with an unprogrammed store. The values of NOTICE, of the generation
and of the store are the model's (log entries 4 and 30), as is the KEY level (log entry 5).
It meets every invariant. -/
def Obligations.ResetValues : Prop :=
  let b := State.reset.blocks
  let p := State.reset.port
  b.clock = 0 ∧ b.mode = .configuring ∧ b.key = false ∧ b.inForce = none ∧ b.stored.valid = false ∧
    b.load.state = .idle ∧ b.running = none ∧ b.writes = [] ∧ b.routes = List.replicate 48 none ∧ b.waiting = [] ∧
    b.arms = [] ∧ b.alarms = [] ∧ b.overflow = false ∧ b.alarmCounter = 1 ∧
    b.busA = { position := none, urgent := [], exchange := none } ∧
    b.busB = { position := none, urgent := [], exchange := none } ∧
    p.mask = 0 ∧ p.notice = 18 ∧ p.intake = [] ∧ p.inFlight = List.replicate 32 false ∧ p.handed = none ∧
    p.strayMark = false ∧ p.generation = 2 ∧ State.reset.safe = false ∧ State.reset.pending = [] ∧
    State.reset.memoryOk = true ∧ State.reset.portOk = true ∧ State.reset.settled = true ∧
    State.reset.generationOk = true

/-- A command that acts on a block leaves the host's registers, the stray record and every byte the host writes, but for
the headers of cells in flight, and it takes nothing onto the intake list. -/
def Obligations.BlockCommandsLeaveTheHostsBytes : Prop :=
  ∀ (c : Instr) (s : State), blockRow c = true → goesOn (exec c s) (fun t =>
    t.port.mask = s.port.mask ∧ t.port.hostRead = s.port.hostRead ∧ t.port.strayMark = s.port.strayMark ∧
      t.port.stray = s.port.stray ∧ (t.port.intake = s.port.intake ∨ t.port.intake = []) ∧
      ∀ x, Exchange.mirrorRange x = false →
        (∀ cell, s.port.isInFlight cell = true → x < cellAddr cell ∨ cellAddr cell + 28 ≤ x) →
        t.port.byteAt x = s.port.byteAt x)

/-- What an event makes of the blocks stands after its follow-ups and its end, as Blocks.After says: c is what the event
makes of them, and every answer finds its cell in flight. -/
def Obligations.EventsEndKeepsTheirEffect : Prop :=
  ∀ (s : State) (p : Port) (c : Blocks), c.freeIndex = s.blocks.freeIndex →
    (∀ a ∈ c.work.answers, p.isInFlight a.cell = true) → (c.work.answers.map (·.cell)).Nodup →
    c.enterAlarms.After (s.finish p c.settle).blocks

/-! ### Registers and host accesses (11.1, 11.3) -/

/-- NOTICE_READ returns the pending marks and clears them, and the NOTICE line is then low; NOTICE_MASK_WRITE sets the
six enables; CLEAR_STRAY sets the stray mark to no; a register write with no effect has none, a CONTROL write among them
being one that carries neither request (R191). KEY_LEVEL_CHANGE sets the KEY level and latches MODE; at the level it
stands at it changes nothing. Nothing else changes. -/
def Obligations.RegistersActAlone : Prop :=
  ∀ s : State,
    goesOn (exec .noticeRead s) (fun t =>
      t = { s with port := { s.port with hostRead := .register (s.port.notice.setWidth 16), notice := 0 } } ∧
        t.port.noticeLine = false) ∧
    (∀ v : Word16, exec (.noticeMaskWrite v) s = .next { s with port := { s.port with mask := v.setWidth 6 } }) ∧
    exec .clearStray s = .next { s with port := { s.port with strayMark := false } } ∧
    (∀ (r : QuietRegister) (v : Word16), wellFormed (.registerWriteNoEffect r v) = true →
      exec (.registerWriteNoEffect r v) s = .next s) ∧
    ∀ l : Bool, exec (.keyLevelChange l) s = .next (if s.blocks.key = l then s
      else { s with
        blocks := { s.blocks with key := l }
        port := { s.port with notice := s.port.notice ||| 16 } })

/-- POST outside HALTED. A count of 1 to 32: the run's cells not yet announced join the intake list at its tail, in
order, from cell 31 back to 0, and nothing else changes. A count of 0 or above 32 offers nothing: the stray mark, the
cause BAD_RUN with the first cell, and STRAY. In HALTED a POST has no effect. -/
def Obligations.PostOffersTheRun : Prop :=
  ∀ (v : Word16) (s : State) (n : Nat), (s.blocks.mode = .halted → exec (.post v) s = .next s) ∧
    (s.blocks.mode ≠ .halted → n = v.toNat / 256 % 64 →
      (1 ≤ n → n ≤ 32 → exec (.post v) s = .next { s with port := { s.port with
        intake := s.port.intake ++ ((List.range n).map (fun i => (v.toNat % 32 + i) % 32)).filter
          (fun c => !s.port.intake.contains c) } }) ∧
      (n = 0 ∨ 32 < n → s.settled = true → goesOn (exec (.post v) s) (fun t =>
        t.port.strayMark = true ∧ t.port.stray = some { cause := .badRun, cell := v.toNat % 32 } ∧
          t.port.notice.getLsbD 5 = true ∧ t.port.intake = s.port.intake ∧
          t.blocks = { s.blocks with freeIndex := s.blocks.freeIndex + 1 } ∧
          ∀ x, Exchange.mirrorRange x = false → t.port.byteAt x = s.port.byteAt x)))

/-- A host read returns the bytes of the exchange memory and changes nothing else; a host write changes the bytes
written, in every range of the exchange memory, and no other byte and nothing else of the machine; an access that reaches
beyond 0xFFFF faults, since no such byte exists. -/
def Obligations.HostAccessesReadAndWriteTheBytes : Prop :=
  (∀ (x : HostAccess) (s : State), (accessSpan x).2 ≠ 0 → 65536 < (accessSpan x).1 + (accessSpan x).2 →
    ∃ a, 65536 ≤ a ∧ exec (.hostMemoryAccess x) s = .fault (.outsideExchangeMemory a)) ∧
  ∀ (a : Nat) (s : State),
    (∀ n, a + n ≤ 65536 → exec (.hostMemoryAccess (.read a n)) s =
      .next { s with port := { s.port with
        hostRead := .memory ((List.range n).map (fun i => s.port.byteAt (a + i))) } }) ∧
    ∀ bs : List Byte, a + bs.length ≤ 65536 →
      goesOn (exec (.hostMemoryAccess (.write a bs)) s) (fun t =>
        (∀ x, t.port.byteAt x = if a ≤ x ∧ x < a + bs.length then bs.getD (x - a) 0 else s.port.byteAt x) ∧
          t = { s with port := { s.port with hostMem := t.port.hostMem, mirrorMem := t.port.mirrorMem } })

/-! ### Cells (R187 to R189) -/

/-- TAKE_CELL takes a POSTED cell of an accepted kind at the head of the list: the request is the copy of the cell and
is handed on, the cell shows TAKEN and the clock as taken-at, it is in flight, and no other byte of the host's changes.
-/
def Obligations.TakeCellHandsTheCopyOn : Prop :=
  ∀ (cell : Nat) (rest : List Nat) (k : RequestKind) (s : State), s.asleep = false → s.settled = true →
    s.port.handed = none → s.port.intake = cell :: rest → cell < 32 → s.port.inFlight.length = 32 →
    s.port.isInFlight cell = false → s.port.byteAt (cellAddr cell) = 1 →
    RequestKind.ofCode (s.port.byteAt (cellAddr cell + 1)).toNat = some k → k.acceptedIn s.blocks.mode = true →
    goesOn (exec .takeCell s) (fun t =>
      t.port.intake = rest ∧ t.port.isInFlight cell = true ∧
        t.blocks = { s.blocks with freeIndex := s.blocks.freeIndex + 1 } ∧
        (∃ q, t.port.handed = some q ∧ q.cell = cell ∧ q.kind = k ∧ q.takenAt = s.blocks.clock ∧
          q.body = (List.range 100).map (fun i => s.port.byteAt (cellAddr cell + 28 + i)) ∧
          (k = .loadSegment → q.segment = (List.range (min 16384 (q.field 30 2))).map
            (fun i => s.port.byteAt (0x8000 + i)))) ∧
        ∀ x, Exchange.mirrorRange x = false → t.port.byteAt x =
          if x = cellAddr cell then 2
          else if cellAddr cell + 4 ≤ x ∧ x < cellAddr cell + 8 then
            (clockBytes s.blocks.clock).getD (x - (cellAddr cell + 4)) 0
          else s.port.byteAt x)

/-- TAKE_CELL answers at once a kind that is no request kind, BAD_PARAMETER with the kind, and a kind the mode does not
accept, REFUSED_MODE with the mode; the request reaches no block. Where the detail gives an unknown kind is the model's
choice (log entry 15). On a cell that is in flight, or not POSTED, the cell is not taken and its bytes are left; the
stray mark, the cause and the cell are recorded and STRAY is latched. -/
def Obligations.TakeCellRefusesOrStrays : Prop :=
  (∀ (cell : Nat) (rest : List Nat) (s : State), s.asleep = false → s.settled = true → s.port.handed = none →
    s.port.intake = cell :: rest → cell < 32 → s.port.inFlight.length = 32 → s.port.isInFlight cell = false →
    s.port.byteAt (cellAddr cell) = 1 →
    (RequestKind.ofCode (s.port.byteAt (cellAddr cell + 1)).toNat = none → goesOn (exec .takeCell s) (fun t =>
      t.answered cell .badParameter (.parameter (s.port.byteAt (cellAddr cell + 1)).toNat) ∧
        t.port.intake = rest ∧ t.port.handed = none ∧
        t.blocks = { s.blocks with freeIndex := s.blocks.freeIndex + 1 })) ∧
    ∀ k, RequestKind.ofCode (s.port.byteAt (cellAddr cell + 1)).toNat = some k →
      k.acceptedIn s.blocks.mode = false → goesOn (exec .takeCell s) (fun t =>
        t.answered cell .refusedMode (.mode s.blocks.mode) ∧ t.port.intake = rest ∧ t.port.handed = none ∧
          t.blocks = { s.blocks with freeIndex := s.blocks.freeIndex + 1 })) ∧
  ∀ (cell : Nat) (rest : List Nat) (s : State), s.asleep = false → s.settled = true → s.port.handed = none →
    s.port.intake = cell :: rest → cell < 32 →
    (s.port.isInFlight cell = true ∨ s.port.byteAt (cellAddr cell) ≠ 1) → goesOn (exec .takeCell s) (fun t =>
      t.port.strayMark = true ∧
        t.port.stray = some { cause := if s.port.isInFlight cell then .inFlight else .notPosted, cell := cell } ∧
        t.port.notice.getLsbD 5 = true ∧ t.port.intake = rest ∧ t.port.handed = none ∧
        t.port.inFlight = s.port.inFlight ∧ t.blocks = { s.blocks with freeIndex := s.blocks.freeIndex + 1 } ∧
        ∀ x, Exchange.mirrorRange x = false → t.port.byteAt x = s.port.byteAt x)

/-- An answer for a cell that is not in flight is not written, and the supervisor enters HALTED: shown for a request
whose owner answers at once (ACKNOWLEDGE_ALARM). -/
def Obligations.AnswerToAClosedCellHalts : Prop :=
  ∀ (q : Request) (s : State), s.asleep = false → s.port.handed = some q → q.kind = .acknowledgeAlarm →
    q.cell < 32 → s.port.isInFlight q.cell = false → s.blocks.work = Work.empty →
    goesOn (exec .acknowledgeAlarm s) (fun t => t.blocks.mode = .halted ∧
      ∀ i < 28, t.port.byteAt (cellAddr q.cell + i) = s.port.byteAt (cellAddr q.cell + i))

/-! ### Resets (R182, R195, R196) -/

/-- HARD_RESTART in any state: the port and the blocks as after a hard restart; KEY stands. A stored image whose mark and
CRC hold is in force, with every record set up from it and the persistent section (R19, R27, R32, R108, R124, R129, R146,
R147); else none is. The alarm list holds TOKEN_DISAGREEMENT for every line BLOCKED, and nothing else (R129, R169). -/
def Obligations.HardRestartStartsAnew : Prop :=
  ∀ s : State, goesOn (exec .hardRestart s) (fun t =>
    t.held = false ∧ t.blocks.key = s.blocks.key ∧ t.blocks.clock = 0 ∧ t.blocks.mode ≠ .halted ∧
      t.blocks.load = LoadRec.empty ∧ t.blocks.running = none ∧ t.blocks.writes = [] ∧ t.blocks.waiting = [] ∧
      t.blocks.arms = [] ∧ t.blocks.routes = List.replicate 48 none ∧ t.port.mask = 0 ∧ t.port.intake = [] ∧
      t.port.inFlight = List.replicate 32 false ∧ t.port.handed = none ∧ t.port.strayMark = false ∧
      (t.blocks.inForce = none → t.blocks.mode = .configuring) ∧
      ((∀ c, s.blocks.running ≠ some (.commit c)) → s.blocks.stored.valid = true →
        imageCrc s.blocks.stored.bytes = imageCrcField s.blocks.stored.bytes →
        t.blocks.inForce = some (WorkingCopy.ofBytes s.blocks.stored.bytes) ∧
          t.blocks.Restored (WorkingCopy.ofBytes s.blocks.stored.bytes).image s.blocks.persistent ∧
          (t.blocks.mode = .observing ∨ t.blocks.mode = .service)) ∧
      ((∃ c, s.blocks.running = some (.commit c)) ∨ s.blocks.stored.valid = false ∨
          imageCrc s.blocks.stored.bytes ≠ imageCrcField s.blocks.stored.bytes →
        t.blocks.inForce = none ∧ t.blocks.stored.valid = false) ∧
      (∀ a ∈ t.blocks.alarms, a.kind = .tokenDisagreement ∧ a.state = .standing ∧
        ∃ n l, a.element = .line n ∧ t.blocks.lineRec n = some l ∧ l.token = some .blocked) ∧
      (∀ n l, t.blocks.lineRec n = some l → l.token = some .blocked →
        ∃ a ∈ t.blocks.alarms, a.kind = .tokenDisagreement ∧ a.element = .line n) ∧
      t.blocks.overflow = false ∧
      (∀ x, 0x200 ≤ x ∧ x < 0x1200 ∨ 0x8000 ≤ x ∧ x < 0xC000 → t.port.byteAt x = 0) ∧
      t.pending = s.pending)

/-- RESTART outside HALTED: every open cell is answered RESTARTED with the clock before the restart, one in flight or
one announced and POSTED that was never taken, whose taken-at is then the answer time; every other cell is left. The
intake list is empty, and the blocks start anew with the arm list, the waiting list and the Route Set empty; under a
stored image whose mark and CRC hold every record is set up from it and the persistent section. The alarm list stays,
with no ACCEPTED entry and every STANDING one LAPSED at 0 (R169), but that TOKEN_DISAGREEMENT is raised for a line that
is BLOCKED (R129). In HALTED, or while held in reset, RESTART has no effect; while held in reset that is the model's
choice (log entries 2 and 12). -/
def Obligations.SoftRestartAnswersEveryOpenCell : Prop :=
  ∀ s : State, (s.asleep = true → exec .restart s = .next s) ∧
    (s.asleep = false → s.port.inFlight.length = 32 → goesOn (exec .restart s) (fun t =>
      t.port.intake = [] ∧ t.port.handed = none ∧ (∀ cell, t.port.isInFlight cell = false) ∧
        (∀ cell, cell < 32 → s.port.isInFlight cell = true ∨
            (cell ∈ s.port.intake ∧ s.port.byteAt (cellAddr cell) = 1) → t.port.byteAt (cellAddr cell) = 3 ∧
          t.port.byteAt (cellAddr cell + 2) = byte CellOutcome.restarted.code ∧
          (∀ i < 4, t.port.byteAt (cellAddr cell + 8 + i) = (clockBytes s.blocks.clock).getD i 0) ∧
          (s.port.isInFlight cell = false →
            ∀ i < 4, t.port.byteAt (cellAddr cell + 4 + i) = (clockBytes s.blocks.clock).getD i 0)) ∧
        (∀ cell, cell < 32 → s.port.isInFlight cell = false →
          cell ∉ s.port.intake ∨ s.port.byteAt (cellAddr cell) ≠ 1 →
          ∀ i < 128, t.port.byteAt (cellAddr cell + i) = s.port.byteAt (cellAddr cell + i)) ∧
        t.blocks.clock = 0 ∧ t.blocks.waiting = [] ∧ t.blocks.arms = [] ∧
        t.blocks.routes = List.replicate 48 none ∧ t.blocks.writes = [] ∧ t.blocks.running = none ∧
        t.blocks.key = s.blocks.key ∧ t.port.mask = s.port.mask ∧
        ((∀ c, s.blocks.running ≠ some (.commit c)) → s.blocks.stored.valid = true →
          imageCrc s.blocks.stored.bytes = imageCrcField s.blocks.stored.bytes →
          t.blocks.inForce = some (WorkingCopy.ofBytes s.blocks.stored.bytes) ∧
            t.blocks.Restored (WorkingCopy.ofBytes s.blocks.stored.bytes).image s.blocks.persistent) ∧
        ((∃ c, s.blocks.running = some (.commit c)) ∨ s.blocks.stored.valid = false ∨
            imageCrc s.blocks.stored.bytes ≠ imageCrcField s.blocks.stored.bytes →
          t.blocks.inForce = none ∧ t.blocks.stored.valid = false) ∧
        ((∀ n l, t.blocks.lineRec n = some l → l.token ≠ some .blocked) →
          t.blocks.alarms = (s.blocks.alarms.filter (fun a => a.state ≠ .accepted)).map (fun a =>
              if a.state = .standing then { a with state := .lapsed, changedAt := 0 } else a) ∧
            t.blocks.alarmCounter = s.blocks.alarmCounter) ∧
        (∀ n l, t.blocks.lineRec n = some l → l.token = some .blocked →
          ∃ a ∈ t.blocks.alarms, a.kind = .tokenDisagreement ∧ a.element = .line n ∧ a.state = .standing) ∧
        t.blocks.overflow = s.blocks.overflow))

/-- RESET_ASSERTED holds the supervisor: store writes and outstanding exchanges are lost, SAFE is low, and MODE is
latched if SAFE was high. While it is held already, RESET_ASSERTED changes nothing (the model's choice, log entry 2). -/
def Obligations.ResetAssertedHolds : Prop :=
  ∀ s : State, goesOn (exec .resetAsserted s) (fun t =>
    t.held = true ∧ t.safe = false ∧
      (s.held = true → t = s) ∧
      (s.held = false → t.blocks.running = none ∧ t.blocks.writes = [] ∧ t.blocks.busA.exchange = none ∧
        t.blocks.busB.exchange = none ∧ t.blocks.mode = s.blocks.mode ∧ t.port.hostMem = s.port.hostMem ∧
        t.port.mirrorMem = s.port.mirrorMem ∧ t.port.intake = s.port.intake ∧
        t.port.notice = if s.safe then s.port.notice ||| 16 else s.port.notice))

/-! ### Requests of the restriction unit (R144 to R151) -/

/-- APPLY REMINDER and REMOVE REMINDER: a bad element kind or number; the mark set and DONE; the mark cleared and DONE;
NOT_FOUND where it is no. How the detail gives the offset of a bad parameter is the model's choice (log entry 15). -/
def Obligations.RemindersAreSetAndCleared : Prop :=
  ∀ (q : Request) (s : State),
    (∀ o, s.blocks.elementOperand q = .error o →
      (s.serving .applyReminder q → goesOn (exec .applyReminder s) (fun t =>
        t.answered q.cell .badParameter (.parameter o) ∧ s.blocks.After t.blocks)) ∧
      (s.serving .removeReminder q → goesOn (exec .removeReminder s) (fun t =>
        t.answered q.cell .badParameter (.parameter o) ∧ s.blocks.After t.blocks))) ∧
    ∀ e, s.blocks.elementOperand q = .ok e → s.blocks.recorded e →
      (s.serving .applyReminder q → goesOn (exec .applyReminder s) (fun t =>
        t.answered q.cell .done .none ∧ t.blocks.reminderOf e = true ∧
          (s.blocks.setReminder e true).After t.blocks)) ∧
      (s.serving .removeReminder q → s.blocks.reminderOf e = true → goesOn (exec .removeReminder s) (fun t =>
        t.answered q.cell .done .none ∧ t.blocks.reminderOf e = false ∧
          (s.blocks.setReminder e false).After t.blocks)) ∧
      (s.serving .removeReminder q → s.blocks.reminderOf e = false → goesOn (exec .removeReminder s) (fun t =>
        t.answered q.cell .notFound .none ∧ s.blocks.After t.blocks))

/-- APPLY STANDING RESTRICTION: a mark that is yes already is answered DONE at once; else the mark is yes at once and its
write joins the list, the cell staying open; with the list full the request is answered STORE_FAULT, and the mark stays
yes. How the detail gives the offset of a bad parameter is the model's choice (log entry 15). -/
def Obligations.StandingRestrictionHoldsBeforeItsWrite : Prop :=
  ∀ (q : Request) (s : State), s.serving .applyStanding q →
    (∀ o, s.blocks.elementOperand q = .error o → goesOn (exec .applyStandingRestriction s) (fun t =>
      t.answered q.cell .badParameter (.parameter o) ∧ s.blocks.After t.blocks)) ∧
    ∀ e, s.blocks.elementOperand q = .ok e → s.blocks.recorded e →
      (s.blocks.standingOf e = true → goesOn (exec .applyStandingRestriction s) (fun t =>
        t.answered q.cell .done .none ∧ s.blocks.After t.blocks)) ∧
      (s.blocks.standingOf e = false → s.blocks.writes.length < 32 → goesOn (exec .applyStandingRestriction s) (fun t =>
        t.blocks.standingOf e = true ∧
          ((s.blocks.setStanding e true).withWrite (.record (.standing e true) (doneAfterWrite q.cell))).After t.blocks ∧
          (s.blocks.quiet → t.port.inFlight = s.port.inFlight))) ∧
      (s.blocks.standingOf e = false → 32 ≤ s.blocks.writes.length → goesOn (exec .applyStandingRestriction s) (fun t =>
        t.answered q.cell .storeFault .none ∧ t.blocks.standingOf e = true ∧
          ((s.blocks.setStanding e true).enterRaise .storeFault .device s.blocks.clock).After t.blocks))

/-- GRANT POSSESSION by the parameters, the record's state and the claim set: a refused set names the first unavailable
element; an applied set makes the record GRANTED with the reference and 5 attempts, and queues its write. The offsets of
bad parameters and the detail of ACTIVE (form 1, the area, reason 0) are the model's choice (log entry 15). -/
def Obligations.PossessionIsGranted : Prop :=
  ∀ (q : Request) (s : State) (n ref : Nat), s.serving .grantPossession q → n = q.field 28 1 → ref = q.field 30 2 →
    (s.blocks.areas.length ≤ n → goesOn (exec .grantPossession s) (fun t =>
      t.answered q.cell .badParameter (.parameter 28) ∧ s.blocks.After t.blocks)) ∧
    ∀ r, s.blocks.areas[n]? = some r →
      (ref = 0 → goesOn (exec .grantPossession s) (fun t =>
        t.answered q.cell .badParameter (.parameter 30) ∧ s.blocks.After t.blocks)) ∧
      (ref ≠ 0 → r.state = .granted → goesOn (exec .grantPossession s) (fun t =>
        t.answered q.cell .active (.element (.area n) .none 0) ∧ s.blocks.After t.blocks)) ∧
      (ref ≠ 0 → r.state = .barred → goesOn (exec .grantPossession s) (fun t =>
        t.answered q.cell .barred .none ∧ s.blocks.After t.blocks)) ∧
      (∀ f, ref ≠ 0 → r.state = .free →
        s.blocks.checkClaim ((s.blocks.possessionHolds n).map Hold.item) = some f →
        goesOn (exec .grantPossession s) (fun t => t.answered q.cell .conflict f.detail ∧ s.blocks.After t.blocks)) ∧
      (ref ≠ 0 → r.state = .free → s.blocks.checkClaim ((s.blocks.possessionHolds n).map Hold.item) = none →
        goesOn (exec .grantPossession s) (fun t =>
          t.blocks.areas[n]? = some
            { state := .granted, reference := some ref, attempts := 5, grantedAt := some s.blocks.clock } ∧
          t = s.served (((s.blocks.applyClaim (.area n) ((s.blocks.possessionHolds n).map Hold.item)).updArea n
            (fun _ => { state := .granted, reference := some ref, attempts := 5
                        grantedAt := some s.blocks.clock })).queueRecord
            (.possession n { state := .granted, reference := some ref, attempts := 5 }) (doneAfterWrite q.cell))))

/-- LIFT POSSESSION: NOT_FOUND, BARRED; a wrong reference takes an attempt, the last one bars the record, and the write
queued is to answer MISMATCH with the attempts left, or with the write list full the request is answered STORE_FAULT; the
right one gives back the holds, makes every COUNTED section of the area DISTURBED, with no other section's occupancy
changed, frees the record and queues its write. The offset of a bad parameter, and byte 17 of the MISMATCH detail, are
the model's choices (log entry 15). -/
def Obligations.PossessionIsLifted : Prop :=
  ∀ (q : Request) (s : State) (n : Nat), s.serving .liftPossession q → n = q.field 28 1 →
    (s.blocks.areas.length ≤ n → goesOn (exec .liftPossession s) (fun t =>
      t.answered q.cell .badParameter (.parameter 28) ∧ s.blocks.After t.blocks)) ∧
    ∀ r, s.blocks.areas[n]? = some r →
      (r.state = .free → goesOn (exec .liftPossession s) (fun t =>
        t.answered q.cell .notFound .none ∧ s.blocks.After t.blocks)) ∧
      (r.state = .barred → goesOn (exec .liftPossession s) (fun t =>
        t.answered q.cell .barred .none ∧ s.blocks.After t.blocks)) ∧
      (∀ v : PossessionRec, r.state = .granted → r.reference ≠ some (q.field 30 2) → v = { r with
          attempts := r.attempts - 1, state := if r.attempts - 1 = 0 then .barred else .granted } →
        (s.blocks.writes.length < 32 → goesOn (exec .liftPossession s) (fun t =>
          t.blocks.areas[n]? = some v ∧
            ((s.blocks.updArea n (fun _ => v)).withWrite (.record (.possession n v.stored)
              (.answer { cell := q.cell, outcome := .mismatch, detail := .count (r.attempts - 1) false }))).After
                t.blocks)) ∧
        (32 ≤ s.blocks.writes.length → goesOn (exec .liftPossession s) (fun t =>
          t.answered q.cell .storeFault .none ∧ t.blocks.areas[n]? = some v ∧
            ((s.blocks.updArea n (fun _ => v)).enterRaise .storeFault .device s.blocks.clock).After t.blocks))) ∧
      (r.state = .granted → r.reference = some (q.field 30 2) → goesOn (exec .liftPossession s) (fun t =>
        (∀ a, s.blocks.areaEntry n = some a → t = s.served ((((a.sections.filter (fun k =>
            (s.blocks.sectionEntry k).any (fun e => e.kind = .counted))).foldl
              (fun b k => (b.setOccupancy k .disturbed s.blocks.clock none).updSection k (fun x =>
                { x with identity := none, confirm := none }))
              (s.blocks.release (.area n) (s.blocks.possessionHolds n))).updArea n (fun _ =>
                { state := .free, reference := none, attempts := 0, grantedAt := none })).queueRecord
            (.possession n { state := .free, reference := none, attempts := 0 }) (doneAfterWrite q.cell))) ∧
          t.blocks.areas[n]? = some PossessionRec.free ∧
          ∀ k, t.blocks.occupancy k =
            if (s.blocks.areaEntry n).any (fun a => a.sections.contains k) ∧
                (s.blocks.sectionEntry k).any (fun e => e.kind = .counted) then
              (s.blocks.occupancy k).map (fun _ => .disturbed)
            else s.blocks.occupancy k))

/-! ### The arm list and the qualified operations (R154 to R159) -/

/-- ARM: BAD_PARAMETER for an operation that is none of the six, a target not of its kind, or a number that names nothing
(a border line is also fitted); ARM_FULL with 4 entries; DUPLICATE where an entry has the target; else the entry is
appended with the present time, and the ARM is DONE, whatever the operation's preconditions. -/
def Obligations.ArmAppendsAnEntry : Prop :=
  ∀ (q : Request) (s : State), s.serving .arm q →
    ((∀ op k, Operation.ofCode (q.field 28 1) = some op → Kind.ofCode (q.field 29 1) = some k → op.targetOk k = true →
        s.blocks.count k ≤ q.field 30 2 ∨ (k = .line ∧ s.blocks.lineEntry (q.field 30 2) = none)) →
      goesOn (exec .arm s) (fun t => (∃ o, t.answered q.cell .badParameter (.parameter o)) ∧
        s.blocks.After t.blocks)) ∧
    ∀ op e, Operation.ofCode (q.field 28 1) = some op → Kind.ofCode (q.field 29 1) = some e.kind →
      e.number = q.field 30 2 → op.targetOk e.kind = true → e.number < s.blocks.count e.kind →
      (e.kind = .line → s.blocks.lineEntry e.number ≠ none) →
      (4 ≤ s.blocks.arms.length → goesOn (exec .arm s) (fun t =>
        t.answered q.cell .armFull .none ∧ s.blocks.After t.blocks)) ∧
      (s.blocks.arms.length < 4 → (∃ a ∈ s.blocks.arms, a.target = e) → goesOn (exec .arm s) (fun t =>
        t.answered q.cell .duplicate .none ∧ s.blocks.After t.blocks)) ∧
      (s.blocks.arms.length < 4 → (∀ a ∈ s.blocks.arms, a.target ≠ e) → goesOn (exec .arm s) (fun t =>
        t.answered q.cell .done .none ∧ Blocks.After { s.blocks with
          arms := s.blocks.arms ++ [{ operation := op, target := e, armTime := s.blocks.clock }] } t.blocks))

/-- EXECUTE: bad parameters leave the list; no entry of the operation and target is NOT_ARMED; an entry younger than
3,000 ms is removed and the EXECUTE is TOO_EARLY; one of 3,000 to 30,000 ms is removed and the operation taken up. A
code that is no operation is answered by whichever row takes it, and the details give offsets in the cell (the model's
choices, log entries 8 and 15). -/
def Obligations.ExecuteMatchesAnArmedEntry : Prop :=
  ∀ (op : Operation) (q : Request) (s : State), s.serving .execute q →
    (Operation.ofCode (q.field 28 1) = none → goesOn (exec (executeRow op) s) (fun t =>
      t.answered q.cell .badParameter (.parameter 28) ∧ s.blocks.After t.blocks)) ∧
    (Operation.ofCode (q.field 28 1) = some op →
      (∀ o, s.blocks.qualifiedOperand q = .error o → goesOn (exec (executeRow op) s) (fun t =>
        t.answered q.cell .badParameter (.parameter o) ∧ s.blocks.After t.blocks)) ∧
      ∀ e, s.blocks.qualifiedOperand q = .ok (op, e) →
        ((∀ a ∈ s.blocks.arms, ¬ (a.operation = op ∧ a.target = e)) → goesOn (exec (executeRow op) s) (fun t =>
          t.answered q.cell .notArmed .none ∧ s.blocks.After t.blocks)) ∧
        ∀ a, s.blocks.armed op e = some a →
          (Clock.age s.blocks.clock a.armTime < 3000 → goesOn (exec (executeRow op) s) (fun t =>
            t.answered q.cell .tooEarly .none ∧ (s.blocks.disarm a).After t.blocks)) ∧
          (3000 ≤ Clock.age s.blocks.clock a.armTime → Clock.age s.blocks.clock a.armTime ≤ 30000 →
            goesOn (exec (executeRow op) s) (fun t => t.blocks.arms = (s.blocks.disarm a).arms)))

/-- RESTORE SECTION with its entry armed: the four preconditions in order (the owner's detail by log entry 15); then the
section is RESTORING from now, its SECTION_DISTURBED condition ends, and the EXECUTE is DONE. -/
def Obligations.RestoreSectionRestores : Prop :=
  ∀ (q : Request) (s : State) (e : Element) (a : ArmRec) (k : SectionEntry) (r : SectionRec),
    s.executing .restoreSection q e a → s.blocks.sectionEntry e.number = some k →
    s.blocks.sectionRec e.number = some r →
    (k.kind ≠ .counted →
      s.serves .restoreSection q (s.blocks.disarm a) .conflict (.precondition .notCounted)) ∧
    (k.kind = .counted → r.occupancy ≠ .disturbed →
      s.serves .restoreSection q (s.blocks.disarm a) .conflict (.precondition .notDisturbed)) ∧
    (k.kind = .counted → r.occupancy = .disturbed → r.owner ≠ .free → (∀ n, r.owner ≠ .reception n) →
      s.serves .restoreSection q (s.blocks.disarm a) .conflict (.element e .owned r.owner.code)) ∧
    (k.kind = .counted → r.occupancy = .disturbed → (r.owner = .free ∨ ∃ n, r.owner = .reception n) →
      (s.blocks.unitTrusted k.unit = false →
        s.serves .restoreSection q (s.blocks.disarm a) .conflict (.precondition .unitNotActive)) ∧
      (s.blocks.unitTrusted k.unit = true →
        exec .restoreSection s = .next (s.served
          (((s.blocks.disarm a).setOccupancy e.number .restoring s.blocks.clock none).answer q.cell .done .none)) ∧
        goesOn (exec .restoreSection s) (fun t =>
          t.answered q.cell .done .none ∧ t.blocks.occupancy e.number = some .restoring ∧
            (((s.blocks.disarm a).withSection e.number
                { r with occupancy := .restoring, changedAt := s.blocks.clock, confirm := none }).enterEnd
              .sectionDisturbed (.sec e.number) s.blocks.clock).After t.blocks)))

/-- EMERGENCY RELEASE with its entry armed: NOT_FOUND, CONFLICT with the state, TIMING with the running timer; else the
entry signal is commanded STOP while the entry has it, the entry is EMERGENCY with a timer of at least 120 s, an open
cell is WITHDRAWN, and the EXECUTE is DONE. The release time beside the expiry in the TIMING detail is the model's choice
(log entry 15). -/
def Obligations.EmergencyReleaseStarts : Prop :=
  ∀ (q : Request) (s : State) (e : Element) (a : ArmRec), s.executing .emergencyRelease q e a →
    (s.blocks.slotOf e.number = none → goesOn (exec .emergencyRelease s) (fun t =>
      t.answered q.cell .notFound .none ∧ (s.blocks.disarm a).After t.blocks)) ∧
    ∀ slot k r, s.blocks.slotOf e.number = some slot → s.blocks.entryAt slot = some (k, r) →
      (r.state = .setting ∨ r.state = .locked ∨ r.state = .cleared → goesOn (exec .emergencyRelease s) (fun t =>
        t.answered q.cell .conflict (.routePlace 1 slot r.state.code) ∧ (s.blocks.disarm a).After t.blocks)) ∧
      (∀ m, r.state = .emergency → r.timer = some m → goesOn (exec .emergencyRelease s) (fun t =>
        t.answered q.cell .timing (.timer (max k.release 120) m.expiry) ∧ (s.blocks.disarm a).After t.blocks)) ∧
      (r.state = .held ∨ r.state = .stalled ∨ r.state = .cancelling ∨ r.state = .passing →
        ∀ c, c = (if r.released = 0 then (s.blocks.disarm a).commandSignal slot k.entry .stop
            else s.blocks.disarm a) →
          exec .emergencyRelease s = .next (s.served
            (((c.updRoute slot (fun r => { r with
                state := .emergency
                timer := some { kind := .emergency,
                                expiry := Clock.after s.blocks.clock (1000 * max k.release 120) }
                cell := none })).answerOpt r.cell .withdrawn .none).answer q.cell .done .none)))

/-- REMOVE STANDING with its entry armed: NOT_FOUND where the mark is no; else the mark is no at once and its write joins
the list. FORCE LIFT: NOT_FOUND on a FREE record; else the lift of a matching reference. -/
def Obligations.MarksAndPossessionsAreForced : Prop :=
  ∀ (q : Request) (s : State) (e : Element) (a : ArmRec),
    (s.executing .removeStanding q e a →
      (s.blocks.standingOf e = false → goesOn (exec .removeStanding s) (fun t =>
        t.answered q.cell .notFound .none ∧ (s.blocks.disarm a).After t.blocks)) ∧
      (s.blocks.standingOf e = true → s.blocks.writes.length < 32 → goesOn (exec .removeStanding s) (fun t =>
        t.blocks.standingOf e = false ∧
          (((s.blocks.disarm a).setStanding e false).withWrite (.record (.standing e false)
            (doneAfterWrite q.cell))).After t.blocks))) ∧
    ∀ r, s.executing .forceLift q e a → s.blocks.areas[e.number]? = some r →
      (r.state = .free → goesOn (exec .forceLift s) (fun t =>
        t.answered q.cell .notFound .none ∧ (s.blocks.disarm a).After t.blocks)) ∧
      (r.state ≠ .free → goesOn (exec .forceLift s) (fun t =>
        t = s.served ((s.blocks.disarm a).lift e.number q.cell) ∧
          t.blocks.areas[e.number]? = some PossessionRec.free))

/-- TOKEN RESTORE with its entry armed: the four preconditions in order; then the token is HELD, its write joins the
list, the TOKEN_DISAGREEMENT condition ends, and the waiting list is examined. -/
def Obligations.TokenRestoreRestores : Prop :=
  ∀ (q : Request) (s : State) (e : Element) (a : ArmRec) (k : LineEntry) (l : LineRec),
    s.executing .tokenRestore q e a → s.blocks.lineEntry e.number = some k → s.blocks.lineRec e.number = some l →
    (l.token ≠ some .blocked →
      s.serves .tokenRestore q (s.blocks.disarm a) .conflict (.precondition .notBlocked)) ∧
    (l.token = some .blocked → s.blocks.linkUp (e.number / 4) = false →
      s.serves .tokenRestore q (s.blocks.disarm a) .conflict (.precondition .linkNotUp)) ∧
    (l.token = some .blocked → s.blocks.linkUp (e.number / 4) = true →
      ((∀ v, l.view = some v → v.token ≠ .notHeld) →
        s.serves .tokenRestore q (s.blocks.disarm a) .conflict (.precondition .neighbourView)) ∧
      ∀ v, l.view = some v → v.token = .notHeld →
        (s.blocks.occupancy k.border ≠ some .clear →
          s.serves .tokenRestore q (s.blocks.disarm a) .conflict (.precondition .sectionNotClear)) ∧
        (s.blocks.occupancy k.border = some .clear →
          exec .tokenRestore s = .next (s.served
            ((((s.blocks.disarm a).setToken e.number .held (doneAfterWrite q.cell)).endAlarm .tokenDisagreement
              (.line e.number) s.blocks.clock).noticeTokenHeld)) ∧
          (s.blocks.writes.length < 32 → goesOn (exec .tokenRestore s) (fun t =>
            (t.blocks.lineRec e.number).map (·.token) = some (some .held) ∧
              (((((s.blocks.disarm a).withLine e.number { l with token := some .held }).withWrite
                (.record (.token e.number .held) (doneAfterWrite q.cell))).enterEnd .tokenDisagreement
                (.line e.number) s.blocks.clock).noticeTokenHeld).After t.blocks))))

/-- RECEPTION RELEASE with its entry armed: NOT_FOUND without a reception; the three preconditions in order; then one
release set gives back what the reception still holds, the record becomes none, and the EXECUTE is DONE. -/
def Obligations.ReceptionReleaseReleases : Prop :=
  ∀ (q : Request) (s : State) (e : Element) (a : ArmRec) (k : LineEntry) (l : LineRec),
    s.executing .receptionRelease q e a → s.blocks.lineEntry e.number = some k →
    s.blocks.lineRec e.number = some l →
    (l.reception = none → s.serves .receptionRelease q (s.blocks.disarm a) .notFound .none) ∧
    ∀ r, l.reception = some r →
      (s.blocks.linkUp (e.number / 4) = true →
        s.serves .receptionRelease q (s.blocks.disarm a) .conflict (.precondition .linkNotDown)) ∧
      (s.blocks.linkUp (e.number / 4) = false →
        (r.released ≠ 0 ∨ (∃ n ∈ k.recSections, s.blocks.isPassed n = true) →
          s.serves .receptionRelease q (s.blocks.disarm a) .conflict (.precondition .receptionEntered)) ∧
        (r.released = 0 → (∀ n ∈ k.recSections, s.blocks.isPassed n = false) →
          ((∃ n ∈ k.recSections, s.blocks.occupancy n = some .occupied ∨ s.blocks.occupancy n = some .clearing) →
            s.serves .receptionRelease q (s.blocks.disarm a) .conflict (.precondition .sectionNotClear)) ∧
          ((∀ n ∈ k.recSections, s.blocks.occupancy n ≠ some .occupied ∧ s.blocks.occupancy n ≠ some .clearing) →
            s.serves .receptionRelease q (((s.blocks.disarm a).release (.line e.number)
              ((s.blocks.disarm a).receptionHolds k e.number 0)).endReception e.number) .done .none)))

/-! ### Claim sets (R39, R40) -/

/-- A claim set is applied whole when every item is available, and otherwise changes nothing and names the first
unavailable one; what makes each kind of item unavailable, in order, is the table of R39. Applied, it enters its holds
in its owner's list; each of its sections has the owner asked for, no passage mark and the identity carried; the counts
of its points and signals rise by its items, and its points have the claimed position. A release set gives back exactly
its items, every one of them its owner's: sections without owner and mark, a CLEAR one without identity; counts fallen;
a point with no claim left without claimed position; a signal with no entry claim commanded STOP. Where an item is no
hold of the owner, nothing is applied and the supervisor enters HALTED at the event's end. -/
def Obligations.ClaimSetsAreAppliedWhole : Prop :=
  (∀ (b : Blocks) (c : Claimant) (items : List ClaimItem),
    (∀ f, b.claim c items = .error f ↔ ∃ before i after, items = before ++ i :: after ∧
      (∀ x ∈ before, b.unavailable x = none) ∧ b.unavailable i = some f) ∧
    ∀ d, b.claim c items = .ok d → (∀ i ∈ items, b.unavailable i = none) ∧
      d.holds = b.holds ++ items.map (fun i => { claimant := c, hold := i.hold }) ∧
      (∀ n owner, (∃ i ∈ items, i.hold = .sec n owner) →
        (∀ i ∈ items, ∀ o, i.hold = .sec n o → o = owner) → (∃ r, d.sectionRec n = some r ∧ r.owner = owner ∧
          r.passage = false ∧ (b.sectionRec n).map (·.occupancy) = some r.occupancy)) ∧
      (∀ n, (∀ i ∈ items, ∀ o, i.hold ≠ .sec n o) → d.sectionRec n = b.sectionRec n) ∧
      (∀ n r, b.sectionRec n = some r → ∀ i ∈ items, ∀ o, i.hold = .sec n o →
        (∀ j ∈ items, ∀ x, j.hold = .sec n x → j = i) → d.sectionRec n = some
          { r with owner := o, passage := false, identity := i.identity.or r.identity }) ∧
      (∀ n p, b.pointRec n = some p → ∃ v, d.pointRec n = some v ∧
        v.pathCount = p.pathCount + items.countP (fun i => i.hold.ofPoint n .path) ∧
        v.overlapCount = p.overlapCount + items.countP (fun i => i.hold.ofPoint n .overlap) ∧
        v.flankCount = p.flankCount + items.countP (fun i => i.hold.ofPoint n .flank) ∧
        (∀ x, (∃ i ∈ items, ∃ k, i.hold = .point n k x) → (∀ i ∈ items, ∀ k y, i.hold = .point n k y → y = x) →
          v.claimed = some x) ∧
        ((∀ i ∈ items, ∀ k x, i.hold ≠ .point n k x) → v.claimed = p.claimed) ∧
        (v.possessed = true ↔ p.possessed = true ∨ ∃ i ∈ items, i.hold = .pointPossession n) ∧
        v.reminder = p.reminder ∧ v.standing = p.standing ∧ v.detection = p.detection) ∧
      ∀ n r, b.signalRec n = some r → ∃ v, d.signalRec n = some v ∧
        v.flankCount = r.flankCount + items.countP (fun i => i.hold = .signalFlank n) ∧
        v.possessionCount = r.possessionCount + items.countP (fun i => i.hold = .signalPossession n) ∧
        (∀ x, (∃ i ∈ items, i.hold = .signalEntry n x) → (∀ i ∈ items, ∀ y, i.hold = .signalEntry n y → y = x) →
          v.owningSlot = some x) ∧
        ((∀ i ∈ items, ∀ x, i.hold ≠ .signalEntry n x) → v.owningSlot = r.owningSlot) ∧
        v.commanded = r.commanded ∧ v.shown = r.shown ∧ v.proved = r.proved) ∧
  (∀ (b : Blocks) (n : Nat) (c : OccupancyCondition) (x : Option Identity),
    (∀ r o, b.sectionRec n = some r →
      b.unavailable { hold := .sec n o, condition := c, identity := x } = Option.map (Finding.mk' (.sec n))
        (if o.isPossession then (if r.owner = .free then none else some .owned)
         else if r.owner.isPossession then some .possessed
         else if r.owner ≠ .free then some .owned
         else if (r.reminder || r.standing) && !o.isOverlap then some .restricted
         else if c = .any ∨ r.occupancy = .clear ∨ (c = .sweep ∧ r.occupancy = .restoring) then none
         else if r.occupancy = .occupied ∨ r.occupancy = .clearing then some .occupied
         else some .disturbed)) ∧
    (∀ p e k pos, b.pointRec n = some p → b.pointEntry n = some e →
      b.unavailable { hold := .point n k pos, condition := c, identity := x } = Option.map (Finding.mk' (.point n))
        (if p.possessed = true then some .possessed
         else if p.claimed ≠ none ∧ p.claimed ≠ some pos then some .oppositePosition
         else if k = .flank ∧ 8 ≤ p.flankCount then some .owned
         else if p.ref = some pos ∧ (p.state = .atRest ∨ p.state = .moving) then none
         else if p.reminder = true ∨ p.standing = true then some .restricted
         else if b.occupancy e.sec = some .occupied ∨ b.occupancy e.sec = some .clearing then some .occupied
         else if b.occupancy e.sec = some .disturbed then some .disturbed
         else none)) ∧
    (∀ p, b.pointRec n = some p →
      b.unavailable { hold := .pointPossession n, condition := c, identity := x } = Option.map (Finding.mk' (.point n))
        (if p.pathCount + p.overlapCount + p.flankCount = 0 then none else some .owned)) ∧
    ∀ r, b.signalRec n = some r →
      (∀ k, b.unavailable { hold := .signalEntry n k, condition := c, identity := x } =
        Option.map (Finding.mk' (.signal n))
          (if 0 < r.possessionCount then some .possessed
           else if r.owningSlot ≠ none ∨ 0 < r.flankCount then some .owned
           else if r.reminder = true ∨ r.standing = true then some .restricted
           else none)) ∧
      b.unavailable { hold := .signalFlank n, condition := c, identity := x } = Option.map (Finding.mk' (.signal n))
        (if r.owningSlot ≠ none ∨ 8 ≤ r.flankCount then some .owned else none) ∧
      b.unavailable { hold := .signalPossession n, condition := c, identity := x } = Option.map (Finding.mk' (.signal n))
        (if r.owningSlot ≠ none then some .owned else none)) ∧
  ∀ (b : Blocks) (c : Claimant) (items : List Hold),
    (¬ b.hasHolds c items → b.release c items = b.failCheck ∧
      ∀ s : State, (s.ended (b.release c items)).blocks.mode = .halted) ∧
    (b.hasHolds c items → ∀ d, d = b.release c items →
      b.GivesBack d c items ∧ d.work.freed = true ∧
      (∀ n, d.occupancy n = b.occupancy n) ∧
      (∀ n r, b.sectionRec n = some r → d.sectionRec n = some
        (if items.any (Hold.ofSection n) then
          { r with owner := .free, passage := false, identity := if r.occupancy = .clear then none else r.identity }
         else r)) ∧
      (∀ n p, b.pointRec n = some p → ∃ v, d.pointRec n = some v ∧
        v.pathCount = p.pathCount - items.countP (Hold.ofPoint n .path) ∧
        v.overlapCount = p.overlapCount - items.countP (Hold.ofPoint n .overlap) ∧
        v.flankCount = p.flankCount - items.countP (Hold.ofPoint n .flank) ∧
        v.claimed = (if items.any (fun h => h.ofPoint n .path || h.ofPoint n .overlap || h.ofPoint n .flank) ∧
            v.pathCount + v.overlapCount + v.flankCount = 0 then none
          else p.claimed) ∧
        v.possessed = (if .pointPossession n ∈ items then false else p.possessed) ∧
        v.state = p.state ∧ v.ref = p.ref ∧ v.moveTimer = p.moveTimer ∧ v.pendingCall = p.pendingCall) ∧
      ∀ n r, b.signalRec n = some r → ∃ v, d.signalRec n = some v ∧
        v.flankCount = r.flankCount - items.countP (fun h => h = .signalFlank n) ∧
        v.possessionCount = r.possessionCount - items.countP (fun h => h = .signalPossession n) ∧
        v.owningSlot = (if items.any (Hold.ofEntry n) then none else r.owningSlot) ∧
        v.commanded = (if items.any (Hold.ofEntry n) then .stop else r.commanded) ∧
        (v.commanded ≠ r.commanded →
          v.proved = false ∧ v.matchCount = 0 ∧ v.mismatchCount = 0 ∧ v.lampFault = false))

/-! ### SET ROUTE, CANCEL ROUTE and CALL POINTS -/

/-- SET ROUTE before the availability stage: BAD_PARAMETER; in OBSERVING ACTIVE, DEFERRED or REFUSED_MODE; in SERVICE
ACTIVE with the place of a route held or waiting, and RESTRICTED or POSSESSED from the restriction stage. A HELD route
is cleared again where every proof holds, with its passage marks no and the request's cell, and else keeps its place
with the first unmet proof. A STALLED route is driven again, point by point in claim set order, and is SETTING where
every drive started; that one refused for a section takes that section as its reason is log entry 32, and that one
refused for a drive gives DRIVE_NOT_STARTED in its detail, whatever reason the entry keeps, is log entry 15. The
restriction stage looks at the marks of the entry signal, the path sections and the path points in this order, and then
for a possession of a path section, or of every overlap choice. The offset of a bad parameter, the mode of a
REFUSED_MODE and the place of a waiting route as the detail gives them are the model's choice (log entry 15). -/
def Obligations.SetRouteAnswersByItsStages : Prop :=
  (∀ (q : Request) (s : State), s.serving .setRoute q →
    (∀ o, s.blocks.routeParameter q = some o → goesOn (exec .setRoute s) (fun t =>
      t.answered q.cell .badParameter (.parameter o) ∧ s.blocks.After t.blocks)) ∧
    (s.blocks.routeParameter q = none → s.blocks.mode ≠ .service →
      (∀ n, s.blocks.placeOf q.setRoute.route = some n → goesOn (exec .setRoute s) (fun t =>
        t.answered q.cell .active (.routePlace 2 (n + 1) 0) ∧ s.blocks.After t.blocks)) ∧
      (s.blocks.placeOf q.setRoute.route = none →
        (q.setRoute.store = 0 ∨ 16 ≤ s.blocks.waiting.length → goesOn (exec .setRoute s) (fun t =>
          t.answered q.cell .refusedMode (.mode s.blocks.mode) ∧ s.blocks.After t.blocks)) ∧
        (0 < q.setRoute.store → s.blocks.waiting.length < 16 → goesOn (exec .setRoute s) (fun t =>
          ({ s.blocks with waiting := s.blocks.waiting ++ [
              { route := q.setRoute.route, deferred := true, sweep := q.setRoute.sweep
                identity := q.setRoute.identity, storeTime := q.setRoute.store, expiry := none
                cell := q.cell }] } : Blocks).After t.blocks)))) ∧
    (s.blocks.routeParameter q = none → s.blocks.mode = .service →
      (∀ slot e r, s.blocks.slotOf q.setRoute.route = some slot → s.blocks.entryAt slot = some (e, r) →
        (r.state ≠ .held → r.state ≠ .stalled → goesOn (exec .setRoute s) (fun t =>
          t.answered q.cell .active (.routePlace 1 slot r.state.code) ∧ s.blocks.After t.blocks)) ∧
        (r.state = .held →
          (∀ f, (s.blocks.unmetProof e r).or (unmetGrant r) = some f → s.serves .setRoute q
            (s.blocks.updRoute slot (fun r => { r with reason := some f })) .conflict f.detail) ∧
          ((s.blocks.unmetProof e r).or (unmetGrant r) = none → exec .setRoute s = .next (s.served
            (((((e.path.drop r.released).foldl (fun b n => b.updSection n (fun x => { x with passage := false }))
              s.blocks).updRoute slot (fun r => { r with cell := some q.cell })).updRoute slot (fun r =>
                { r with state := .cleared })).commandSignal slot e.entry
                  (if r.sweep then .restricted else .proceed))))) ∧
        (r.state = .stalled →
          (∀ n, s.blocks.unmetSection e r = some n → s.serves .setRoute q
            (s.blocks.updRoute slot (fun r =>
              { r with reason := some { element := .sec n, reason := .sectionNotClear } })) .stalled
              (.element (.sec n) .sectionNotClear 0)) ∧
          (s.blocks.unmetSection e r = none → ∀ d, d = s.blocks.reDrives (s.blocks.claimedPoints e r) →
            (∀ n rest, d.2 = n :: rest → exec .setRoute s = .next (s.served ((d.1.updRoute slot (fun r => { r with
                reason := if r.reason.any (fun x => x.reason = .pointFailed) then r.reason
                  else some { element := .point n, reason := .driveNotStarted } })).answer q.cell .stalled
              (.element (.point n) .driveNotStarted 0)))) ∧
            (d.2 = [] → exec .setRoute s = .next (s.served
              (((e.path.drop r.released).foldl (fun b n => b.updSection n (fun x => { x with passage := false }))
                d.1).updRoute slot (fun r => { r with state := .setting, reason := none, cell := some q.cell }))))))) ∧
      (s.blocks.slotOf q.setRoute.route = none →
        (∀ n, s.blocks.placeOf q.setRoute.route = some n → goesOn (exec .setRoute s) (fun t =>
          t.answered q.cell .active (.routePlace 2 (n + 1) 0) ∧ s.blocks.After t.blocks)) ∧
        ∀ e o f, s.blocks.placeOf q.setRoute.route = none → s.blocks.routeEntry q.setRoute.route = some e →
          s.blocks.restrictionStage e = some (o, f) → goesOn (exec .setRoute s) (fun t =>
            t.answered q.cell o f.detail ∧ s.blocks.After t.blocks)))) ∧
  (∀ (b : Blocks), b.reDrives [] = (b, []) ∧ ∀ p ps,
    ((∀ v, b.pointRec p.point = some v → v.state ≠ .failed ∧ v.state ≠ .lostDetection ∧ v.state ≠ .unknown) →
      b.reDrives (p :: ps) = b.reDrives ps) ∧
    (∀ v, b.pointRec p.point = some v → v.state = .failed ∨ v.state = .lostDetection ∨ v.state = .unknown →
      b.reDrives (p :: ps) = (((b.drive p.point p.pos).1.reDrives ps).1,
        if (b.drive p.point p.pos).2 then ((b.drive p.point p.pos).1.reDrives ps).2
        else p.point :: ((b.drive p.point p.pos).1.reDrives ps).2))) ∧
  -- R50: the restriction stage
  ∀ (b : Blocks) (e : RouteEntry) (sec point signal owned : Nat → Bool),
    (∀ n, sec n = true ↔ ∃ r, b.sectionRec n = some r ∧ (r.reminder = true ∨ r.standing = true)) →
    (∀ n, point n = true ↔ ∃ p, b.pointRec n = some p ∧ (p.reminder = true ∨ p.standing = true)) →
    (∀ n, signal n = true ↔ ∃ r, b.signalRec n = some r ∧ (r.reminder = true ∨ r.standing = true)) →
    (∀ n, owned n = true ↔ ∃ r, b.sectionRec n = some r ∧ r.owner.isPossession = true) →
    (signal e.entry = true → b.restrictionStage e =
      some (.restricted, { element := .signal e.entry, reason := .restricted })) ∧
    (signal e.entry = false →
      (∀ n, e.path.find? sec = some n → b.restrictionStage e =
        some (.restricted, { element := .sec n, reason := .restricted })) ∧
      (e.path.find? sec = none →
        (∀ p, e.points.find? (fun p => point p.point) = some p → b.restrictionStage e =
          some (.restricted, { element := .point p.point, reason := .restricted })) ∧
        (e.points.find? (fun p => point p.point) = none →
          (∀ n, e.path.find? owned = some n → b.restrictionStage e =
            some (.possessed, { element := .sec n, reason := .possessed })) ∧
          (e.path.find? owned = none →
            (∀ first rest x n, e.overlaps = first :: rest → b.overlapEntry first = some x →
              x.sections.find? owned = some n →
              (∀ m ∈ rest, ∃ y, b.overlapEntry m = some y ∧ ∃ v ∈ y.sections, owned v = true) →
              b.restrictionStage e = some (.possessed, { element := .sec n, reason := .possessed })) ∧
            (e.overlaps = [] ∨ (∃ m ∈ e.overlaps, ∀ y, b.overlapEntry m = some y → ∀ v ∈ y.sections, owned v = false) →
              b.restrictionStage e = none)))))

/-- SET ROUTE at the availability stage. The claim set applied: the entry stands in the lowest free slot, SETTING, with
the request's options and cell, and its proofs are tested. Unavailable: SET_FULL or CONFLICT with store time 0, else the
request waits; a token that can be asked for is asked for, and the request waits for it (R52, R131). From then on the
entry goes by its proofs, which hold when the five of R55 do, the first that fails being named: from SETTING to LOCKED,
cleared at once or with its grant, asked for where it is NONE, or torn down where it cannot be (R57, R135); from LOCKED
back to SETTING; from CLEARED to HELD on every proof, the entry signal's unit among them (log entry 35), with another
lost proof before a lamp fault (the model's choice, log entry 13); and by the occupation of its sections: stalled,
passage, proof loss, or a signal passed at stop. What a command to the entry signal does is R33's, the overlap part of a
new entry LOCKED or CLAIMED R98's, and the line's deferred free dropped with its reference taken again R137's. -/
def Obligations.SetRouteClaimsOrWaits : Prop :=
  (∀ (q : Request) (s : State) (e : RouteEntry), s.serving .setRoute q → s.blocks.mode = .service →
    s.blocks.routeParameter q = none → s.blocks.slotOf q.setRoute.route = none →
    s.blocks.placeOf q.setRoute.route = none → s.blocks.routeEntry q.setRoute.route = some e →
    s.blocks.restrictionStage e = none →
    (∀ slot p b, s.blocks.freeSlot = some slot → s.blocks.tokenCondition e = .met →
      s.blocks.protection slot e = .ok p →
      s.blocks.claim (.slot slot) (s.blocks.routeClaim slot e q.setRoute.sweep q.setRoute.identity p) = .ok b →
      exec .setRoute s = .next (s.served (b.createEntry slot e q.setRoute.route q.setRoute.sweep q.setRoute.identity
        q.cell p))) ∧
    (∀ f, s.blocks.availability e q.setRoute.route q.setRoute.sweep q.setRoute.identity q.cell = .unavailable f →
      (q.setRoute.store = 0 → s.serves .setRoute q s.blocks (refusal f).1 (refusal f).2) ∧
      (0 < q.setRoute.store → s.blocks.waiting.length < 16 → ∀ x : Blocks, x = { s.blocks with
          waiting := s.blocks.waiting ++ [
            { route := q.setRoute.route, deferred := false, sweep := q.setRoute.sweep
              identity := q.setRoute.identity, storeTime := q.setRoute.store
              expiry := some (Clock.after q.takenAt (1000 * q.setRoute.store)), cell := q.cell }] } →
        exec .setRoute s = .next (s.served x) ∧ goesOn (exec .setRoute s) (fun t => x.After t.blocks)) ∧
      (0 < q.setRoute.store → 16 ≤ s.blocks.waiting.length → s.serves .setRoute q s.blocks .waitFull .none)) ∧
    (∀ line, s.blocks.freeSlot ≠ none → s.blocks.tokenCondition e = .askable line →
      exec .setRoute s = .next (s.served ((s.blocks.askToken line).wait
        { route := q.setRoute.route, deferred := false, sweep := q.setRoute.sweep, identity := q.setRoute.identity
          storeTime := q.setRoute.store, cell := q.cell
          expiry := some (Clock.after q.takenAt
            (if q.setRoute.store = 0 then 5000 else 1000 * q.setRoute.store)) })))) ∧
  -- R53: the entry made, and the answer to a request that cannot wait
  (∀ (b c : Blocks) (slot route cell : Nat) (e : RouteEntry) (sweep : Bool) (identity : Option Identity)
    (p : Assignment) (part : Option OverlapPart),
    (p.overlap = none → part = none) →
    (∀ n, p.overlap = some n → ∃ x, part = some { number := n, state := x, expiry := none } ∧
      (x = .locked ∨ x = .claimed) ∧ ∀ o, b.overlapEntry n = some o →
        (x = .locked ↔ ∀ q ∈ o.points, ∃ v, b.pointRec q.point = some v ∧ v.state = .atRest ∧ v.ref = some q.pos)) →
    (∀ n, p.overlap = some n → b.overlapEntry n ≠ none) →
    c = Blocks.mark { b with routes := b.routes.set slot (some
      { route := route, state := .setting, reason := none, sweep := sweep, identity := identity, cell := some cell
        released := 0, timer := none, overlap := part, flank := p.flanks
        border := match e.exit with
          | .signal _ => none
          | .line l => some { line := l, grant := .none, expiry := none } }) } (.slot slot) →
    b.createEntry slot e route sweep identity cell p = Blocks.reactEntry (match e.exit with
      | .signal _ => c
      | .line l => c.updLine l (fun x =>
          if x.deferredFree = some (BitVec.ofNat 16 route) then { x with deferredFree := none } else x)) slot) ∧
  (∀ f : Finding, refusal f = if f.reason = .setFull then (.setFull, .none)
    else (.conflict, .element f.element f.reason 0)) ∧
  (∀ (b : Blocks) (e : RouteEntry) (r : RouteRec),
    (b.unmetProof e r = none ↔
      (∀ p ∈ b.claimedPoints e r, ∃ v, b.pointRec p.point = some v ∧ v.state = .atRest ∧ v.ref = some p.pos) ∧
      (∀ n ∈ flankSignals e r, ∃ v, b.signalRec n = some v ∧ v.shown = .stop) ∧
      (∀ n ∈ b.routeUnits e, ∃ v, b.unitRec n = some v ∧ (v.state = .active ∨ v.state = .suspect)) ∧
      (∀ n ∈ e.path.drop r.released,
        b.occupancy n = some .clear ∨ (r.sweep = true ∧ b.occupancy n = some .restoring)) ∧
      ∀ o, r.overlap = some o → o.state = .locked) ∧
    (∀ p, (b.claimedPoints e r).find? (fun p => !b.restsIn p) = some p →
      b.unmetProof e r = some { element := .point p.point, reason := .pointNotProved }) ∧
    ((∀ p ∈ b.claimedPoints e r, b.restsIn p = true) →
      (∀ n, (flankSignals e r).find? (fun n => !b.showsStop n) = some n →
        b.unmetProof e r = some { element := .signal n, reason := .flankSignalNotStop }) ∧
      ((∀ n ∈ flankSignals e r, b.showsStop n = true) →
        (∀ n, (b.routeUnits e).find? (fun n => !b.unitTrusted n) = some n →
          b.unmetProof e r = some { element := .unit n, reason := .unitNotActive }) ∧
        ((∀ n ∈ b.routeUnits e, b.unitTrusted n = true) →
          (∀ n, b.unmetSection e r = some n →
            b.unmetProof e r = some { element := .sec n, reason := .sectionNotClear }) ∧
          (∀ o, b.unmetSection e r = none → r.overlap = some o → o.state ≠ .locked →
            b.unmetProof e r = some { element := .overlap o.number, reason := .overlapNotLocked }))))) ∧
  (∀ (b : Blocks) (slot : Nat) (e : RouteEntry) (r : RouteRec), b.entryAt slot = some (e, r) →
    (r.state = .setting →
      (b.unmetProof e r ≠ none → b.reactProofs slot = b) ∧
      (b.unmetProof e r = none →
        b.reactProofs slot = (b.updRoute slot (fun r => { r with state := .locked })).actLocked slot e r)) ∧
    (r.state = .locked →
      (∀ f, b.unmetProof e r = some f →
        b.reactProofs slot = b.updRoute slot (fun r => { r with state := .setting, reason := some f })) ∧
      (b.unmetProof e r = none → b.reactProofs slot = b.actLocked slot e r)) ∧
    (r.state = .cleared →
      (∀ f, (b.unmetProof e r).or (unmetGrant r) = some f → b.reactProofs slot =
        ((b.commandSignal slot e.entry .stop).updRoute slot (fun r =>
          { r with state := .held, reason := some f, cell := none })).answerOpt r.cell .conflict f.detail) ∧
      ((b.unmetProof e r).or (unmetGrant r) = none → ∀ g, b.signalRec e.entry = some g →
        (g.lampFault = true → b.reactProofs slot =
          ((b.commandSignal slot e.entry .stop).updRoute slot (fun r => { r with
            state := .held, reason := some { element := .signal e.entry, reason := .lampFault }
            cell := none })).answerOpt r.cell .lampFault .none) ∧
        (g.lampFault = false → b.reactProofs slot = b))) ∧
    (r.state ≠ .setting → r.state ≠ .locked → r.state ≠ .cleared → b.reactProofs slot = b) ∧
    (∀ c g, r.state = .cleared → r.cell = some c → b.signalRec e.entry = some g → b.reactProved slot =
      if g.proved then (b.updRoute slot (fun r => { r with cell := none })).answer c .set (.routePlace 1 slot 4)
      else b) ∧
    (∀ i o, r.released ≤ i →
      (r.state = .setting ∨ r.state = .locked ∨ r.state = .stalled → b.reactOccupation slot i o =
        ((b.raiseAlarm .unexpectedOccupation (.sec o.sec) b.clock).updRoute slot (fun r => { r with
          state := .stalled, reason := some { element := .sec o.sec, reason := .unexpectedOccupation }
          cell := none })).answerOpt r.cell .stalled (.element (.sec o.sec) .unexpectedOccupation 0)) ∧
      (r.state = .cleared → i = 0 → b.reactOccupation slot i o =
        ((b.commandSignal slot e.entry .stop).updRoute slot (fun r =>
          { r with state := .passing, cell := none })).answerOpt r.cell .set (.routePlace 1 slot 6)) ∧
      (r.state = .cleared → i ≠ 0 → ∀ f,
        f = (b.unmetProof e r).getD { element := .sec o.sec, reason := .sectionNotClear } →
        b.reactOccupation slot i o =
        ((b.commandSignal slot e.entry .stop).updRoute slot (fun r =>
          { r with state := .held, reason := some f, cell := none })).answerOpt r.cell .conflict f.detail) ∧
      (r.state = .held ∨ r.state = .cancelling ∨ (r.state = .emergency ∧ o.marked = false) → i = 0 →
        b.reactOccupation slot i o = (b.raiseAlarm .signalPassedAtStop (.signal e.entry) b.clock).updRoute slot
          (fun r => { r with state := .passing, timer := none })) ∧
      (r.state = .passing ∨ (r.state = .emergency ∧ (i ≠ 0 ∨ o.marked = true)) ∨
          ((r.state = .held ∨ r.state = .cancelling) ∧ i ≠ 0) → b.reactOccupation slot i o = b)) ∧
    ∀ n f, (∃ p ∈ b.claimedPoints e r, p.point = n) → f = Finding.mk' (.point n) .pointFailed →
      (r.state = .setting → b.reactFailure slot n =
        (b.updRoute slot (fun r => { r with state := .stalled, reason := some f, cell := none })).answerOpt r.cell
          .stalled f.detail) ∧
      (∀ x, r.state = .stalled → r.reason = some x → b.reactFailure slot n =
        if x.reason = .pointFailed then b.updRoute slot (fun r => { r with reason := some f }) else b)) ∧
  ∀ (b : Blocks) (slot : Nat) (e : RouteEntry) (r : RouteRec),
    (r.border = none ∨ r.border.map (·.grant) = some .granted → b.actLocked slot e r =
      (b.updRoute slot (fun r => { r with state := .cleared })).commandSignal slot e.entry
        (if r.sweep then .restricted else .proceed)) ∧
    (∀ p, r.border = some p →
      (p.grant = .asked ∨ p.grant = .lost → b.actLocked slot e r = b) ∧
      (p.grant = .none → b.canAskEntry p.line = false → b.actLocked slot e r = b.tearDown slot) ∧
      (p.grant = .none → b.canAskEntry p.line = true → b.actLocked slot e r =
        ((b.updRoute slot (fun r => { r with border := some { p with
            grant := .asked, expiry := some (Clock.after b.clock 10000) } })).sendLine p.line
          (.entryAsk p.line (BitVec.ofNat 16 r.route) r.identity)).updLine p.line
            (fun l => { l with entryAsk := some (BitVec.ofNat 16 r.route) }))) ∧
    ∀ n g x, b.signalRec n = some g →
      (g.owningSlot ≠ some slot → b.commandSignal slot n x = b.failCheck) ∧
      (g.owningSlot = some slot → g.commanded = x → b.commandSignal slot n x = b) ∧
      (g.owningSlot = some slot → g.commanded ≠ x → (b.commandSignal slot n x).signalRec n = some { g with
          commanded := x, proved := false, matchCount := 0, mismatchCount := 0, lampFault := false } ∧
        (b.commandSignal slot n x).work.alarms = b.work.alarms ++
          (if g.lampFault then [.ended .signalLampFault (.signal n) b.clock] else []))

/-- The availability stage (R51): the lowest free slot, the token condition by the table of R52, the protection, the
claim set in its order; what it finds at the first of them that fails. The protection (R89): the first overlap choice
whose sections and points are all available, or with none the first unavailable element of the first choice (R97); then
for each flank entry in order the primary where it is available, else the substitute, else the primary and its reason
(R92). A point claim applied drives the point that needs a move (R40); for a flank claim while another claim is held R40
and R93 disagree, and a free value says whether it drives (the model's choice, log entry 39). -/
def Obligations.AvailabilityChoosesTheProtection : Prop :=
  -- R51
  (∀ (b : Blocks) (e : RouteEntry) (route cell : Nat) (sweep : Bool) (identity : Option Identity) (x : Availability),
    x = b.availability e route sweep identity cell →
    (b.freeSlot = none → x = .unavailable { element := .route route, reason := .setFull }) ∧
    ∀ slot, b.freeSlot = some slot →
      (∀ line, b.tokenCondition e = .askable line → x = .askable line) ∧
      (∀ line, b.tokenCondition e = .unavailable line → x = .unavailable { element := .line line, reason := .border }) ∧
      (b.tokenCondition e = .met →
        (∀ f, b.protection slot e = .error f → x = .unavailable f) ∧
        ∀ p, b.protection slot e = .ok p →
          (∀ f, b.claim (.slot slot) (b.routeClaim slot e sweep identity p) = .error f → x = .unavailable f) ∧
          ∀ d, b.claim (.slot slot) (b.routeClaim slot e sweep identity p) = .ok d →
            x = .applied (d.createEntry slot e route sweep identity cell p))) ∧
  (∀ (b : Blocks) (slot : Nat), b.freeSlot = some slot ↔
    b.routes[slot]? = some none ∧ ∀ m < slot, b.routes[m]? ≠ some none) ∧
  (∀ (b : Blocks) (slot : Nat) (e : RouteEntry) (sweep : Bool) (identity : Option Identity) (p : Assignment),
    b.routeClaim slot e sweep identity p =
      e.path.map (fun n => { hold := .sec n (.route slot), condition := if sweep then .sweep else .clear
                             identity := identity }) ++
      (e.points.map (fun q => Hold.point q.point .path q.pos) ++ [Hold.signalEntry e.entry slot] ++
        p.overlap.toList.flatMap (fun n => b.overlapHolds n slot) ++
        (e.flanks.zip p.flanks).map (fun x : FlankPair => (x.1.assigned x.2).hold)).map (fun h =>
          { hold := h, condition := .clear, identity := none })) ∧
  -- R52
  (∀ (b : Blocks) (e : RouteEntry), (∀ n, e.exit = .signal n → b.tokenCondition e = .met) ∧
    ∀ line k l, e.exit = .line line → b.lineEntry line = some k → b.lineRec line = some l →
      (k.mode = .outbound → b.tokenCondition e = .met) ∧
      (k.mode = .bidirectional →
        (l.token = some .held → b.tokenCondition e = .met) ∧
        (l.token = some .notHeld → b.tokenCondition e =
          if b.linkUp (line / 4) then .askable line else .unavailable line) ∧
        (l.token = some .blocked → b.tokenCondition e = .unavailable line))) ∧
  -- R89, R97
  (∀ (b : Blocks) (slot : Nat) (e : RouteEntry),
    (∀ f, b.chooseOverlap slot e.overlaps = .error f → b.protection slot e = .error f) ∧
    ∀ o, b.chooseOverlap slot e.overlaps = .ok o →
      (∀ f, b.chooseFlanks e.flanks = .error f → b.protection slot e = .error f) ∧
      ∀ ps, b.chooseFlanks e.flanks = .ok ps → b.protection slot e = .ok { overlap := o, flanks := ps }) ∧
  (∀ (b : Blocks) (slot : Nat) (items : Nat → List ClaimItem),
    (∀ n o, b.overlapEntry n = some o → items n =
      o.sections.map (fun m => { hold := .sec m (.overlap slot), condition := .clear, identity := none }) ++
      o.points.map (fun p => { hold := .point p.point .overlap p.pos, condition := .clear, identity := none })) →
    (∀ n, b.overlapEntry n = none → items n = []) →
    b.chooseOverlap slot [] = .ok none ∧
    (∀ before n after, (∀ m ∈ before, ∃ i ∈ items m, b.unavailable i ≠ none) → (∀ i ∈ items n, b.unavailable i = none) →
      b.chooseOverlap slot (before ++ n :: after) = .ok (some n)) ∧
    ∀ first rest f, (∀ m ∈ first :: rest, ∃ i ∈ items m, b.unavailable i ≠ none) →
      (items first).findSome? b.unavailable = some f → b.chooseOverlap slot (first :: rest) = .error f) ∧
  -- R90 to R92
  (∀ (b : Blocks) (f : FlankEntry) (free : FlankElement → Option Finding),
    (∀ n pos, free (.point n pos) =
      b.unavailable { hold := .point n .flank pos, condition := .clear, identity := none }) →
    (∀ n, free (.signal n) = b.unavailable { hold := .signalFlank n, condition := .clear, identity := none }) →
    (free f.primary = none → b.chooseFlank f = .ok { substitute := false, released := false }) ∧
    ∀ x, free f.primary = some x →
      (f.substitute = none → b.chooseFlank f = .error x) ∧
      ∀ y, f.substitute = some y →
        (free y = none → b.chooseFlank f = .ok { substitute := true, released := false }) ∧
        (free y ≠ none → b.chooseFlank f = .error x)) ∧
  (∀ (b : Blocks) (fs : List FlankEntry),
    (∀ ps, b.chooseFlanks fs = .ok ps ↔ fs.map b.chooseFlank = ps.map Except.ok) ∧
    ∀ x, b.chooseFlanks fs = .error x ↔ ∃ before f after, fs = before ++ f :: after ∧
      (∀ g ∈ before, ∃ p, b.chooseFlank g = .ok p) ∧ b.chooseFlank f = .error x) ∧
  -- R40, R93
  ∀ (b c : Blocks) (n : Nat) (k : ClaimKind) (pos : Position) (p : PointRec), b.pointRec n = some p →
    c = Blocks.updPoint
      (if p.ref = some pos then b
       else (b.updPoint n (fun p => { p with pendingCall := none })).answerOpt p.pendingCall .overtaken .none)
      n (fun p => { p with
        pathCount := p.pathCount + (if k = .path then 1 else 0)
        overlapCount := p.overlapCount + (if k = .overlap then 1 else 0)
        flankCount := p.flankCount + (if k = .flank then 1 else 0)
        claimed := some pos }) →
    (p.ref = some pos ∧ (p.state = .atRest ∨ p.state = .moving) → b.applyPointClaim n k pos = c) ∧
    (¬ (p.ref = some pos ∧ (p.state = .atRest ∨ p.state = .moving)) →
      (k = .flank ∧ 0 < p.pathCount + p.overlapCount + p.flankCount → b.applyPointClaim n k pos =
        if Config.flankDrivesClaimed b.freeIndex n then (c.drive n pos).1 else c) ∧
      (k ≠ .flank ∨ p.pathCount + p.overlapCount + p.flankCount = 0 → b.applyPointClaim n k pos = (c.drive n pos).1))

/-- CANCEL ROUTE: BAD_PARAMETER; a waiting entry is WITHDRAWN and the cancel DONE; NOT_FOUND; a route in SETTING,
STALLED or LOCKED is released whole; PASSING for one in PASSING or EMERGENCY; TIMING for one in CANCELLING (the offset
of the bad parameter by log entry 15). A whole release gives back, in the order of the claim set, every hold the entry
still has, and frees its slot; its cell is WITHDRAWN, and for a border route the entry asked for or granted is given up
with ENTRY FREE, or with the link down the free deferred. A tearing down answers BORDER_REFUSED and sends nothing.
Behind a train the front section is given back when it was occupied, is CLEAR, and the next one is or was occupied, with
its points, flank assignments and, first, the entry signal; after the last the slot is free. At a whole release the
entry ask becomes none, whatever the grant (R135), and the deferred free of a LOST grant is R137's. -/
def Obligations.CancelRouteByState : Prop :=
  (∀ (q : Request) (s : State) (route : Nat), s.serving .cancelRoute q → route = q.field 28 2 →
    (s.blocks.count .route ≤ route → s.serves .cancelRoute q s.blocks .badParameter (.parameter 28)) ∧
    (route < s.blocks.count .route →
      (∀ w x, s.blocks.waiting.find? (fun w => w.route == route) = some w → w.cell ≠ q.cell → w.cell < 32 →
        s.port.isInFlight w.cell = true →
        x = { s.blocks with waiting := s.blocks.waiting.filter (fun x => x.route != route) } →
        exec .cancelRoute s = .next (s.served ((x.answer w.cell .withdrawn .none).answer q.cell .done .none)) ∧
        goesOn (exec .cancelRoute s) (fun t =>
          t.answered q.cell .done .none ∧ t.answered w.cell .withdrawn .none ∧ x.After t.blocks)) ∧
      ((∀ w ∈ s.blocks.waiting, w.route ≠ route) →
        (s.blocks.slotOf route = none → s.serves .cancelRoute q s.blocks .notFound .none) ∧
        ∀ slot e r, s.blocks.slotOf route = some slot → s.blocks.entryAt slot = some (e, r) →
          (r.state = .setting ∨ r.state = .stalled ∨ r.state = .locked →
            exec .cancelRoute s = .next (s.served ((s.blocks.wholeRelease slot).answer q.cell .done .none))) ∧
          (r.state = .passing ∨ r.state = .emergency →
            s.serves .cancelRoute q s.blocks .passing (.routePlace 1 slot r.state.code)) ∧
          (∀ m, r.state = .cancelling → r.timer = some m →
            s.serves .cancelRoute q s.blocks .timing (.timer e.release m.expiry))))) ∧
  ∀ (b : Blocks) (slot : Nat) (e : RouteEntry) (r : RouteRec), b.entryAt slot = some (e, r) →
    (∀ hs, hs = (e.path.drop r.released).map (fun n => .sec n (.route slot)) ++
        (e.points.filter (fun p => r.released < p.index)).map (fun p => .point p.point .path p.pos) ++
        (if r.released = 0 then [.signalEntry e.entry slot] else []) ++ b.overlapPartHolds slot r.overlap ++
        flankHolds (e.flanks.zip r.flank) (fun _ => true) →
      b.hasHolds (.slot slot) hs →
      (∀ d : Blocks, d = b.wholeRelease slot ∨ d = b.tearDown slot →
        d.routeRec slot = none ∧ (∀ m, m ≠ slot → d.routeRec m = b.routeRec m) ∧
        b.GivesBack d (.slot slot) hs ∧ d.work.freed = true ∧
        (∀ n, (d.sectionRec n).map SectionRec.kept = (b.sectionRec n).map SectionRec.kept)) ∧
      (b.wholeRelease slot).work.answers = b.work.answers ++
        (r.cell.map (fun c => { cell := c, outcome := .withdrawn, detail := .none })).toList ∧
      (b.tearDown slot).work.answers = b.work.answers ++
        (r.cell.map (fun c => { cell := c, outcome := .borderRefused, detail := .none })).toList ∧
      (b.tearDown slot).work.sent = b.work.sent ∧
      (r.border = none ∨ r.border.map (·.grant) = some .none → (b.wholeRelease slot).work.sent = b.work.sent) ∧
      (∀ p x, r.border = some p → (b.wholeRelease slot).lineRec p.line = some x → x.entryAsk = none) ∧
      ∀ p l i, r.border = some p → b.linkRec (portOf p.line) = some l → b.image? = some i → b.mode ≠ .halted →
        (p.grant = .asked ∨ p.grant = .granted ∨ (p.grant = .lost ∧ l.state = .up) →
          (b.wholeRelease slot).work.sent = b.work.sent ++ [.border (portOf p.line)
            (.entryFree p.line (BitVec.ofNat 16 r.route))
            (telegramChars ((Telegram.entryFree p.line (BitVec.ofNat 16 r.route)).bytes i.head.area l.transmit))]) ∧
        (p.grant = .lost → l.state ≠ .up → (b.wholeRelease slot).work.sent = b.work.sent ∧
          ∀ x, (b.wholeRelease slot).lineRec p.line = some x → x.deferredFree = some (BitVec.ofNat 16 r.route))) ∧
    (b.frontReady e r = true ↔ ∃ n, e.path[r.released]? = some n ∧ b.isPassed n = true ∧ b.isClear n = true ∧
      ∀ m, e.path[r.released + 1]? = some m →
        b.occupancy m = some .occupied ∨ b.occupancy m = some .clearing ∨ b.isPassed m = true) ∧
    ∀ n k hs, e.path[r.released]? = some n → k = r.released + 1 →
      hs = [.sec n (.route slot)] ++
        (e.points.filter (fun p => p.index = k)).map (fun p => .point p.point .path p.pos) ++
        (if k = 1 then [.signalEntry e.entry slot] else []) ++
        flankHolds (e.flanks.zip r.flank) (fun f => f.index = k || k = e.path.length) ++
        (if k = e.path.length then b.overlapPartHolds slot r.overlap else []) →
      b.hasHolds (.slot slot) hs → ∀ d, d = b.releaseFront slot e r →
        b.GivesBack d (.slot slot) hs ∧ d.work.freed = true ∧
        d.work.answers = b.work.answers ∧ (∀ m, m ≠ slot → d.routeRec m = b.routeRec m) ∧
        (k = e.path.length → d.routeRec slot = none) ∧
        (k ≠ e.path.length → d.routeRec slot = some { r with
          released := k
          flank := (e.flanks.zip r.flank).map (fun x =>
            if x.1.index = k then { x.2 with released := true } else x.2) })

/-- CANCEL ROUTE of a CLEARED or HELD route: the entry signal is commanded STOP and an open cell is WITHDRAWN; with every
approach section CLEAR, or a release time of 0, the route is released whole and the cancel DONE; else the entry is
CANCELLING with its approach timer and the cancel TIMING. -/
def Obligations.CancelReadsTheApproach : Prop :=
  ∀ (q : Request) (s : State) (slot : Nat) (e : RouteEntry) (r : RouteRec) (g : SignalEntry) (b : Blocks),
    s.serving .cancelRoute q → q.field 28 2 < s.blocks.count .route →
    (∀ w ∈ s.blocks.waiting, w.route ≠ q.field 28 2) → s.blocks.slotOf (q.field 28 2) = some slot →
    s.blocks.entryAt slot = some (e, r) → r.state = .cleared ∨ r.state = .held →
    s.blocks.signalEntry e.entry = some g →
    b = ((s.blocks.commandSignal slot e.entry .stop).updRoute slot (fun r => { r with cell := none })).answerOpt r.cell
      .withdrawn .none →
    ((∀ n ∈ g.approach, s.blocks.occupancy n = some .clear) ∨ e.release = 0 →
      exec .cancelRoute s = .next (s.served ((b.wholeRelease slot).answer q.cell .done .none))) ∧
    ((∃ n ∈ g.approach, s.blocks.occupancy n ≠ some .clear) → e.release ≠ 0 →
      exec .cancelRoute s = .next (s.served ((b.updRoute slot (fun r => { r with
          state := .cancelling
          timer := some { kind := .approach, expiry := Clock.after s.blocks.clock (1000 * e.release) } })).answer
        q.cell .timing (.timer e.release (Clock.after s.blocks.clock (1000 * e.release))))))

/-- CALL POINTS: BAD_PARAMETER; CLAIMED, RESTRICTED, POSSESSED, DONE at once, OCCUPIED, by the first check that applies;
else an earlier pending call is OVERTAKEN, the cell is the pending call, and the drive is requested. The details are the
model's choice, R68 stating none: the offsets of bad parameters, form 1 with the point and the reason on RESTRICTED and
POSSESSED, form 0 on CLAIMED and OCCUPIED (log entry 15). -/
def Obligations.CallPointsByTheFirstCheck : Prop :=
  ∀ (q : Request) (s : State) (n : Nat), s.serving .callPoints q → n = q.field 28 1 →
    (s.blocks.pointEntry n = none → goesOn (exec .callPoints s) (fun t =>
      t.answered q.cell .badParameter (.parameter 28) ∧ s.blocks.After t.blocks)) ∧
    ∀ e p, s.blocks.pointEntry n = some e → s.blocks.pointRec n = some p →
      (Position.ofCode (q.field 29 1) = none → goesOn (exec .callPoints s) (fun t =>
        t.answered q.cell .badParameter (.parameter 29) ∧ s.blocks.After t.blocks)) ∧
      ∀ pos, Position.ofCode (q.field 29 1) = some pos →
        (0 < p.pathCount + p.overlapCount + p.flankCount → goesOn (exec .callPoints s) (fun t =>
          t.answered q.cell .claimed .none ∧ s.blocks.After t.blocks)) ∧
        (p.pathCount + p.overlapCount + p.flankCount = 0 →
          ((p.reminder || p.standing) = true → goesOn (exec .callPoints s) (fun t =>
            t.answered q.cell .restricted (.element (.point n) .restricted 0) ∧ s.blocks.After t.blocks)) ∧
          ((p.reminder || p.standing) = false →
            (p.possessed = true → goesOn (exec .callPoints s) (fun t =>
              t.answered q.cell .possessed (.element (.point n) .possessed 0) ∧ s.blocks.After t.blocks)) ∧
            (p.possessed = false →
              (p.state = .atRest → p.ref = some pos → goesOn (exec .callPoints s) (fun t =>
                t.answered q.cell .done .none ∧ s.blocks.After t.blocks)) ∧
              (¬ (p.state = .atRest ∧ p.ref = some pos) →
                (s.blocks.occupancy e.sec ≠ some .clear → goesOn (exec .callPoints s) (fun t =>
                  t.answered q.cell .occupied .none ∧ s.blocks.After t.blocks)) ∧
                (s.blocks.occupancy e.sec = some .clear → exec .callPoints s = .next (s.served
                  (((s.blocks.overtakeCall n).updPoint n (fun p => { p with pendingCall := some q.cell })).drive n
                    pos).1))))))

/-! ### The alarm list, loading, committing, leaving service -/

/-- ACKNOWLEDGE ALARM: sequence 0 clears the overflow mark; a STANDING entry becomes ACCEPTED now, an ACCEPTED one
stays, a LAPSED one is removed, each DONE with the state before; an unknown sequence is NOT_FOUND. DONE for sequence 0
carries no detail (the model's choice, log entry 15). -/
def Obligations.AcknowledgeAlarmByState : Prop :=
  ∀ (q : Request) (s : State) (n : Nat), s.serving .acknowledgeAlarm q → n = q.field 28 4 →
    (n = 0 → s.serves .acknowledgeAlarm q { s.blocks with overflow := false } .done .none) ∧
    (n ≠ 0 → (∀ a ∈ s.blocks.alarms, a.seq ≠ n) → s.serves .acknowledgeAlarm q s.blocks .notFound .none) ∧
    ∀ a, n ≠ 0 → s.blocks.alarms.find? (fun x => x.seq == n) = some a →
      s.serves .acknowledgeAlarm q
        { s.blocks with alarms := match a.state with
          | .standing => s.blocks.alarms.map (fun x =>
              if x.seq = n then { x with state := .accepted, changedAt := s.blocks.clock } else x)
          | .accepted => s.blocks.alarms
          | .lapsed => s.blocks.alarms.filter (fun x => x.seq != n) } .done (.priorState a.state)

/-- An event raises and ends alarms on the list (R161 to R166). A raise that finds no entry of its kind and element
makes one at the tail with the counter's number: STANDING, or LAPSED for an event kind; in a list of 64 the LAPSED entry
nearest the head makes room, and with none LAPSED the overflow mark is yes and nothing is entered. One that finds the
entry LAPSED moves it to the tail with a new number and one repeat more; one that finds it STANDING or ACCEPTED changes
nothing. An end makes a STANDING entry LAPSED and removes an ACCEPTED one. The counter advances past every number in the
list. -/
def Obligations.AlarmsAreRaisedAndEnded : Prop :=
  (∀ k : AlarmKind, k.event = true ↔ k ∈ [.signalPassedAtStop, .unexpectedOccupation, .borderProtocolError,
    .handoverUnconfirmed, .storeFault]) ∧
  ∀ (b : Blocks) (k : AlarmKind) (e : Element) (t : Clock) (d : Blocks), d = b.enterRaise k e t →
    ((∀ a ∈ b.alarms, ¬ (a.kind = k ∧ a.element = e)) → b.enterEnd k e t = b ∧
      ∀ a : AlarmRec, a = { seq := b.alarmCounter, kind := k, element := e
                            state := if k.event then .lapsed else .standing
                            raisedAt := t, changedAt := t, repeats := 0 } →
        (b.alarms.length < 64 →
          d = { b with alarms := b.alarms ++ [a], alarmCounter := d.alarmCounter } ∧ b.CounterAdvances d) ∧
        (64 ≤ b.alarms.length →
          (∀ before x after, b.alarms = before ++ x :: after → x.state = .lapsed →
            (∀ y ∈ before, y.state ≠ .lapsed) →
            d = { b with alarms := before ++ after ++ [a], alarmCounter := d.alarmCounter } ∧
              (b.alarms.length = 64 → b.CounterAdvances d)) ∧
          ((∀ x ∈ b.alarms, x.state ≠ .lapsed) → d = { b with overflow := true }))) ∧
    ∀ a before after, b.alarms = before ++ a :: after → a.kind = k → a.element = e →
      (∀ x ∈ before ++ after, ¬ (x.kind = k ∧ x.element = e)) →
      (a.state ≠ .lapsed → d = b) ∧
      (a.state = .lapsed →
        d = { b with
          alarms := before ++ after ++ [{ a with
            seq := b.alarmCounter, state := if k.event then .lapsed else .standing
            repeats := min 255 (a.repeats + 1), changedAt := t }]
          alarmCounter := d.alarmCounter } ∧
        (b.alarms.length ≤ 64 → b.CounterAdvances d)) ∧
      b.enterEnd k e t = (match a.state with
        | .standing => { b with alarms := before ++ { a with state := .lapsed, changedAt := t } :: after }
        | .accepted => { b with alarms := before ++ after }
        | .lapsed => b)

/-- LOAD SEGMENT by the load state and the segment number, a segment being taken as R175 steps 1 to 4 say; LOAD RESET is
ACTIVE while COMMITTING, and else makes the load record as after a reset. The model's choices: the offset of a bad
parameter, form 0 on ACTIVE, LOAD_ABORTED, SEQUENCE and CHECK_FAILED (log entry 15), and the segment number after 65,535
(log entry 25). -/
def Obligations.LoadingByState : Prop :=
  (∀ (q : Request) (s : State), s.serving .loadReset q →
    (s.blocks.load.state = .committing → goesOn (exec .loadReset s) (fun t =>
      t.answered q.cell .active .none ∧ s.blocks.After t.blocks)) ∧
    (s.blocks.load.state ≠ .committing → goesOn (exec .loadReset s) (fun t =>
      t.answered q.cell .done .none ∧ Blocks.After
        { s.blocks with load := { state := .idle, next := 0, received := 0, length := none, buffer := [] } }
          t.blocks))) ∧
  ∀ (q : Request) (s : State) (n : Nat), s.serving .loadSegment q → n = q.field 28 2 →
    (q.field 30 2 = 0 ∨ 16384 < q.field 30 2 → goesOn (exec .loadSegment s) (fun t =>
      t.answered q.cell .badParameter (.parameter 30) ∧ s.blocks.After t.blocks)) ∧
    (0 < q.field 30 2 → q.field 30 2 ≤ 16384 →
      (s.blocks.load.state = .aborted → goesOn (exec .loadSegment s) (fun t =>
        t.answered q.cell .loadAborted .none ∧ s.blocks.After t.blocks)) ∧
      (s.blocks.load.state = .committing → goesOn (exec .loadSegment s) (fun t =>
        t.answered q.cell .active .none ∧ s.blocks.After t.blocks)) ∧
      (n ≠ 0 → s.blocks.load.state = .idle ∨ (s.blocks.load.state = .receiving ∧ n ≠ s.blocks.load.next) →
        goesOn (exec .loadSegment s) (fun t => t.answered q.cell .sequence .none ∧
          ({ s.blocks with load := { s.blocks.load with state := .aborted } } : Blocks).After t.blocks)) ∧
      ∀ l : LoadRec, (s.blocks.load.state = .idle ∨ s.blocks.load.state = .receiving) →
        (n = 0 ∧ l = { LoadRec.empty with state := .receiving }) ∨
          (n ≠ 0 ∧ n = s.blocks.load.next ∧ s.blocks.load.state = .receiving ∧ l = s.blocks.load) →
        (crc32 q.segment ≠ BitVec.ofNat 32 (q.field 32 4) ∨ 131072 < l.received + q.segment.length ∨
            (∃ m, l.length = some m ∧ m < l.received + q.segment.length) →
          goesOn (exec .loadSegment s) (fun t => t.answered q.cell .checkFailed .none ∧
            ({ s.blocks with load := { l with state := .aborted } } : Blocks).After t.blocks)) ∧
        (∀ v : LoadRec, crc32 q.segment = BitVec.ofNat 32 (q.field 32 4) →
          l.received + q.segment.length ≤ 131072 →
          v = { l with
            buffer := l.buffer ++ q.segment
            received := l.received + q.segment.length
            next := (l.next + 1) % 65536 } →
          ((l.length.isSome ∨ v.received < 64) → (∀ m, l.length = some m → v.received ≤ m) →
            goesOn (exec .loadSegment s) (fun t =>
              t.answered q.cell .done (.count v.received (decide (l.length = some v.received))) ∧
                ({ s.blocks with load := v } : Blocks).After t.blocks)) ∧
          (∀ m, l.length = none → 64 ≤ v.received → m = fieldAt v.buffer 4 4 →
            (64 ≤ m ∧ m ≤ 131072 ∧ v.received ≤ m → goesOn (exec .loadSegment s) (fun t =>
              t.answered q.cell .done (.count v.received (decide (v.received = m))) ∧
                ({ s.blocks with load := { v with length := some m } } : Blocks).After t.blocks)) ∧
            (m < 64 ∨ 131072 < m ∨ m < v.received → goesOn (exec .loadSegment s) (fun t =>
              t.answered q.cell .checkFailed .none ∧
                ({ s.blocks with load := { v with state := .aborted } } : Blocks).After t.blocks)))))

/-- COMMIT TABLES: the six conditions in order; accepted, the load is COMMITTING and the commit write joins the list, or
begins at once where nothing runs or waits: the validity mark is no and no image is in force. With the list full the
commit fails at once. Form 0 on ACTIVE, LOAD_ABORTED, INCOMPLETE and KEY_OFF, and the detail of POSSESSIONS_ACTIVE (form
1, the area, reason 0), are the model's choice (log entry 15). -/
def Obligations.CommitTablesByItsConditions : Prop :=
  ∀ (q : Request) (s : State), s.serving .commitTables q →
    (s.blocks.load.state = .committing → goesOn (exec .commitTables s) (fun t =>
      t.answered q.cell .active .none ∧ s.blocks.After t.blocks)) ∧
    (s.blocks.load.state = .aborted → goesOn (exec .commitTables s) (fun t =>
      t.answered q.cell .loadAborted .none ∧ s.blocks.After t.blocks)) ∧
    (s.blocks.load.state = .idle ∨ (s.blocks.load.state = .receiving ∧
        s.blocks.load.length ≠ some s.blocks.load.received) → goesOn (exec .commitTables s) (fun t =>
      t.answered q.cell .incomplete .none ∧ s.blocks.After t.blocks)) ∧
    (s.blocks.load.state = .receiving → s.blocks.load.length = some s.blocks.load.received →
      (s.blocks.key = false → goesOn (exec .commitTables s) (fun t =>
        t.answered q.cell .keyOff .none ∧ s.blocks.After t.blocks)) ∧
      (s.blocks.key = true →
        (∀ f, checkImage s.blocks.load.buffer = some f → goesOn (exec .commitTables s) (fun t =>
          t.answered q.cell .checkFailed (.check f.kind f.entry f.condition) ∧ s.blocks.After t.blocks)) ∧
        (checkImage s.blocks.load.buffer = none →
          (∀ n r, s.blocks.areas[n]? = some r → r.state ≠ .free →
            (∀ m < n, ∀ x, s.blocks.areas[m]? = some x → x.state = .free) →
            goesOn (exec .commitTables s) (fun t =>
              t.answered q.cell .possessionsActive (.element (.area n) .none 0) ∧ s.blocks.After t.blocks)) ∧
          ((∀ r ∈ s.blocks.areas, r.state = .free) →
            (32 ≤ s.blocks.writes.length → goesOn (exec .commitTables s) (fun t =>
              t.answered q.cell .storeFault .none ∧
                (s.blocks.enterRaise .storeFault .device s.blocks.clock).After t.blocks)) ∧
            (s.blocks.writes.length < 32 → s.blocks.running ≠ none ∨ s.blocks.writes ≠ [] →
              goesOn (exec .commitTables s) (fun t =>
                ({ s.blocks with
                  load := { s.blocks.load with state := .committing }
                  writes := s.blocks.writes ++ [.commit q.cell] } : Blocks).After t.blocks)) ∧
            (s.blocks.running = none → s.blocks.writes = [] → goesOn (exec .commitTables s) (fun t =>
              t = s.served (Blocks.beginCommit
                { s.blocks with load := { s.blocks.load with state := .committing } } q.cell) ∧
                t.blocks.stored.valid = false ∧
                t.blocks.inForce = none ∧ t.blocks.load = { s.blocks.load with state := .committing } ∧
                t.blocks.sections = [] ∧ t.blocks.units = [] ∧ t.blocks.areas = [] ∧
                (t.blocks.mode = s.blocks.mode → t.blocks.running = some (.commit q.cell) ∧ t.blocks.writes = [] ∧
                  t.blocks.stored.bytes = s.blocks.stored.bytes)))))))

/-- LEAVE SERVICE: KEY_OFF with KEY low; NOT_EMPTY with the first of the Route Set, the waiting list and the receptions
that is not empty; else the mode is CONFIGURING, the arm list is empty, the sweep is dropped, and nothing else changes.
That KEY_OFF carries no detail is the model's choice (log entry 15). -/
def Obligations.LeaveServiceEmptyWithKey : Prop :=
  ∀ (q : Request) (s : State), s.serving .leaveService q →
    (s.blocks.key = false → goesOn (exec .leaveService s) (fun t =>
      t.answered q.cell .keyOff .none ∧ s.blocks.After t.blocks)) ∧
    (s.blocks.key = true →
      ((∃ n, s.blocks.routeRec n ≠ none) → goesOn (exec .leaveService s) (fun t =>
        t.answered q.cell .notEmpty (.precondition .routeSet) ∧ s.blocks.After t.blocks)) ∧
      ((∀ n, s.blocks.routeRec n = none) →
        (s.blocks.waiting ≠ [] → goesOn (exec .leaveService s) (fun t =>
          t.answered q.cell .notEmpty (.precondition .waitingList) ∧ s.blocks.After t.blocks)) ∧
        (s.blocks.waiting = [] →
          ((∃ n l, s.blocks.lineRec n = some l ∧ l.reception ≠ none) → goesOn (exec .leaveService s) (fun t =>
            t.answered q.cell .notEmpty (.precondition .reception) ∧ s.blocks.After t.blocks)) ∧
          ((∀ n l, s.blocks.lineRec n = some l → l.reception = none) → goesOn (exec .leaveService s) (fun t =>
            t.answered q.cell .done .none ∧ t.safe = false ∧ t.blocks = { s.blocks with
              mode := .configuring, arms := [], sweep := { stage := .none, seen := [], lockExpiry := none }
              freeIndex := s.blocks.freeIndex + 1 })))))

/-! ### The element buses (R111 to R114) -/

/-- COMMAND_TELEGRAM_END fixes the end time of the outstanding exchange, in every mode; a complete reply that is not
valid leaves the exchange to its timeout. Nothing else of the blocks changes. REPLY_TIMEOUT is a miss: the good count is
0, and the state and the miss count move as the table of R114 gives; that its step may come later than the timeout is log
entry 3. -/
def Obligations.ExchangesLastToTheirTimeoutAndMiss : Prop :=
  (∀ (x : Bus) (e : Exchange) (s : State), s.held = false → s.settled = true →
    (s.blocks.busRec x).exchange = some e →
    (e.endTime = none → goesOn (exec (.commandTelegramEnd x) s) (fun t =>
      (s.blocks.setBus x { s.blocks.busRec x with exchange := some { e with endTime := some s.blocks.clock } }).After
        t.blocks)) ∧
    ∀ k u chars r, s.blocks.mode ≠ .halted → e.spent = false → e.inTime s.blocks.clock = true →
      s.blocks.unitEntry e.unit = some k → s.blocks.unitRec e.unit = some u →
      collectReply k.slots.length chars = some r → validReply k e.seq r = none →
      goesOn (exec (.replyComplete x chars) s) (fun t =>
        (s.blocks.setBus x { s.blocks.busRec x with exchange := some { e with spent := true } }).After t.blocks)) ∧
  ∀ (x : Bus) (e : Exchange) (at0 : Clock) (u : UnitRec) (s : State), s.asleep = false → s.settled = true →
    (s.blocks.busRec x).exchange = some e → e.endTime = some at0 →
    Clock.reached s.blocks.clock (Clock.after at0 20) = true → s.blocks.unitRec e.unit = some u → u.state ≠ .unknown →
    goesOn (exec (.replyTimeout x) s) (fun t => ∃ v, t.blocks.unitRec e.unit = some v ∧ v.good = 0 ∧
      (v.state, v.miss) = match u.state with
        | .active => (.suspect, 1)
        | .lost => (.lost, 3)
        | k => if 3 ≤ u.miss + 1 then (.lost, 3) else (k, u.miss + 1))

/-- REPLY_COMPLETE with a valid reply: the miss count is 0 and the arrival is the last reply time; a good reply (health
OK and no wrong aspect) and another move the state and the good count as the table of R113 gives. A unit left ACTIVE
delivers: every status where the reply made it ACTIVE, else the changed ones of sections and points, and every signal's
(R116). What a delivered status then does: to a section the rows of R21 to R24 with SECTION_DISTURBED (R26); to a point
the detected position (R28) and the table of R29; to a signal the counts of R34; what the loss of a unit does to its
elements (R36); and what a drive does to a point (R30). The arrival as last reply time and the order of the work are
R115's, a section's passage mark and erased identity R25's, the wrong aspect R35's, and the last status none on entry to
FAULT R117's. -/
def Obligations.ValidReplyMovesTheUnitState : Prop :=
  (∀ (x : Bus) (e : Exchange) (k : UnitEntry) (u : UnitRec) (chars : List LineChar) (r : Reply) (ok : Bool)
    (statuses : List SlotStatus) (s : State), s.asleep = false → s.settled = true →
    (s.blocks.busRec x).exchange = some e → e.spent = false → e.inTime s.blocks.clock = true →
    s.blocks.unitEntry e.unit = some k → s.blocks.unitRec e.unit = some u → u.state ≠ .unknown →
    collectReply k.slots.length chars = some r → validReply k e.seq r = some (ok, statuses) →
    exec (.replyComplete x chars) s =
      .next (s.finish s.port ((s.blocks.takeReply x e u ok statuses).settle.startPoll x)) ∧
    goesOn (exec (.replyComplete x chars) s) (fun t => ∃ v, t.blocks.unitRec e.unit = some v ∧ v.miss = 0 ∧
      v.lastReply = some s.blocks.clock ∧
      ((ok && !anyWrongAspect e.sent statuses) = false → v.state = .fault ∧ v.good = 0 ∧
        (u.state ≠ .fault → v.lastStatus = none)) ∧
      ((ok && !anyWrongAspect e.sent statuses) = true →
        (u.state = .active → v.state = .active) ∧
        (u.state = .suspect → v.state = .active ∧ v.good = 2) ∧
        (u.state = .lost ∨ u.state = .fault → v.state = .syncing ∧ v.good = 1) ∧
        (u.state = .syncing → u.good = 0 → v.state = .syncing ∧ v.good = 1) ∧
        (u.state = .syncing → u.good = 1 → v.state = .active ∧ v.good = 2) ∧
        (v.state = .active → v.lastStatus = some statuses) ∧
        (v.state = .syncing → v.lastStatus = u.lastStatus)))) ∧
  -- R116: which statuses are delivered, and to what
  (∀ (activating : Bool) (last : Option (List SlotStatus)) (k : Nat) (x : SlotStatus),
    delivered activating last (k, x) = true ↔ activating = true ∨ ∀ l, last = some l → l[k]? ≠ some x) ∧
  (∀ (b : Blocks) (unit k n : Nat) (sent : List SlotValue) (isNew : Bool) (t : Clock),
    (∀ st, b.sectionAt unit k = some n →
      b.deliverSlot unit sent isNew t (k, .sec st) = if isNew then b.sectionReport n st t else b) ∧
    (∀ pos j, b.pointAt unit k = some (n, j) → b.deliverSlot unit sent isNew t (k, .point pos) =
      if isNew then b.updPoint n (fun p => { p with detection := p.detection.set j pos }) else b) ∧
    (∀ shown, b.signalAt unit k = some n →
      b.deliverSlot unit sent isNew t (k, .signal shown) = b.signalReport n shown sent[k]? t)) ∧
  -- R21 to R24, R26: a section report
  (∀ (b d : Blocks) (n : Nat) (st : SectionStatus) (t : Clock) (e : SectionEntry) (r : SectionRec) (o : Occupancy),
    b.sectionEntry n = some e → b.sectionRec n = some r → d = b.sectionReport n st t →
    o = (match st with
      | .fault => .disturbed
      | .disturbed => .disturbed
      | .occupied => if r.occupancy = .disturbed ∧ e.kind ≠ .circuit then .disturbed else .occupied
      | .clear =>
        if r.occupancy = .occupied ∨ (r.occupancy = .disturbed ∧ e.kind = .circuit) then
          (if e.delay = 0 then .clear else .clearing)
        else r.occupancy) →
    (o = r.occupancy → d = b) ∧
    (o ≠ r.occupancy → d.sectionRec n = some { r with
        occupancy := o
        passage := r.passage || (o = .occupied && (r.owner.code = 1 || r.owner.code = 3))
        identity := if o = .clear ∨ o = .disturbed then none else r.identity
        changedAt := t
        confirm := if o = .clearing then some (Clock.after t e.delay) else none }) ∧
    (∀ m, m ≠ n → d.sectionRec m = b.sectionRec m) ∧ d.points = b.points ∧ d.signals = b.signals ∧
    d.work.alarms = b.work.alarms ++
      (if o = r.occupancy then []
       else if o = .disturbed then [.raised .sectionDisturbed (.sec n) t]
       else if r.occupancy = .disturbed then [.ended .sectionDisturbed (.sec n) t]
       else []) ∧
    (d.work.freed = true ↔ b.work.freed = true ∨ (o = .clear ∧ r.occupancy ≠ .clear))) ∧
  -- R28, R29: a point's detection
  (∀ (ds : List (Option Position)) (pos : Position), ds ≠ [] →
    (detectedPosition ds = some pos ↔ ∀ x ∈ ds, x = some pos)) ∧
  (∀ (b d : Blocks) (n : Nat) (t : Clock) (p : PointRec) (pos : Option Position), b.pointRec n = some p →
    pos = detectedPosition p.detection → d = b.applyDetection n t →
    ((p.state = .unknown ∧ pos ≠ none) ∨
        (p.state = .moving ∨ p.state = .failed ∨ p.state = .lostDetection) ∧ pos ≠ none ∧ pos = p.ref →
      d.pointRec n = some { p with ref := pos, state := .atRest, moveTimer := none, pendingCall := none } ∧
      d.work.freed = true ∧
      d.work.answers = b.work.answers ++
        p.pendingCall.toList.map (fun c => { cell := c, outcome := .done, detail := .none }) ∧
      d.work.alarms = b.work.alarms ++
        (if p.state = .lostDetection then [.ended .pointDetectionLost (.point n) t]
         else if p.state = .failed then [.ended .pointFailed (.point n) t] else [])) ∧
    (p.state = .atRest → pos ≠ p.ref →
      d.pointRec n = some { p with state := .lostDetection } ∧ d.work.answers = b.work.answers ∧
      d.work.freed = b.work.freed ∧
      d.work.alarms = b.work.alarms ++ [.raised .pointDetectionLost (.point n) t]) ∧
    ((p.state = .unknown ∧ pos = none) ∨ (p.state = .atRest ∧ pos = p.ref) ∨
        ((p.state = .moving ∨ p.state = .failed ∨ p.state = .lostDetection) ∧ (pos = none ∨ pos ≠ p.ref)) → d = b) ∧
    (∀ m, m ≠ n → d.pointRec m = b.pointRec m) ∧ d.sections = b.sections ∧ d.signals = b.signals) ∧
  -- R34: a signal's reply
  (∀ (b d : Blocks) (n : Nat) (shown : Shown) (sent : Option SlotValue) (t : Clock) (r : SignalRec),
    b.signalRec n = some r → d = b.signalReport n shown sent t →
    (sent ≠ some (.signal r.commanded) → d.signalRec n = some { r with shown := shown } ∧
      d.work.alarms = b.work.alarms) ∧
    (sent = some (.signal r.commanded) →
      (r.commanded, shown) ∈ [(Aspect.stop, Shown.stop), (.proceed, .proceed), (.restricted, .restricted)] →
      d.signalRec n = some { r with
        shown := shown, mismatchCount := 0, matchCount := min 2 (r.matchCount + 1)
        proved := r.proved || 2 ≤ r.matchCount + 1, lampFault := false } ∧
      d.work.alarms = b.work.alarms ++ (if r.lampFault then [.ended .signalLampFault (.signal n) t] else [])) ∧
    (sent = some (.signal r.commanded) →
      (r.commanded, shown) ∉ [(Aspect.stop, Shown.stop), (.proceed, .proceed), (.restricted, .restricted)] →
      d.signalRec n = some { r with
        shown := shown, matchCount := 0, proved := false, mismatchCount := min 2 (r.mismatchCount + 1)
        lampFault := r.lampFault || 2 ≤ r.mismatchCount + 1 } ∧
      d.work.alarms = b.work.alarms ++
        (if r.lampFault = false ∧ 2 ≤ r.mismatchCount + 1 then [.raised .signalLampFault (.signal n) t] else [])) ∧
    (∀ m, m ≠ n → d.signalRec m = b.signalRec m) ∧ d.sections = b.sections ∧ d.points = b.points) ∧
  -- R36: the loss of a unit
  (∀ (b d : Blocks) (unit : Nat) (t : Clock) (i : Image), b.image? = some i → d = b.loseUnit unit t →
    (∀ n e r, i.sections[n]? = some e → b.sectionRec n = some r → d.sectionRec n = some
      (if e.unit = unit then
        { r with
          occupancy := .disturbed, identity := none, confirm := none
          changedAt := if r.occupancy = .disturbed then r.changedAt else t }
       else r)) ∧
    (∀ n e p, i.points[n]? = some e → b.pointRec n = some p → d.pointRec n = some
      (if e.ends.any (fun c => c.unit == unit) then
        { p with
          detection := (p.detection.zip e.ends).map (fun c => if c.2.unit = unit then none else c.1)
          state := if p.state = .atRest then .lostDetection else p.state }
       else p)) ∧
    (∀ n e r, i.signals[n]? = some e → b.signalRec n = some r → d.signalRec n = some
      (if e.unit = unit then
        { r with shown := .dark, proved := false, matchCount := 0, mismatchCount := 0, lampFault := false }
       else r)) ∧
    (∀ a, a ∈ d.work.alarms ↔ a ∈ b.work.alarms ∨ ∃ n e r, i.signals[n]? = some e ∧ e.unit = unit ∧
      b.signalRec n = some r ∧ r.lampFault = true ∧ a = .ended .signalLampFault (.signal n) t) ∧
    d.work.freed = b.work.freed ∧ d.work.answers = b.work.answers) ∧
  -- R30: a drive
  ∀ (b : Blocks) (n : Nat) (target : Position) (e : PointEntry) (p : PointRec), b.pointEntry n = some e →
    b.pointRec n = some p →
    (p.state = .moving → p.ref = some target → b.drive n target = (b, true)) ∧
    (p.state ≠ .moving ∨ p.ref ≠ some target →
      (p.possessed = true ∨ (b.occupancy e.sec ≠ some .clear ∧ b.occupancy e.sec ≠ some .restoring) →
        b.drive n target = (b, false)) ∧
      (p.possessed = false → b.occupancy e.sec = some .clear ∨ b.occupancy e.sec = some .restoring →
        (b.drive n target).2 = true ∧
        (b.drive n target).1.pointRec n = some { p with
          ref := some target, state := .moving, moveTimer := some (Clock.after b.clock (1000 * e.limit)) } ∧
        (b.drive n target).1.work.alarms = b.work.alarms ++
          (if p.state = .failed then [.ended .pointFailed (.point n) b.clock]
           else if p.state = .lostDetection then [.ended .pointDetectionLost (.point n) b.clock] else []) ∧
        ∀ m, m ≠ n → (b.drive n target).1.pointRec m = b.pointRec m))

/-- The value of every slot follows the record behind it (R44): a signal's is its commanded aspect, a point's DRIVE
while it is MOVING and not possessed, else HOLD; with the unit LOST or FAULT STOP and HOLD. A change goes into the
unit's outgoing image, but in HALTED, where the image stands as it was (log entry 34), and one that makes a signal STOP,
or a FAILED point HOLD, lists the unit as urgent, once (R119), of a point's two ends end 1's unit first (log entry 49).
The next unit polled is the oldest urgent one, else the next by address after the position (R120). Its command telegram
carries the address, the sequence and the image as it stands, and a unit UNKNOWN becomes SYNCING (R110); in HALTED the
image is STOP, HOLD and NONE (R122). -/
def Obligations.PollsCarryTheDerivedSlots : Prop :=
  -- R44
  (∀ (b : Blocks) (e : SignalEntry) (r : SignalRec), b.signalSlot e r =
    if (b.unitRec e.unit).any (fun u => u.state = .lost ∨ u.state = .fault) then .signal .stop
    else .signal r.commanded) ∧
  (∀ (b : Blocks) (e : PointEntry) (r : PointRec),
    ((∃ c ∈ e.ends, ∃ u, b.unitRec c.unit = some u ∧ (u.state = .lost ∨ u.state = .fault)) →
      b.pointSlot e r = .hold) ∧
    ((∀ c ∈ e.ends, ∀ u, b.unitRec c.unit = some u → u.state ≠ .lost ∧ u.state ≠ .fault) →
      (∀ x, r.state = .moving → r.possessed = false → r.ref = some x → b.pointSlot e r = .drive x) ∧
      (r.state ≠ .moving ∨ r.possessed = true ∨ r.ref = none → b.pointSlot e r = .hold))) ∧
  (∀ (b : Blocks) (n : Nat) (f : SignalRec → SignalRec) (e : SignalEntry) (r : SignalRec),
    b.signalEntry n = some e → b.signalRec n = some r → f r ≠ r → ∀ c v,
      c = Blocks.mark { b with signals := b.signals.set n (f r) } (.signal n) → v = b.signalSlot e (f r) →
      b.updSignal n f = c.setSlot e.unit e.slot v (v = .signal .stop)) ∧
  (∀ (b : Blocks) (n : Nat) (f : PointRec → PointRec) (e : PointEntry) (p : PointRec),
    b.pointEntry n = some e → b.pointRec n = some p → f p ≠ p → ∀ c,
      c = Blocks.mark { b with points := b.points.set n (f p) } (.point n) →
      b.updPoint n f =
        e.ends.foldl (fun d x => d.setSlot x.unit x.slot (b.pointSlot e (f p)) ((f p).state = .failed)) c) ∧
  -- R119
  (∀ (b c : Blocks) (n slot : Nat) (v : SlotValue) (urgent : Bool) (u : UnitRec), b.unitRec n = some u →
    c = Blocks.mark { b with units := b.units.set n { u with image := u.image.set slot v } } (.unit n) →
    (b.mode = .halted ∨ u.image[slot]? = some v ∨ u.image[slot]? = none → b.setSlot n slot v urgent = b) ∧
    (b.mode ≠ .halted → (∃ x, u.image[slot]? = some x ∧ x ≠ v) →
      (urgent = false → b.setSlot n slot v urgent = c) ∧
      ∀ e, urgent = true → b.unitEntry n = some e →
        (n ∈ (b.busRec e.bus).urgent → b.setSlot n slot v urgent = c) ∧
        (n ∉ (b.busRec e.bus).urgent → b.setSlot n slot v urgent = (c.setBus e.bus
          { b.busRec e.bus with urgent := (b.busRec e.bus).urgent ++ [n] }).mark (.unit n)))) ∧
  -- R120
  (∀ (b : Blocks) (x : Bus), ((b.busRec x).exchange ≠ none → b.startPoll x = b) ∧
    ((b.busRec x).exchange = none →
      (∀ n rest, (b.busRec x).urgent = n :: rest →
        b.startPoll x = ((b.setBus x { b.busRec x with urgent := rest }).mark (.unit n)).poll x n) ∧
      ((b.busRec x).urgent = [] →
        ((∀ n e, b.unitEntry n = some e → e.address < 32 → e.bus ≠ x) → b.startPoll x = b) ∧
        ∀ n e, b.unitEntry n = some e → e.bus = x → e.address < 32 →
          (∀ m k, b.unitEntry m = some k → k.bus = x → k.address = e.address → m = n) →
          ((∀ y, (b.busRec x).position = some y → y < e.address) ∧
              (∀ m k, b.unitEntry m = some k → k.bus = x → k.address < 32 → k.address < e.address →
                ∃ y, (b.busRec x).position = some y ∧ k.address ≤ y) ∨
            (∃ y, (b.busRec x).position = some y ∧
              ∀ m k, b.unitEntry m = some k → k.bus = x → k.address < 32 → k.address ≤ y ∧ e.address ≤ k.address)) →
          b.startPoll x = (b.setBus x { b.busRec x with position := some e.address }).poll x n))) ∧
  -- R110, R122
  ∀ (b c : Blocks) (x : Bus) (n : Nat) (e : UnitEntry) (u : UnitRec) (image : List SlotValue),
    b.unitEntry n = some e → b.unitRec n = some u →
    image = (if b.mode = .halted then e.slots.map (fun k => match k with
      | .signal => .signal .stop
      | .point => .hold
      | .sec => .none) else u.image) →
    c = b.poll x n →
    (c.busRec x).exchange = some { unit := n, seq := u.nextSeq, sent := image, endTime := none, spent := false } ∧
    c.unitRec n = some (if u.state = .unknown ∧ b.mode ≠ .halted then
        { u with nextSeq := (u.nextSeq + 1) % 16, state := .syncing, miss := 0, good := 0 }
      else { u with nextSeq := (u.nextSeq + 1) % 16 }) ∧
    c.work.sent = b.work.sent ++ [.command x n
      (telegramChars (byte e.address :: byte u.nextSeq :: image.map (fun v => byte v.code)))] ∧
    (e.address < 32 → u.nextSeq < 16 → ∀ d, d = telegramChars (byte e.address :: byte u.nextSeq ::
        image.map (fun v => byte v.code)) →
      d.length = image.length + 4 ∧ (d.map (·.data)).take 2 = [byte e.address, byte u.nextSeq] ∧
      (∀ k ch, d[k]? = some ch → ch.marker = decide (k = 0) ∧ ch.stop = true) ∧ crc16Ok (d.map (·.data)) = true)

/-! ### Timers of the element table, the routes and the waiting list -/

/-- CONFIRMATION_TIMER_EXPIRY: a CLEARING section becomes CLEAR at its expiry time; MOVE_TIMER_EXPIRY: a MOVING point
becomes FAILED, POINT_FAILED is raised at the expiry time, and a pending call is answered FAILED. A step that comes later
than the expiry has the same effect (the model's choice, log entry 3). -/
def Obligations.ElementTimersExpire : Prop :=
  ∀ (n : Nat) (at0 : Clock) (s : State), s.asleep = false → s.settled = true →
    Clock.reached s.blocks.clock at0 = true →
    (∀ r, s.blocks.sectionRec n = some r → r.occupancy = .clearing → r.confirm = some at0 →
      exec (.confirmationTimerExpiry n) s = .next (s.ended (s.blocks.setOccupancy n .clear at0 none)) ∧
      goesOn (exec (.confirmationTimerExpiry n) s) (fun t => t.blocks.occupancy n = some .clear ∧
        ((s.blocks.withSection n
            { r with occupancy := .clear, identity := none, changedAt := at0, confirm := none }).markFreed).After
          t.blocks)) ∧
    ∀ p, s.blocks.pointRec n = some p → p.state = .moving → p.moveTimer = some at0 →
      exec (.moveTimerExpiry n) s = .next (s.ended (s.blocks.moveTimeout n at0)) ∧
      (p.pendingCall = none → goesOn (exec (.moveTimerExpiry n) s) (fun t =>
        ((s.blocks.updPoint n (fun p => { p with state := .failed, moveTimer := none, pendingCall := none })).enterRaise
          .pointFailed (.point n) at0).After t.blocks)) ∧
      ∀ c, p.pendingCall = some c → c < 32 → s.port.isInFlight c = true →
        goesOn (exec (.moveTimerExpiry n) s) (fun t => t.answered c .failed (.element (.point n) .pointFailed 0) ∧
          ((s.blocks.updPoint n (fun p =>
            { p with state := .failed, moveTimer := none, pendingCall := none })).enterRaise .pointFailed (.point n)
              at0).After t.blocks)

/-- APPROACH_TIMER_EXPIRY and EMERGENCY_TIMER_EXPIRY release the route whole; a timer of the other kind, or one not yet
due, is not this event, and the step answers the state itself (the model's choice, log entry 2). OVERLAP_TIMER_EXPIRY:
with every section CLEAR the overlap is given back in a release set of its own; else it is EXPIRED. ENTRY_WAIT_EXPIRY:
the route is torn down, and the ask forgotten with an ENTRY FREE (R135). That a step may come later than the expiry is
log entry 3. -/
def Obligations.RouteTimersExpire : Prop :=
  ∀ (slot : Nat) (r : RouteRec) (s : State), s.asleep = false → s.blocks.routeRec slot = some r →
    (∀ m, r.timer = some m →
      (m.kind = .approach → Clock.reached s.blocks.clock m.expiry = true →
        exec (.approachTimerExpiry slot) s = .next (s.ended (s.blocks.wholeRelease slot))) ∧
      (m.kind = .emergency → Clock.reached s.blocks.clock m.expiry = true →
        exec (.emergencyTimerExpiry slot) s = .next (s.ended (s.blocks.wholeRelease slot))) ∧
      (m.kind = .emergency ∨ Clock.reached s.blocks.clock m.expiry = false →
        exec (.approachTimerExpiry slot) s = .next s) ∧
      (m.kind = .approach ∨ Clock.reached s.blocks.clock m.expiry = false →
        exec (.emergencyTimerExpiry slot) s = .next s)) ∧
    (∀ p o, r.overlap = some p → p.state = .timing → Clock.due s.blocks.clock p.expiry = true →
      s.blocks.overlapEntry p.number = some o →
      ((∀ n ∈ o.sections, s.blocks.occupancy n = some .clear) → exec (.overlapTimerExpiry slot) s = .next
        (s.ended ((s.blocks.release (.slot slot) (o.holds slot)).updRoute slot (fun r => { r with overlap := none })))) ∧
      ((∃ n ∈ o.sections, s.blocks.occupancy n ≠ some .clear) → exec (.overlapTimerExpiry slot) s = .next
        (s.ended (s.blocks.updRoute slot (fun r =>
          { r with overlap := some { p with state := .expired, expiry := none } }))))) ∧
    ∀ p, r.border = some p → p.grant = .asked →
      r.state = .setting ∨ r.state = .stalled ∨ r.state = .locked → Clock.due s.blocks.clock p.expiry = true →
      exec (.entryWaitExpiry slot) s = .next (s.ended ((((s.blocks.tearDown slot).sendLine p.line
        (.entryFree p.line (BitVec.ofNat 16 r.route))).updLine p.line (fun l => { l with entryAsk := none }))))

/-- WAITING_ENTRY_EXPIRY answers EXPIRED and TOKEN_WAIT_ENTRY_EXPIRY BORDER_REFUSED; the entry leaves the list, and the
entries behind it keep their order. A step that comes later than the expiry has the same effect (the model's choice, log
entry 3). In SERVICE an "elements freed" or a token HELD leads to a pass over the list, oldest entry first, each WAITING
entry once: refused by the restriction stage, set under its cell, kept for its token or for its place, and where the
token of a token-wait entry is there, removed with CONFLICT, whose detail is log entry 15 and for a full Route Set log
entry 43; that an entry stays where the Route Set is full and its token is not HELD is log entry 43 too. On entry to
SERVICE every DEFERRED entry is WAITING with a new expiry. -/
def Obligations.WaitingListIsServed : Prop :=
  (∀ (route : Nat) (w : WaitingRec) (s : State) (x : Blocks), s.asleep = false → s.settled = true →
    s.blocks.waiting.find? (fun w => w.route == route) = some w → w.deferred = false →
    Clock.due s.blocks.clock w.expiry = true → w.cell < 32 → s.port.isInFlight w.cell = true →
    x = { s.blocks with waiting := s.blocks.waiting.filter (fun x => x.route != route) } →
    (w.storeTime ≠ 0 →
      exec (.waitingEntryExpiry route) s = .next (s.ended (x.answer w.cell .expired .none)) ∧
      goesOn (exec (.waitingEntryExpiry route) s) (fun t =>
        t.answered w.cell .expired .none ∧ x.After t.blocks)) ∧
    (w.storeTime = 0 →
      exec (.tokenWaitEntryExpiry route) s = .next (s.ended (x.answer w.cell .borderRefused .none)) ∧
      goesOn (exec (.tokenWaitEntryExpiry route) s) (fun t =>
        t.answered w.cell .borderRefused .none ∧ x.After t.blocks))) ∧
  -- R43, R65: when a pass is made, and over what
  (∀ (b d : Blocks) (n : Nat), d = b.reactRound → Blocks.settleRounds (n + 1) b =
    if (d.work.freed = true ∨ d.work.tokenHeld = true) ∧ d.mode = .service then
      Blocks.settleRounds n (Blocks.waitingPass { d with work := { d.work with freed := false, tokenHeld := false } })
    else { d with work := { d.work with freed := false, tokenHeld := false } }) ∧
  (∀ b : Blocks, b.waitingPass = b.waiting.foldl (fun d w =>
    if w.deferred = false ∧ w ∈ d.waiting then d.examine w else d) b) ∧
  -- R65: one entry examined
  (∀ (b x : Blocks) (w : WaitingRec) (e : RouteEntry), b.routeEntry w.route = some e →
    x = { b with waiting := b.waiting.filter (fun v => v.route != w.route) } →
    (∀ o f, b.restrictionStage e = some (o, f) → b.examine w = x.answer w.cell o f.detail) ∧
    (b.restrictionStage e = none →
      (∀ slot p d, b.freeSlot = some slot → b.tokenCondition e = .met → x.protection slot e = .ok p →
        x.claim (.slot slot) (x.routeClaim slot e w.sweep w.identity p) = .ok d →
        b.examine w = d.createEntry slot e w.route w.sweep w.identity w.cell p) ∧
      (∀ line, b.freeSlot ≠ none → b.tokenCondition e = .askable line → b.examine w = b.askToken line) ∧
      ∀ f, x.availability e w.route w.sweep w.identity w.cell = .unavailable f →
        b.examine w = if w.storeTime = 0 ∧ b.tokenCondition e = .met then x.answer w.cell .conflict f.detail else b)) ∧
  -- R67
  ∀ b : Blocks, b.wakeDeferred = { b with waiting := b.waiting.map (fun w =>
    if w.deferred = true then
      { w with deferred := false, expiry := some (Clock.after b.clock (1000 * w.storeTime)) }
    else w) }

/-- The overlap of an entry. In CLAIMED and LOCKED it is LOCKED exactly while every one of its points is at rest in its
position (R99). It goes TIMING when the entry is PASSING and its train has reached the berth: the last path section has
its passage mark, and the one before it has it too, is released, or does not exist (R100); with a release time of 0 it
expires in the same event (R101). Once EXPIRED it is given back in a release set of its own when all its sections are
CLEAR (R102, R104). Nothing else moves it. -/
def Obligations.OverlapsLockTimeAndEnd : Prop :=
  ∀ (b : Blocks) (slot : Nat) (e : RouteEntry) (r : RouteRec), b.entryAt slot = some (e, r) →
    (r.overlap = none → b.testOverlap slot = b ∧ b.testOverlapTiming slot = b ∧ b.testOverlapExpired slot = b) ∧
    ∀ p o back, r.overlap = some p → b.overlapEntry p.number = some o →
      back = (b.release (.slot slot) (o.sections.map (fun n => .sec n (.overlap slot)) ++
        o.points.map (fun q => .point q.point .overlap q.pos))).updRoute slot (fun r => { r with overlap := none }) →
      -- R98, R99
      (p.state = .claimed ∨ p.state = .locked →
        ((∀ q ∈ o.points, ∃ v, b.pointRec q.point = some v ∧ v.state = .atRest ∧ v.ref = some q.pos) →
          b.testOverlap slot = b.updRoute slot (fun r =>
            { r with overlap := some { number := p.number, state := .locked, expiry := none } })) ∧
        ((∃ q ∈ o.points, ∀ v, b.pointRec q.point = some v → v.state ≠ .atRest ∨ v.ref ≠ some q.pos) →
          b.testOverlap slot = b.updRoute slot (fun r =>
            { r with overlap := some { number := p.number, state := .claimed, expiry := none } }))) ∧
      (p.state = .timing ∨ p.state = .expired → b.testOverlap slot = b) ∧
      -- R100, R101
      (∀ n berth, berth = e.path.length → 0 < berth → e.path[berth - 1]? = some n →
        (p.state = .claimed ∨ p.state = .locked → r.state = .passing → b.isPassed n = true →
          (berth = 1 ∨ berth - 1 ≤ r.released ∨ ∃ m, e.path[berth - 2]? = some m ∧ b.isPassed m = true) →
          ∀ c, c = b.updRoute slot (fun r => { r with overlap := some { p with
              state := .timing, expiry := some (Clock.after b.clock (1000 * o.release)) } }) →
            (o.release ≠ 0 → b.testOverlapTiming slot = c) ∧
            (o.release = 0 → b.testOverlapTiming slot = c.overlapTimeout slot)) ∧
        (p.state = .timing ∨ p.state = .expired ∨ r.state ≠ .passing ∨ b.isPassed n = false ∨
            (1 < berth ∧ r.released < berth - 1 ∧ ∀ m, e.path[berth - 2]? = some m → b.isPassed m = false) →
          b.testOverlapTiming slot = b)) ∧
      ((∀ n ∈ o.sections, b.occupancy n = some .clear) → b.overlapTimeout slot = back) ∧
      ((∃ n ∈ o.sections, b.occupancy n ≠ some .clear) → b.overlapTimeout slot = b.updRoute slot (fun r =>
        { r with overlap := some { p with state := .expired, expiry := none } })) ∧
      -- R102, R104
      (p.state = .expired → (∀ n ∈ o.sections, b.occupancy n = some .clear) → b.testOverlapExpired slot = back) ∧
      (p.state ≠ .expired ∨ (∃ n ∈ o.sections, b.occupancy n ≠ some .clear) → b.testOverlapExpired slot = b)

/-! ### The border links (R125 to R142) -/

/-- LINE_STATE_INTERVAL sends a LINE STATE on every port in use, and the next is due 500 ms after. LINK_SILENCE_TIMEOUT
takes the link DOWN: from STARTING alone, and from UP with BORDER_LINK_DOWN and what follows for its lines.
TOKEN_WAIT_EXPIRY ends the ask and refuses the requests that wait for the token. HANDOVER_SEND_TIME sends TRAIN PASS
again up to three times, and then raises HANDOVER_UNCONFIRMED and ends the handover. What follows for a line whose link
is lost: its ask ends, an ASKED grant is denied and its route torn down, a GRANTED one is LOST but in PASSING, the mark
and the count are cleared and the disagreement of a line not BLOCKED ends (R136, R134, R140). On a link that is DOWN
LINK_SILENCE_TIMEOUT answers the state itself (the model's choice, log entry 2); that a step may come later than the
expiry is log entry 3. -/
def Obligations.BorderTimersExpire : Prop :=
  (∀ s : State, s.asleep = false → s.settled = true →
    (∀ d, s.blocks.lineStateDue = some d → Clock.reached s.blocks.clock d = true →
      exec .lineStateInterval s = .next (s.ended ((List.range 4).foldl
        (fun b p => b.sendBorder p (.lineState ((portLines p).map b.lineView)))
        { s.blocks with lineStateDue := some (Clock.after d 500) })) ∧
      goesOn (exec .lineStateInterval s) (fun t =>
        t.blocks.mode = s.blocks.mode → t.blocks.lineStateDue = some (Clock.after d 500))) ∧
    ∀ port l v, s.blocks.linkRec port = some l → l.lastValid = some v →
      Clock.reached s.blocks.clock (Clock.after v 2000) = true →
      (l.state = .starting →
        exec (.linkSilenceTimeout port) s = .next (s.ended
          (s.blocks.updLink port (fun l => { l with state := .down, valid := 0, expected := none }))) ∧
        goesOn (exec (.linkSilenceTimeout port) s) (fun t =>
          (s.blocks.withLink port { l with state := .down, valid := 0, expected := none }).After t.blocks)) ∧
      (l.state = .up →
        exec (.linkSilenceTimeout port) s = .next (s.ended
          ((portLines port).foldl (fun b n => b.lineDown n (Clock.after v 2000))
            ((s.blocks.updLink port (fun l => { l with state := .down, valid := 0, expected := none })).raiseAlarm
              .borderLinkDown (.port port) (Clock.after v 2000)))) ∧
        goesOn (exec (.linkSilenceTimeout port) s) (fun t =>
          (t.blocks.linkRec port).map (fun l => (l.state, l.valid, l.expected)) = some (.down, 0, none))) ∧
      (l.state = .down → exec (.linkSilenceTimeout port) s = .next s)) ∧
  (∀ (n : Nat) (l : LineRec) (s : State), s.asleep = false → s.settled = true → s.blocks.lineRec n = some l →
    (Clock.due s.blocks.clock l.tokenAsk = true → exec (.tokenWaitExpiry n) s = .next
      (s.ended ((s.blocks.updLine n (fun l => { l with tokenAsk := none })).refuseTokenWaits n))) ∧
    ∀ h, l.handover = some h → Clock.reached s.blocks.clock h.next = true →
      (h.sends < 3 →
        exec (.handoverSendTime n) s = .next (s.ended
          ((s.blocks.sendLine n (.trainPass n h.identity)).updLine n (fun l =>
            { l with handover := some { h with sends := h.sends + 1, next := Clock.after h.next 1000 } })))) ∧
      (3 ≤ h.sends →
        exec (.handoverSendTime n) s = .next (s.ended
          ((s.blocks.raiseAlarm .handoverUnconfirmed (.line n) h.next).updLine n (fun l =>
            { l with handover := none }))) ∧
        goesOn (exec (.handoverSendTime n) s) (fun t =>
          ((s.blocks.updLine n (fun l => { l with handover := none })).enterRaise .handoverUnconfirmed (.line n)
            h.next).After t.blocks))) ∧
  -- R54: the requests that wait for a token
  (∀ (b : Blocks) (n : Nat) (hit : WaitingRec → Bool),
    (∀ w, hit w = true ↔ w.deferred = false ∧ w.storeTime = 0 ∧ ∃ e, b.routeEntry w.route = some e ∧ e.exit = .line n) →
    b.refuseTokenWaits n = (b.waiting.filter hit).foldl (fun d w => d.answer w.cell .borderRefused .none)
      { b with waiting := b.waiting.filter (fun w => !hit w) }) ∧
  -- R134, R136, R140: a line whose link is lost
  ∀ (b c d : Blocks) (n : Nat) (l : LineRec) (t : Clock), b.lineRec n = some l →
    c = (if l.tokenAsk.isSome then (b.updLine n (fun l => { l with tokenAsk := none })).refuseTokenWaits n else b) →
    (c.outgoingSlot n = none → d = c) →
    (∀ slot r p, c.outgoingSlot n = some slot → c.routeRec slot = some r → r.border = some p → d = match p.grant with
      | .none => c
      | .asked => (c.updLine n (fun l => { l with entryAsk := none })).tearDown slot
      | .granted => if r.state = .passing then c
        else c.updRoute slot (fun r => { r with border := some { p with grant := .lost } })
      | .lost => c) →
    b.lineDown n t =
      if l.token = some .blocked then d.updLine n (fun l => { l with disagreement := false, outgoingNone := 0 })
      else (d.updLine n (fun l => { l with disagreement := false, outgoingNone := 0 })).endAlarm .tokenDisagreement
        (.line n) t

/-- On a line of a link that is UP every telegram notes its sequence (R125, R126), after a telegram still open on the
port was broken off (R199; that the row's own opening character does so is log entry 16), and then: TOKEN ASK by the
rows of R132 (the give records NOT_HELD and queues its write before the GIVE); a TOKEN GIVE taken makes the token HELD;
a TOKEN DECLINE ends a running ask. -/
def Obligations.TokenTelegrams : Prop :=
  ∀ (h : TelegramHead) (line : Byte) (k : LineEntry) (l : LineRec) (s : State) (n : Nat) (b : Blocks),
    s.hears h line.toNat k l → n = line.toNat → b = (s.blocks.breakOff h.port).noteSequence h.port h.seq →
    -- TOKEN ASK
    (k.mode ≠ .bidirectional ∨ (l.givePending = false ∧ (l.token ≠ some .held ∨ l.disagreement = true ∨
        s.blocks.mode ≠ .service ∨ s.blocks.occupancy k.border ≠ some .clear ∨
        (s.blocks.sectionRec k.border).any (fun r => r.owner ≠ .free) = true ∨ s.blocks.hasHolding n = true)) →
      exec (.tokenAsk h line) s = .next (s.ended (b.sendLine n (.tokenDecline n)))) ∧
    (k.mode = .bidirectional → l.givePending = true → exec (.tokenAsk h line) s = .next (s.ended b)) ∧
    (k.mode = .bidirectional → l.givePending = false → l.token = some .held → l.disagreement = false →
      s.blocks.mode = .service → s.blocks.occupancy k.border = some .clear →
      (s.blocks.sectionRec k.border).any (fun r => r.owner ≠ .free) = false → s.blocks.hasHolding n = false →
      exec (.tokenAsk h line) s = .next (s.ended
        ((b.updLine n (fun l => { l with givePending := true, token := some .notHeld })).queueRecord
          (.token n .notHeld) (.give n))) ∧
      (s.blocks.writes.length < 32 → s.blocks.collectedOn h.port = [] → goesOn (exec (.tokenAsk h line) s) (fun t =>
        (t.blocks.lineRec n).map (fun l => (l.token, l.givePending)) = some (some .notHeld, true) ∧
          ((b.withLine n { l with givePending := true, token := some .notHeld }).withWrite
            (.record (.token n .notHeld) (.give n))).After t.blocks))) ∧
    -- TOKEN GIVE
    (k.mode = .bidirectional → l.token = some .notHeld → l.reception = none →
      exec (.tokenGive h line) s = .next (s.ended
        (((b.updLine n (fun l => { l with tokenAsk := none, token := some .held })).queueRecord
          (.token n .held) .nothing).noticeTokenHeld)) ∧
      (s.blocks.writes.length < 32 → s.blocks.collectedOn h.port = [] → goesOn (exec (.tokenGive h line) s) (fun t =>
        (t.blocks.lineRec n).map (fun l => l.token) = some (some .held) ∧
          ((b.withLine n { l with tokenAsk := none, token := some .held }).withWrite
            (.record (.token n .held) .nothing)).noticeTokenHeld.After t.blocks))) ∧
    (k.mode = .bidirectional → l.token ≠ some .notHeld → exec (.tokenGive h line) s = .next (s.ended b)) ∧
    (k.mode ≠ .bidirectional ∨ (l.token = some .notHeld ∧ l.reception ≠ none) →
      exec (.tokenGive h line) s = .next (s.ended (b.protocolError (portOf n)))) ∧
    -- TOKEN DECLINE
    (l.tokenAsk ≠ none → exec (.tokenDecline h line) s = .next
      (s.ended ((b.updLine n (fun l => { l with tokenAsk := none })).refuseTokenWaits n))) ∧
    (l.tokenAsk = none → exec (.tokenDecline h line) s = .next (s.ended b))

/-- In the same way, with the sequence noted (R125, R126) and an open telegram broken off (R199, log entry 16), an ENTRY
ASK is denied outside SERVICE, on an outbound line, or without the token right, the grant of the same reference is
repeated, and else the reception is claimed whole, or the ask denied; ENTRY GRANT and ENTRY DENY act on the line's entry
by its grant, a DENY for an entry in another state than SETTING, STALLED or LOCKED only forgetting the ask (log entry
31); ENTRY FREE gives back a reception not yet entered; TRAIN PASS is answered TRAIN TAKEN and its identity written;
TRAIN TAKEN ends the handover. -/
def Obligations.EntryAndTrainTelegrams : Prop :=
  ∀ (h : TelegramHead) (line : Byte) (ref : Word16) (f : TelegramIdentity) (identity : Option Identity) (k : LineEntry)
    (l : LineRec) (s : State) (n : Nat) (b : Blocks),
    s.hears h line.toNat k l → n = line.toNat → b = (s.blocks.breakOff h.port).noteSequence h.port h.seq →
    (match f with
     | .absent => identity = none
     | .given i => identity = some i
     | .overlong length chars => identity = Config.overlongIdentity s.blocks.freeIndex length chars) →
    -- ENTRY ASK
    (s.blocks.mode ≠ .service ∨ k.mode = .outbound ∨ (k.mode = .bidirectional ∧
        (l.token ≠ some .notHeld ∨ l.givePending = true ∨ l.disagreement = true)) →
      exec (.entryAsk h line ref f) s = .next (s.ended (b.sendLine n (.entryDeny n ref)))) ∧
    (s.blocks.mode = .service → k.mode ≠ .outbound → (k.mode = .bidirectional →
        l.token = some .notHeld ∧ l.givePending = false ∧ l.disagreement = false) →
      (∀ r, l.reception = some r → exec (.entryAsk h line ref f) s = .next (s.ended
        (if r.reference ≠ ref then b.sendLine n (.entryDeny n ref)
         else if r.grantSent then b.sendLine n (.entryGrant n ref) else b))) ∧
      (l.reception = none →
        (∀ x, b.claim (.line n) (receptionClaim k n identity) = .error x →
          exec (.entryAsk h line ref f) s = .next (s.ended (b.sendLine n (.entryDeny n ref)))) ∧
        ∀ c, b.claim (.line n) (receptionClaim k n identity) = .ok c →
          exec (.entryAsk h line ref f) s = .next (s.ended (c.updLine n (fun l => { l with
            reception := some { reference := ref, identity := identity, released := 0, grantSent := false }
            outgoingNone := 0 }))))) ∧
    -- ENTRY GRANT and ENTRY DENY
    (s.blocks.matchingGrant n ref = none →
      exec (.entryGrant h line ref) s = .next (s.ended (b.sendLine n (.entryFree n ref))) ∧
      exec (.entryDeny h line ref) s = .next (s.ended b)) ∧
    (∀ slot r p, s.blocks.matchingGrant n ref = some (slot, r, p) →
      (p.grant = .asked →
        exec (.entryGrant h line ref) s = .next (s.ended
          ((b.updLine n (fun l => { l with entryAsk := none })).updRoute slot (fun r =>
            { r with border := some { p with grant := .granted, expiry := none } }))) ∧
        (r.state = .setting ∨ r.state = .stalled ∨ r.state = .locked →
          exec (.entryDeny h line ref) s = .next (s.ended
            ((b.updLine n (fun l => { l with entryAsk := none })).tearDown slot))) ∧
        (r.state ≠ .setting → r.state ≠ .stalled → r.state ≠ .locked →
          exec (.entryDeny h line ref) s = .next (s.ended (b.updLine n (fun l => { l with entryAsk := none }))))) ∧
      (p.grant = .none →
        exec (.entryGrant h line ref) s = .next (s.ended (b.sendLine n (.entryFree n ref)))) ∧
      (p.grant = .granted ∨ p.grant = .lost → exec (.entryGrant h line ref) s = .next (s.ended b)) ∧
      (p.grant ≠ .asked → exec (.entryDeny h line ref) s = .next (s.ended b))) ∧
    -- ENTRY FREE
    (∀ r, l.reception = some r → r.reference = ref → r.released = 0 →
      (∀ m ∈ k.recSections, s.blocks.isPassed m = false) → exec (.entryFree h line ref) s = .next (s.ended
        ((b.release (.line n) (b.receptionHolds k n 0)).endReception n))) ∧
    ((∀ r, l.reception = some r → r.reference ≠ ref ∨ r.released ≠ 0 ∨
        (∃ m ∈ k.recSections, s.blocks.isPassed m = true)) →
      exec (.entryFree h line ref) s = .next (s.ended b)) ∧
    -- TRAIN PASS and TRAIN TAKEN
    (l.reception = none →
      exec (.trainPass h line f) s = .next (s.ended (b.sendLine n (.trainTaken n)))) ∧
    (∀ r, l.reception = some r → exec (.trainPass h line f) s = .next (s.ended
      (match identity, k.recSections.head? with
       | some i, some m => ((b.sendLine n (.trainTaken n)).updLine n (fun l =>
           { l with reception := some { r with identity := identity } })).writeIdentity m (.reception n) i
       | _, _ => (b.sendLine n (.trainTaken n)).updLine n (fun l =>
           { l with reception := some { r with identity := identity } })))) ∧
    exec (.trainTaken h line) s = .next (s.ended (b.updLine n (fun l => { l with handover := none })))

/-- What an event leads to on one border line. A reception whose grant is not sent is granted when every point it still
claims is at rest in its position, and released whole and denied when one has FAILED (R139; that the points already given
back count no longer is log entry 44). Its front section is given back, with the points in it, when it was occupied, is
CLEAR, and the next one is or was occupied; after the last the record is none (R140). A handover starts when the border
section has become OCCUPIED under the line's entry in PASSING or EMERGENCY, for whose slot none was started: TRAIN PASS
goes out and is due again in a second, and one still running is raised HANDOVER_UNCONFIRMED (R141). -/
def Obligations.ReceptionsAndHandoversFollowTheTrain : Prop :=
  ∀ (b : Blocks) (n : Nat) (k : LineEntry) (l : LineRec), b.lineEntry n = some k → b.lineRec n = some l →
    (l.reception = none → b.testGrant n = b ∧ ∀ m, b.receptionPassage m n = b) ∧
    (∀ (r : Reception) (ps : List PointPos), l.reception = some r →
      (∀ q, q ∈ ps ↔ q ∈ k.recPoints ∧ ∃ x, b.pointEntry q.point = some x ∧ x.sec ∈ k.recSections.drop r.released) →
      -- R139
      (r.grantSent = true → b.testGrant n = b) ∧
      (r.grantSent = false →
        ((∃ q ∈ ps, ∃ v, b.pointRec q.point = some v ∧ v.state = .failed) → b.testGrant n =
          ((b.release (.line n) (b.receptionHolds k n r.released)).updLine n (fun l =>
            { l with reception := none, outgoingNone := 0 })).sendLine n (.entryDeny n r.reference)) ∧
        ((∀ q ∈ ps, ∀ v, b.pointRec q.point = some v → v.state ≠ .failed) →
          ((∀ q ∈ ps, ∃ v, b.pointRec q.point = some v ∧ v.state = .atRest ∧ v.ref = some q.pos) →
            b.testGrant n = (b.updLine n (fun l =>
              { l with reception := some { r with grantSent := true } })).sendLine n (.entryGrant n r.reference)) ∧
          ((∃ q ∈ ps, ∀ v, b.pointRec q.point = some v → v.state ≠ .atRest ∨ v.ref ≠ some q.pos) →
            b.testGrant n = b))) ∧
      b.receptionHolds k n r.released = (k.recSections.drop r.released).map (fun m => .sec m (.reception n)) ++
        (k.recPoints.filter (fun q => (b.pointEntry q.point).any (fun x =>
          (k.recSections.drop r.released).contains x.sec))).map (fun q => .point q.point .path q.pos) ∧
      -- R140
      (b.receptionFrontReady k r = true ↔ ∃ m, k.recSections[r.released]? = some m ∧ b.isPassed m = true ∧
        b.isClear m = true ∧ ∀ x, k.recSections[r.released + 1]? = some x →
          b.occupancy x = some .occupied ∨ b.occupancy x = some .clearing ∨ b.isPassed x = true) ∧
      (∀ m c, k.recSections[r.released]? = some m →
        c = b.release (.line n) ([.sec m (.reception n)] ++ (k.recPoints.filter (fun q =>
          (b.pointEntry q.point).any (fun x => x.sec = m))).map (fun q => .point q.point .path q.pos)) →
        b.releaseReceptionFront k n r =
          if r.released + 1 = k.recSections.length then c.updLine n (fun l =>
            { l with reception := none, outgoingNone := 0 })
          else c.updLine n (fun l => { l with reception := some { r with released := r.released + 1 } })) ∧
      ∀ m, b.receptionPassage (m + 1) n =
        if b.receptionFrontReady k r then (b.releaseReceptionFront k n r).receptionPassage m n else b) ∧
    -- R141
    (∀ slot, b.outgoingSlot n = some slot → ∃ r p, b.routeRec slot = some r ∧ r.border = some p ∧ p.line = n) ∧
    (b.outgoingSlot n = none → b.testHandover n = b ∧
      ∀ slot r p, slot < b.routes.length → b.routeRec slot = some r → r.border = some p → p.line ≠ n) ∧
    ∀ slot r c, b.outgoingSlot n = some slot → b.routeRec slot = some r →
      c = (if l.handover.isSome then b.raiseAlarm .handoverUnconfirmed (.line n) b.clock else b) →
      ((∃ o ∈ b.work.occupations, o.sec = k.border) → r.state = .passing ∨ r.state = .emergency →
        (b.sectionRec k.border).map (·.owner) = some (.route slot) → l.handedSlot ≠ some slot →
        b.testHandover n = (c.sendLine n (.trainPass n r.identity)).updLine n (fun l => { l with
          handover := some { identity := r.identity, sends := 1, next := Clock.after b.clock 1000 }
          handedSlot := some slot })) ∧
      ((∀ o ∈ b.work.occupations, o.sec ≠ k.border) ∨ (r.state ≠ .passing ∧ r.state ≠ .emergency) ∨
          (b.sectionRec k.border).map (·.owner) ≠ some (.route slot) ∨ l.handedSlot = some slot →
        b.testHandover n = b)

/-- LINE_STATE from the neighbour: a telegram still open on the port is broken off, which the row's own opening
character does (the model's choice, log entry 16), the sequence noted and the views written. DOWN becomes STARTING with
valid count 1; STARTING counts, from 0 where a telegram was broken off, and is UP at 3; in UP each line of the port is
rechecked and tested. Becoming UP ends BORDER_LINK_DOWN, checks the tokens of the lines against the views (R134), gives
LOST grants back where the neighbour still holds the reception, and sends the deferred frees (R137). A recheck ends or
blocks a disagreement (R134), and a second LINE STATE in a row that shows no outgoing route releases a reception not yet
entered (R140). -/
def Obligations.LineStateBringsTheLinkUp : Prop :=
  ∀ (h : TelegramHead) (views : List LineView) (l : LinkRec) (v : Nat) (s : State) (b : Blocks),
    s.asleep = false → s.settled = true →
    s.blocks.inForce ≠ none → s.blocks.linkRec h.port = some l → h.sender.toNat = l.neighbour →
    b = ((s.blocks.breakOff h.port).noteSequence h.port h.seq).writeViews h.port views →
    v = (if s.blocks.collectedOn h.port = [] then l.valid else 0) →
    (l.state = .down →
      exec (.lineState h views) s = .next (s.ended (b.updLink h.port (fun l =>
        { l with state := .starting, valid := 1, lastValid := some s.blocks.clock }))) ∧
      (s.blocks.collectedOn h.port = [] → goesOn (exec (.lineState h views) s) (fun t => (b.updLink h.port (fun l =>
        { l with state := .starting, valid := 1, lastValid := some s.blocks.clock })).After t.blocks))) ∧
    (l.state = .starting → v + 1 < 3 →
      exec (.lineState h views) s = .next (s.ended (b.updLink h.port (fun l => { l with valid := v + 1 }))) ∧
      (s.blocks.collectedOn h.port = [] → goesOn (exec (.lineState h views) s) (fun t =>
        (b.updLink h.port (fun l => { l with valid := v + 1 })).After t.blocks))) ∧
    (l.state = .starting → 3 ≤ v + 1 → exec (.lineState h views) s = .next (s.ended
      ((b.updLink h.port (fun l => { l with valid := v + 1 })).linkBecomesUp h.port))) ∧
    (l.state = .up → exec (.lineState h views) s = .next (s.ended
      ((portLines h.port).foldl (fun b n => (b.recheckToken n).testOutgoing n) b))) ∧
    -- R126, R128
    (∀ (c : Blocks) (k : Nat) (x : LineView) (y : LineRec), k < 4 → views[k]? = some x →
      c.lineRec (4 * h.port + k) = some y →
      (c.writeViews h.port views).lineRec (4 * h.port + k) = some { y with view := some x }) ∧
    (∀ c d : Blocks, d = (portLines h.port).foldl Blocks.checkToken
        ((c.updLink h.port (fun l => { l with state := .up, errorReported := false })).endAlarm .borderLinkDown
          (.port h.port) c.clock) →
      c.linkBecomesUp h.port = (portLines h.port).foldl Blocks.sendDeferredFree
        ((portLines h.port).foldl (fun d n => d.recoverGrant (c.lineRec n) n) d)) ∧
    ∀ (c : Blocks) (n : Nat) (k : LineEntry) (x : LineRec) (w : Option LineView), c.lineEntry n = some k →
      c.lineRec n = some x → w = x.view →
      (c.hasHolding n = true ↔ c.outgoingSlot n ≠ none ∨ x.reception ≠ none ∨
        ∃ v ∈ c.waiting, ∃ e, c.routeEntry v.route = some e ∧ e.exit = .line n) ∧
      -- R134
      (∀ q : Prop, (q ↔ ∃ v, w = some v ∧
          (x.token = some .held ∧ v.token = .held ∨ x.token = some .notHeld ∧ v.token = .notHeld)) →
        ∀ blocked : Blocks → Blocks, (∀ a, blocked a = Blocks.queueRecord
          ((a.updLine n (fun x => { x with disagreement := false })).updLine n (fun x =>
            { x with token := some .blocked })) (.token n .blocked) .nothing) →
        ∀ a, a = c.raiseAlarm .tokenDisagreement (.line n) c.clock →
        (¬ q ∨ k.mode ≠ .bidirectional → c.checkToken n = c) ∧
        (q → k.mode = .bidirectional → c.checkToken n =
          if c.hasHolding n then a.updLine n (fun x => { x with disagreement := true }) else blocked a) ∧
        (x.disagreement = false → c.recheckToken n = c) ∧
        (x.disagreement = true →
          (q → c.recheckToken n = if c.hasHolding n then c else blocked c) ∧
          (¬ q → c.recheckToken n = (c.updLine n (fun x => { x with disagreement := false })).endAlarm
            .tokenDisagreement (.line n) c.clock))) ∧
      -- R137
      (∀ (old : LineRec) (slot : Nat) (r : RouteRec) (p : BorderPart), c.outgoingSlot n = some slot →
        c.routeRec slot = some r → r.border = some p → ∀ q : Prop,
        (q ↔ p.grant = .lost ∧ x.token = old.token ∧ x.disagreement = old.disagreement ∧
          ∃ v, w = some v ∧ v.reception = some (BitVec.ofNat 16 r.route)) →
        (q → c.recoverGrant (some old) n =
          c.updRoute slot (fun r => { r with border := some { p with grant := .granted } })) ∧
        (¬ q → c.recoverGrant (some old) n = c)) ∧
      c.sendDeferredFree n = (match x.deferredFree with
        | none => c
        | some ref => (c.sendLine n (.entryFree n ref)).updLine n (fun x => { x with deferredFree := none })) ∧
      -- R140
      (w = none → c.testOutgoing n = c) ∧
      ∀ v m d, w = some v → m = (if v.outgoing then 0 else min 2 (x.outgoingNone + 1)) →
        d = c.updLine n (fun x => { x with outgoingNone := m }) →
        (x.reception = none ∨ m ≠ 2 ∨ (∃ y ∈ k.recSections, c.isPassed y = true) → c.testOutgoing n = d) ∧
        ∀ r, x.reception = some r → m = 2 → (∀ y ∈ k.recSections, c.isPassed y = false) → c.testOutgoing n =
          (d.release (.line n) (d.receptionHolds k n r.released)).updLine n (fun x =>
            { x with reception := none, outgoingNone := 0 })

/-- A telegram that is not valid is discarded: STARTING loses its valid count, and BORDER_PROTOCOL_ERROR is raised once
between two entries into UP. INVALID_BORDER_TELEGRAM collects its characters one by one: a marked character of a known
kind opens a telegram and breaks off one still open, one of an unknown kind is invalid at once; an unmarked character
joins the open telegram, which is judged at its kind's length, and is lost where none is open (log entries 16, 41). A
telegram whose sender or line is wrong is discarded whatever its kind; a valid one other than LINE STATE on a link that
is not UP changes only what a valid telegram notes (log entry 33). -/
def Obligations.BadTelegramsAreDiscarded : Prop :=
  ∀ (port : Nat) (l m : LinkRec) (s : State) (x : Blocks), s.asleep = false → s.settled = true →
    s.blocks.inForce ≠ none → s.blocks.linkRec port = some l → port < s.blocks.collected.length →
    m = { l with valid := if l.state = .starting then 0 else l.valid, errorReported := true } →
    x = (if l.errorReported then s.blocks.withLink port m
         else (s.blocks.withLink port m).enterRaise .borderProtocolError (.port port) s.blocks.clock) →
    (s.blocks.collectedOn port = [] → ∀ cs, (∀ d ∈ cs, LineChar.marked d = false) →
      exec (.invalidBorderTelegram port cs) s = .next (s.ended s.blocks) ∧
      ∀ c, LineChar.marked c = true →
        ((telegramLength c.data.toNat = none ∨ (telegramLength c.data.toNat = some (cs.length + 1) ∧
            s.blocks.telegramValid port l (c :: cs) = false)) →
          exec (.invalidBorderTelegram port (c :: cs)) s = .next (s.ended (s.blocks.discardTelegram port)) ∧
          goesOn (exec (.invalidBorderTelegram port (c :: cs)) s) (fun t => x.After t.blocks)) ∧
        (telegramLength c.data.toNat = some (cs.length + 1) → s.blocks.telegramValid port l (c :: cs) = true →
          exec (.invalidBorderTelegram port (c :: cs)) s = .next (s.ended s.blocks)) ∧
        ∀ n, telegramLength c.data.toNat = some n → cs.length + 1 < n →
          exec (.invalidBorderTelegram port (c :: cs)) s = .next (s.ended (s.blocks.setCollected port (c :: cs)))) ∧
    (∀ o os, s.blocks.collectedOn port = o :: os → ∀ c,
      (LineChar.marked c = true →
        (telegramLength c.data.toNat ≠ none →
          exec (.invalidBorderTelegram port [c]) s = .next (s.ended
            (((s.blocks.setCollected port []).discardTelegram port).setCollected port [c])) ∧
          goesOn (exec (.invalidBorderTelegram port [c]) s) (fun t => (x.setCollected port [c]).After t.blocks)) ∧
        (telegramLength c.data.toNat = none →
          exec (.invalidBorderTelegram port [c]) s = .next (s.ended
            (((s.blocks.setCollected port []).discardTelegram port).discardTelegram port)) ∧
          goesOn (exec (.invalidBorderTelegram port [c]) s) (fun t => (x.setCollected port []).After t.blocks))) ∧
      (LineChar.marked c = false →
        (telegramLength o.data.toNat ≠ some (os.length + 2) →
          exec (.invalidBorderTelegram port [c]) s = .next (s.ended (s.blocks.setCollected port (o :: os ++ [c])))) ∧
        (telegramLength o.data.toNat = some (os.length + 2) →
          (s.blocks.telegramValid port l (o :: os ++ [c]) = false →
            exec (.invalidBorderTelegram port [c]) s = .next (s.ended
              ((s.blocks.setCollected port []).discardTelegram port)) ∧
            goesOn (exec (.invalidBorderTelegram port [c]) s) (fun t => (x.setCollected port []).After t.blocks)) ∧
          (s.blocks.telegramValid port l (o :: os ++ [c]) = true →
            exec (.invalidBorderTelegram port [c]) s = .next (s.ended (s.blocks.setCollected port [])))))) ∧
    ∀ h : TelegramHead, h.port = port →
      (h.sender.toNat ≠ l.neighbour → ∀ views,
        exec (.lineState h views) s = .next (s.ended ((s.blocks.breakOff port).discardTelegram port)) ∧
        (s.blocks.collectedOn port = [] → goesOn (exec (.lineState h views) s) (fun t => x.After t.blocks))) ∧
      ∀ (line : Byte) (ref : Word16) (f : TelegramIdentity), ∀ c ∈ lineTelegrams h line ref f,
        (h.sender.toNat ≠ l.neighbour ∨ portOf line.toNat ≠ port ∨ s.blocks.lineEntry line.toNat = none →
          exec c s = .next (s.ended ((s.blocks.breakOff port).discardTelegram port)) ∧
          (s.blocks.collectedOn port = [] → goesOn (exec c s) (fun t => x.After t.blocks))) ∧
        (h.sender.toNat = l.neighbour → portOf line.toNat = port → s.blocks.lineEntry line.toNat ≠ none →
          l.state ≠ .up → exec c s = .next (s.ended ((s.blocks.breakOff port).noteSequence port h.seq)))

/-! ### The arm list, the start-up and the self-check -/

/-- ARM_ENTRY_EXPIRY removes the oldest entry at 30,000 ms; not yet due, it answers the state itself (the model's
choice, log entry 2). TIME_LOCK_EXPIRY enters SERVICE; the time lock's expiry then becomes none (log entry 45). That a
step may come later than the expiry is log entry 3. -/
def Obligations.ArmAndTimeLockExpire : Prop :=
  ∀ s : State, s.asleep = false → s.settled = true →
    (∀ a rest, s.blocks.arms = a :: rest → 30000 ≤ Clock.age s.blocks.clock a.armTime →
      goesOn (exec .armEntryExpiry s) (fun t => ({ s.blocks with arms := rest } : Blocks).After t.blocks)) ∧
    (∀ a rest, s.blocks.arms = a :: rest → Clock.age s.blocks.clock a.armTime < 30000 →
      exec .armEntryExpiry s = .next s) ∧
    (s.blocks.sweep.stage = .locking → Clock.due s.blocks.clock s.blocks.sweep.lockExpiry = true →
      goesOn (exec .timeLockExpiry s) (fun t =>
        (t.blocks.mode = .service ∨ t.blocks.mode = .halted) ∧
        (t.blocks.mode = .service → t.blocks.sweep =
          { stage := .ended, seen := s.blocks.sweep.seen, lockExpiry := none } ∧ t.safe = true) ∧
        t = s.ended s.blocks.enterService))

/-- SELF_CHECK: a due check whose CRC agrees is due again 60 s after; one that differs, or a memory that fails its check,
enters HALTED: SAFE low, the Route Set, the waiting list and the intake list empty, every signal commanded STOP. The
intake list emptied is R197's. That the check may come later than it is due is log entry 3. -/
def Obligations.SelfCheckHalts : Prop :=
  ∀ s : State, s.asleep = false → s.settled = true →
    (∀ w d, s.blocks.inForce = some w → s.blocks.selfCheckDue = some d → Clock.reached s.blocks.clock d = true →
      imageCrc w.bytes = imageCrcField w.bytes → goesOn (exec (.selfCheck .periodic) s) (fun t =>
        ({ s.blocks with selfCheckDue := some (Clock.after d 60000) } : Blocks).After t.blocks)) ∧
    ∀ c, ((∃ m, c = .memoryFault m) ∨ (c = .periodic ∧ ∃ w d, s.blocks.inForce = some w ∧
        s.blocks.selfCheckDue = some d ∧ Clock.reached s.blocks.clock d = true ∧
        imageCrc w.bytes ≠ imageCrcField w.bytes)) →
      goesOn (exec (.selfCheck c) s) (fun t => t.blocks.mode = .halted ∧ t.safe = false ∧ t.blocks.waiting = [] ∧
        (∀ n, t.blocks.routeRec n = none) ∧ t.port.intake = [] ∧ t.port.handed = none ∧ t.blocks.writes = [] ∧
        (∀ n r, t.blocks.signalRec n = some r → r.commanded = .stop ∧ r.owningSlot = none) ∧
        (t.blocks.inForce = s.blocks.inForce))

/-! ### The end of a store write (R174, R178, R179) -/

/-- RECORD_WRITE_END: a write that reads back equal has taken effect; a failed one leaves the stored record and raises
STORE_FAULT; the end is reported to the block that queued it, a cell being answered by it, and the next write of the list
begins. At the end of a give's write, finished or failed, the give is no longer pending and TOKEN GIVE is sent (R132). In
HALTED it reaches its end, reported to no one. -/
def Obligations.RecordWriteEnds : Prop :=
  ∀ (v : RecordValue) (r : Report) (s : State), s.held = false → s.settled = true →
    s.blocks.running = some (.record v r) →
    (s.blocks.mode = .halted → ∀ ok, goesOn (exec (.recordWriteEnd ok) s) (fun t => Blocks.After
      { s.blocks with
        running := none, persistent := if ok then s.blocks.persistent.store v else s.blocks.persistent } t.blocks)) ∧
    (s.blocks.mode ≠ .halted →
      exec (.recordWriteEnd true) s = .next (s.ended (Blocks.beginNext (Blocks.reportWrite
        { s.blocks with running := none, persistent := s.blocks.persistent.store v } r true))) ∧
      exec (.recordWriteEnd false) s = .next (s.ended (Blocks.beginNext (Blocks.reportWrite
        (Blocks.storeFault { s.blocks with running := none }) r false))) ∧
      ∀ a, r = .answer a → a.cell < 32 → s.port.isInFlight a.cell = true →
        (∀ c, s.blocks.writes.head? ≠ some (.commit c)) →
        goesOn (exec (.recordWriteEnd true) s) (fun t => t.answered a.cell a.outcome a.detail ∧ Blocks.After
          { s.blocks with
            running := s.blocks.writes.head?, writes := s.blocks.writes.tail
            persistent := s.blocks.persistent.store v } t.blocks) ∧
        goesOn (exec (.recordWriteEnd false) s) (fun t => t.answered a.cell .storeFault .none ∧
          (Blocks.enterRaise { s.blocks with running := s.blocks.writes.head?, writes := s.blocks.writes.tail }
            .storeFault .device s.blocks.clock).After t.blocks)) ∧
    ∀ n l m w ok, r = .give n → s.blocks.mode ≠ .halted → s.blocks.lineRec n = some l →
      s.blocks.linkRec (portOf n) = some m → s.blocks.inForce = some w →
      (∀ b : Blocks, b.reportWrite r ok =
        (b.updLine n (fun l => { l with givePending := false })).sendLine n (.tokenGive n)) ∧
      goesOn (exec (.recordWriteEnd ok) s) (fun t =>
        .border (portOf n) (.tokenGive n)
          (telegramChars ((Telegram.tokenGive n).bytes w.image.head.area m.transmit)) ∈ t.port.sent ∧
        ((∀ c, s.blocks.writes.head? ≠ some (.commit c)) →
          (t.blocks.lineRec n).map (·.givePending) = some false))

/-- COMMIT_WRITE_END: read back equal, the loaded image is valid, in force and set up, the load is empty, and the cell
is DONE. Set up, every section is DISTURBED, every point UNKNOWN, every signal at STOP and DARK, every restriction mark
no, every possession FREE, every unit unpolled or SYNCING, every link DOWN and every token as the image gives it, with
nothing claimed, held or waiting; the self-check starts, and the sweep. Failed, STORE_FAULT is raised and answered, the
load is RECEIVING again, and no image is in force. Which mirrors a completed commit writes is log entry 23; what a
failed one leaves in the store are free values (log entry 11). -/
def Obligations.CommitWriteEnds : Prop :=
  ∀ (cell : Nat) (s : State) (i : Image), s.asleep = false → s.settled = true →
    s.blocks.running = some (.commit cell) →
    cell < 32 → s.port.isInFlight cell = true → s.blocks.writes = [] → s.blocks.inForce = none →
    i = (WorkingCopy.ofBytes s.blocks.load.buffer).image →
    exec (.commitWriteEnd true) s = .next (s.ended
      (((s.blocks.commitCompleted cell).presentRecords ++ [MirrorRec.identity]).foldl Blocks.mark
        (s.blocks.commitCompleted cell))) ∧
    goesOn (exec (.commitWriteEnd true) s) (fun t => t.answered cell .done .none ∧
      t.blocks.inForce = some (WorkingCopy.ofBytes s.blocks.load.buffer) ∧ t.blocks.load = LoadRec.empty ∧
      t.blocks.arms = [] ∧ (t.blocks.mode = .observing ∨ t.blocks.mode = .service) ∧
      t.blocks.stored = { valid := true, bytes := s.blocks.load.buffer } ∧ t.blocks.running = none ∧
      t.blocks.persistent = Persistent.fresh i ∧
      t.blocks.selfCheckDue = some (Clock.after s.blocks.clock 60000) ∧
      t.blocks.lineStateDue = some (Clock.after s.blocks.clock 500) ∧
      (i.units ≠ [] → t.blocks.mode = .observing ∧
        t.blocks.sweep = { stage := .sweeping, seen := List.replicate i.units.length false, lockExpiry := none }) ∧
      t.blocks.sections.length = i.sections.length ∧
      (∀ r ∈ t.blocks.sections, r.occupancy = .disturbed ∧ r.owner = .free ∧ r.reminder = false ∧ r.standing = false ∧
        r.passage = false ∧ r.identity = none ∧ r.confirm = none) ∧
      t.blocks.points.length = i.points.length ∧
      (∀ p ∈ t.blocks.points, p.ref = none ∧ (∀ x ∈ p.detection, x = none) ∧ p.state = .unknown ∧ p.pathCount = 0 ∧
        p.overlapCount = 0 ∧ p.flankCount = 0 ∧ p.claimed = none ∧ p.reminder = false ∧ p.standing = false ∧
        p.possessed = false ∧ p.pendingCall = none ∧ p.moveTimer = none) ∧
      t.blocks.signals.length = i.signals.length ∧
      (∀ r ∈ t.blocks.signals, r.commanded = .stop ∧ r.shown = .dark ∧ r.proved = false ∧ r.matchCount = 0 ∧
        r.mismatchCount = 0 ∧ r.lampFault = false ∧ r.owningSlot = none ∧ r.flankCount = 0 ∧ r.possessionCount = 0 ∧
        r.reminder = false ∧ r.standing = false) ∧
      t.blocks.areas = List.replicate i.areas.length PossessionRec.free ∧ t.blocks.holds = [] ∧
      (∀ n, t.blocks.routeRec n = none) ∧ t.blocks.waiting = [] ∧
      t.blocks.units.length = i.units.length ∧
      (∀ u ∈ t.blocks.units, (u.state = .unknown ∨ u.state = .syncing) ∧ u.miss = 0 ∧ u.good = 0 ∧
        u.lastStatus = none ∧ u.lastReply = none) ∧
      (∀ n l, t.blocks.linkRec n = some l → l.state = .down ∧ l.valid = 0 ∧ l.lastValid = none ∧ l.transmit = 0 ∧
        l.expected = none ∧ l.gap = 0 ∧ l.errorReported = false) ∧
      (∀ n, n < 16 → ((t.blocks.lineRec n).isSome = true ↔ ∃ e, i.lines[n]? = some e ∧ e.mode ≠ .unfitted)) ∧
      ∀ n l, t.blocks.lineRec n = some l → ∃ e, i.lines[n]? = some e ∧
        l.token = (if e.mode = .bidirectional then some (if e.localFirst then .held else .notHeld) else none) ∧
        l.disagreement = false ∧ l.givePending = false ∧ l.tokenAsk = none ∧ l.entryAsk = none ∧ l.reception = none ∧
        l.handover = none ∧ l.handedSlot = none ∧ l.view = none ∧ l.deferredFree = none ∧ l.outgoingNone = 0) ∧
    exec (.commitWriteEnd false) s = .next (s.ended
      ((({ s.blocks.spoilStore with running := none } : Blocks).commitFailed cell).mark .identity)) ∧
    goesOn (exec (.commitWriteEnd false) s) (fun t => t.answered cell .storeFault .none ∧
      t.blocks.load = { s.blocks.load with state := .receiving } ∧ t.blocks.inForce = none ∧
      (t.blocks.mode = s.blocks.mode → t.blocks.stored.valid = false ∧ t.blocks.running = none) ∧
      (Blocks.enterRaise
        { s.blocks.spoilStore with running := none, load := { s.blocks.load with state := .receiving } }
        .storeFault .device s.blocks.clock).After t.blocks)

/-! ### The mirrors (R192 to R194) -/

/-- Mirror writes: each record of a list is written whole, opening stamp, body with a zero tail, closing stamp, with a
generation of its own, the counter holds the last of them, and no other byte changes; the port chooses the order and
latches MIRROR. The records an event writes are those handed over, the places of the three lists whose content differs,
and the summary block where one of its values differs. A record that is absent, or a place beyond its list, has a body
of zeros; the bodies of all the others hold the fields of 12.4 at their offsets. That the identity block's capacities of
the staging area and of the load buffer are counted in bytes is log entry 24, and that a neighbour's token view that
12.6 does not name is shown by its code is log entry 41; that a field whose item is none shows 0, and a byte its table
does not name, is log entry 48; that the summary block is written only where one of its values differs, whatever stray
came, is log entry 47. -/
def Obligations.MirrorsShowTheRecords : Prop :=
  (∀ (p : Port) (b : Blocks) (rs : List MirrorRec), rs.Nodup → (∀ r ∈ rs, r ∈ allRecords) →
    ∃ os : List MirrorRec, os.Perm rs ∧
      (∀ k r, os[k]? = some r → ∀ j, j < r.size → (p.writeMirrors b rs).mirrorMem.read (r.addr + j) =
        (stampedRecord r.size (generationAfter p.generation (k + 1)) (b.mirrorBody p.stray r)).getD j 0) ∧
      (∀ a, (∀ r ∈ rs, a < r.addr ∨ r.addr + r.size ≤ a) → (a < 0x100 ∨ 0x104 ≤ a) →
        (p.writeMirrors b rs).mirrorMem.read a = p.mirrorMem.read a) ∧
      (p.writeMirrors b rs).generation = generationAfter p.generation rs.length ∧
      (rs ≠ [] → (p.writeMirrors b rs).mirrorMem.readBytes 0x100 4 = bytesLE 4 (generationAfter p.generation rs.length) ∧
        (p.writeMirrors b rs).notice.getLsbD 1 = true) ∧
      (p.writeMirrors b rs).hostMem = p.hostMem) ∧
  (∀ (r : MirrorRec) (g : Nat) (body : List Byte), 8 ≤ r.size →
    (stampedRecord r.size g body).take 4 = bytesLE 4 g ∧ (stampedRecord r.size g body).drop (r.size - 4) = bytesLE 4 g ∧
    ∀ k, 4 ≤ k → k < r.size - 4 → (stampedRecord r.size g body).getD k 0 = body.getD (k - 4) 0) ∧
  (∀ g, g < 4294967295 → generationAfter g 1 = g + 1) ∧ generationAfter 4294967295 1 = 1 ∧
  (∀ (s : State) (p : Port) (b c : Blocks),
    c = (b.closeChecks (Port.writeAnswers b.clock p b.work.answers).2).enterAlarms →
    (s.finish p b).port.mirrorMem = ((Port.writeAnswers b.clock p b.work.answers).1.writeMirrors c
      (changedRecords s.port (Port.writeAnswers b.clock p b.work.answers).1 s.blocks c)).mirrorMem) ∧
  (∀ (p q : Port) (b c : Blocks), (changedRecords p q b c).Nodup ∧ ∀ r, r ∈ changedRecords p q b c ↔
    r ∈ c.work.dirty ∨ (∃ k, r = .waiting k ∧ b.waiting[k]? ≠ c.waiting[k]?) ∨
      (∃ k, r = .arm k ∧ b.arms[k]? ≠ c.arms[k]?) ∨ (∃ k, r = .alarm k ∧ b.alarms[k]? ≠ c.alarms[k]?) ∨
      (r = .summary ∧ summaryBody b p.stray ≠ summaryBody c q.stray)) ∧
  ∀ (b : Blocks) (x : Option Stray) (n : Nat),
    -- absent records and empty places
    (b.sectionRec n = none → b.mirrorBody x (.sec n) = []) ∧ (b.pointRec n = none → b.mirrorBody x (.point n) = []) ∧
    (b.signalRec n = none → b.mirrorBody x (.signal n) = []) ∧ (b.routeRec n = none → b.mirrorBody x (.slot n) = []) ∧
    (b.unitRec n = none → b.mirrorBody x (.unit n) = []) ∧ (b.linkRec n = none → b.mirrorBody x (.link n) = []) ∧
    (b.lineEntry n = none ∨ b.lineRec n = none → b.mirrorBody x (.line n) = []) ∧
    (b.areas.length ≤ n → b.mirrorBody x (.area n) = []) ∧ (b.waiting.length ≤ n → b.mirrorBody x (.waiting n) = []) ∧
    (b.arms.length ≤ n → b.mirrorBody x (.arm n) = []) ∧ (b.alarms.length ≤ n → b.mirrorBody x (.alarm n) = []) ∧
    -- sections; a body's place k is the record's offset k + 4
    (∀ r, b.sectionRec n = some r → ∀ m, m = b.mirrorBody x (.sec n) →
      m.take 3 = [byte r.occupancy.code, byte r.owner.code, byte r.owner.index] ∧
      (m.getD 3 0).getLsbD 0 = r.reminder ∧ (m.getD 3 0).getLsbD 1 = r.standing ∧
      (m.getD 3 0).getLsbD 2 = r.passage ∧ (m.getD 3 0).getLsbD 3 = r.confirm.isSome ∧
      slice m 4 9 = identityBytes r.identity ∧ slice m 16 4 = clockBytes r.changedAt ∧
      slice m 20 4 = clockBytes (r.confirm.getD 0)) ∧
    -- points
    (∀ r, b.pointRec n = some r → ∀ m, m = b.mirrorBody x (.point n) →
      m[0]? = some (byte r.state.code) ∧ byteAt m 1 % 4 = positionCode r.ref ∧
      byteAt m 1 / 4 % 4 = positionCode r.claimed ∧ byteAt m 1 / 16 % 4 = positionCode (r.detection[0]?).join ∧
      byteAt m 1 / 64 = positionCode (r.detection[1]?).join ∧
      byteAt m 2 % 4 = r.pathCount % 4 ∧ byteAt m 2 / 4 % 4 = r.overlapCount % 4 ∧
      (m.getD 2 0).getLsbD 4 = r.reminder ∧ (m.getD 2 0).getLsbD 5 = r.standing ∧
      (m.getD 2 0).getLsbD 6 = r.possessed ∧ (m.getD 2 0).getLsbD 7 = r.moveTimer.isSome ∧
      m[3]? = some (byte r.flankCount) ∧
      m[4]? = some (byte (match r.pendingCall with
        | none => 0
        | some c => 128 + c)) ∧
      slice m 5 3 = (clockBytes (r.moveTimer.getD 0)).take 3) ∧
    -- signals
    (∀ r, b.signalRec n = some r → ∀ m, m = b.mirrorBody x (.signal n) →
      m.take 2 = [byte r.commanded.code, byte r.shown.code] ∧
      (m.getD 2 0).getLsbD 0 = r.proved ∧ (m.getD 2 0).getLsbD 1 = r.lampFault ∧
      (m.getD 2 0).getLsbD 2 = r.reminder ∧ (m.getD 2 0).getLsbD 3 = r.standing ∧
      (m.getD 2 0).getLsbD 4 = r.owningSlot.isSome ∧
      (r.matchCount < 4 → r.mismatchCount < 4 → byteAt m 3 % 4 = r.matchCount ∧
        byteAt m 3 / 4 % 4 = r.mismatchCount ∧ byteAt m 3 / 16 = r.possessionCount % 4) ∧
      slice m 4 2 = [byte (r.owningSlot.getD 0), byte r.flankCount]) ∧
    -- Route Set slots
    (∀ r, b.routeRec n = some r → ∀ m, m = b.mirrorBody x (.slot n) →
      m[0]? = some (byte (([.setting, .stalled, .locked, .cleared, .held, .passing, .cancelling, .emergency] :
        List RouteState).idxOf r.state + 1)) ∧
      (m.getD 1 0).getLsbD 0 = r.sweep ∧ slice m 2 2 = bytesLE 2 r.route ∧
      (r.cell = none → byteAt m 4 = 0) ∧ (∀ c, r.cell = some c → m[4]? = some (byte (128 + c))) ∧
      m[5]? = some (byte r.released) ∧ m[6]? = some (byte (r.reason.elim 0 (fun f => f.reason.code))) ∧
      slice m 8 2 = bytesLE 2 (r.reason.elim 0 (fun f => f.element.number)) ∧ slice m 10 9 = identityBytes r.identity ∧
      (r.timer = none → slice m 19 5 = [0, 0, 0, 0, 0]) ∧
      (∀ v, r.timer = some v → slice m 19 5 = byte (if v.kind = .approach then 1 else 2) :: clockBytes v.expiry) ∧
      (r.overlap = none → slice m 24 2 = [0, 0] ∧ slice m 28 4 = [0, 0, 0, 0]) ∧
      (∀ o, r.overlap = some o → slice m 24 2 =
          [byte (([.claimed, .locked, .timing, .expired] : List OverlapState).idxOf o.state + 1), byte o.number] ∧
        slice m 28 4 = clockBytes (o.expiry.getD 0)) ∧
      m[32]? = some (byte r.flank.length) ∧
      (r.flank.length ≤ 8 → ∀ k f, r.flank[k]? = some f →
        (m.getD 33 0).getLsbD k = f.substitute ∧ (m.getD 34 0).getLsbD k = f.released) ∧
      (r.border = none → slice m 35 2 = [0xFF, 0] ∧ slice m 40 4 = [0, 0, 0, 0]) ∧
      ∀ p, r.border = some p → slice m 35 2 =
          [byte p.line, byte (([.none, .asked, .granted, .lost] : List Grant).idxOf p.grant)] ∧
        slice m 40 4 = clockBytes (p.expiry.getD 0)) ∧
    -- waiting list places
    (∀ w, b.waiting[n]? = some w → ∀ m, m = b.mirrorBody x (.waiting n) →
      m[0]? = some (if w.deferred then 2 else 1) ∧ (m.getD 1 0).getLsbD 0 = w.sweep ∧
      slice m 2 2 = bytesLE 2 w.route ∧ m[4]? = some (byte w.cell) ∧ slice m 6 2 = bytesLE 2 w.storeTime ∧
      slice m 8 4 = clockBytes (w.expiry.getD 0) ∧ slice m 12 9 = identityBytes w.identity) ∧
    -- field units
    (∀ u, b.unitRec n = some u → ∀ m, m = b.mirrorBody x (.unit n) → u.nextSeq < 16 → u.miss < 4 → u.good < 4 →
      byteAt m 0 % 8 = ([.unknown, .syncing, .active, .suspect, .lost, .fault] : List UnitState).idxOf u.state + 1 ∧
      byteAt m 0 / 8 % 16 = u.nextSeq ∧
      ((m.getD 0 0).getLsbD 7 = true ↔ n ∈ b.busA.urgent ∨ n ∈ b.busB.urgent) ∧
      byteAt m 1 % 4 = u.miss ∧ byteAt m 1 / 4 % 4 = u.good ∧ (m.getD 1 0).getLsbD 4 = u.lastStatus.isSome ∧
      (u.image.length ≤ 8 → ∀ k v, u.image[k]? = some v → fieldAt m 2 2 / 4 ^ k % 4 = v.code) ∧
      (u.lastStatus = none → slice m 4 2 = [0, 0]) ∧
      (∀ l, u.lastStatus = some l → l.length ≤ 8 → ∀ k v, l[k]? = some v → fieldAt m 4 2 / 4 ^ k % 4 = v.code) ∧
      slice m 6 2 = (clockBytes (u.lastReply.getD 0)).take 2) ∧
    -- links
    (∀ l, b.linkRec n = some l → ∀ m, m = b.mirrorBody x (.link n) →
      m.take 3 = [byte (([.down, .starting, .up] : List LinkState).idxOf l.state + 1), byte l.valid, byte l.gap] ∧
      (m.getD 3 0).getLsbD 0 = l.errorReported ∧ (m.getD 3 0).getLsbD 1 = l.expected.isSome ∧
      slice m 4 2 = [l.transmit, l.expected.getD 0] ∧ slice m 6 2 = bytesLE 2 l.neighbour ∧
      slice m 8 4 = clockBytes (l.lastValid.getD 0)) ∧
    -- border lines
    (∀ e l, b.lineEntry n = some e → b.lineRec n = some l → ∀ m, m = b.mirrorBody x (.line n) →
      m[0]? = some (byte (([.unfitted, .outbound, .inbound, .bidirectional] : List Direction).idxOf e.mode)) ∧
      m[1]? = some (byte (([none, some .held, some .notHeld, some .blocked] : List (Option Token)).idxOf l.token)) ∧
      (m.getD 2 0).getLsbD 0 = l.disagreement ∧ (m.getD 2 0).getLsbD 1 = l.givePending ∧
      (m.getD 2 0).getLsbD 2 = l.tokenAsk.isSome ∧ (m.getD 2 0).getLsbD 3 = l.entryAsk.isSome ∧
      (m.getD 2 0).getLsbD 4 = l.reception.isSome ∧ (m.getD 2 0).getLsbD 5 = l.reception.any (·.grantSent) ∧
      (m.getD 2 0).getLsbD 6 = l.view.isSome ∧
      (l.handover = none → byteAt m 3 = 0 ∧ slice m 19 9 = identityBytes none ∧ slice m 32 4 = [0, 0, 0, 0]) ∧
      (∀ v, l.handover = some v → m[3]? = some (byte (1 + 2 * v.sends)) ∧ slice m 19 9 = identityBytes v.identity ∧
        slice m 32 4 = clockBytes v.next) ∧
      m[4]? = some (byte (l.handedSlot.elim 0 (fun k => 128 + k))) ∧
      slice m 6 2 = bytesLE 2 (l.entryAsk.getD 0).toNat ∧
      (l.reception = none → byteAt m 5 = 0 ∧ slice m 8 2 = [0, 0] ∧ slice m 10 9 = identityBytes none) ∧
      (∀ r, l.reception = some r → m[5]? = some (byte r.released) ∧ slice m 8 2 = bytesLE 2 r.reference.toNat ∧
        slice m 10 9 = identityBytes r.identity) ∧
      slice m 28 4 = clockBytes (l.tokenAsk.getD 0) ∧
      (l.view = none → slice m 36 4 = [0, 0, 0, 0]) ∧
      ∀ v, l.view = some v → m[36]? = some (match v.token with
          | .none => 0
          | .held => 1
          | .notHeld => 2
          | .blocked => 3
          | .other c => c) ∧
        (m.getD 37 0).getLsbD 0 = v.borderClear ∧ (m.getD 37 0).getLsbD 1 = v.reception.isSome ∧
        (m.getD 37 0).getLsbD 2 = v.outgoing ∧ slice m 38 2 = bytesLE 2 (v.reception.getD 0).toNat) ∧
    -- possessions, arm and alarm entries
    (∀ r, b.areas[n]? = some r → ∀ m, m = b.mirrorBody x (.area n) →
      m[0]? = some (byte r.state.code) ∧ (m.getD 1 0).getLsbD 0 = r.reference.isSome ∧
      (m.getD 1 0).getLsbD 1 = r.grantedAt.isSome ∧ m[2]? = some (byte r.attempts) ∧
      slice m 4 4 = clockBytes (r.grantedAt.getD 0)) ∧
    (∀ a, b.arms[n]? = some a → b.mirrorBody x (.arm n) =
      [byte a.operation.code, byte a.target.kind.code] ++ bytesLE 2 a.target.number ++ clockBytes a.armTime) ∧
    (∀ a, b.alarms[n]? = some a → b.mirrorBody x (.alarm n) =
      [byte a.state.code, byte a.kind.code, byte a.element.kind.code, byte a.element.number] ++ bytesLE 4 a.seq ++
        clockBytes a.raisedAt ++ clockBytes a.changedAt ++ [byte a.repeats]) ∧
    -- the summary
    (∀ m, m = b.mirrorBody x .summary →
      m.take 3 = [byte b.mode.code, byte b.sweep.stage.code, byte (b.sweep.seen.countP (fun v => v))] ∧
      slice m 4 4 = clockBytes (b.sweep.lockExpiry.getD 0) ∧
      slice m 8 4 = [byte (b.routes.countP (fun r => r.isSome)), byte b.waiting.length, byte b.alarms.length,
        byte b.arms.length] ∧
      slice m 12 3 = [byte (if b.overflow then 1 else 0), byte ((x.map (fun v => v.cause.code)).getD 0),
        byte ((x.map (fun v => v.cell)).getD 0)]) ∧
    -- the identity block
    ∀ m, m = b.mirrorBody x .identity →
      fieldAt m 0 2 = 0x4844 ∧ fieldAt m 2 2 = 0x0416 ∧ byteAt m 4 = 1 ∧
      (m.getD 5 0).getLsbD 0 = b.stored.valid ∧ (∀ k, k < 23 → fieldAt m (20 + 4 * k) 4 =
        ([32, 128, 48, 16, 4, 64, 16, 48, 31, 8, 12, 10, 8, 3, 4, 4, 4, 6, 4, 16, 8, 16384,
          131072] : List Nat).getD k 0) ∧
      (b.inForce = none → slice m 8 12 = List.replicate 12 0) ∧
      ∀ w, b.inForce = some w → slice m 8 4 = bytesLE 4 w.image.head.length ∧
        slice m 12 2 = bytesLE 2 w.image.head.area ∧ byteAt m 14 = w.image.head.format % 256 ∧
        slice m 16 4 = bytesLE 4 w.image.head.crc
end

