-- ==== Sys2Proof/Laws/State.lean ====
section
/-! SUPPORT. One lemma per field per update of State and its parts, each true by rfl. -/

namespace Sys2Proof.Machine

variable (b : Blocks) (p : Port)

/-! ### mark -/

@[simp] theorem Blocks.mark_clock (r : MirrorRec) : (b.mark r).clock = b.clock := rfl

@[simp] theorem Blocks.mark_key (r : MirrorRec) : (b.mark r).key = b.key := rfl

@[simp] theorem Blocks.mark_mode (r : MirrorRec) : (b.mark r).mode = b.mode := rfl

@[simp] theorem Blocks.mark_sweep (r : MirrorRec) : (b.mark r).sweep = b.sweep := rfl

@[simp] theorem Blocks.mark_selfCheckDue (r : MirrorRec) : (b.mark r).selfCheckDue = b.selfCheckDue := rfl

@[simp] theorem Blocks.mark_stored (r : MirrorRec) : (b.mark r).stored = b.stored := rfl

@[simp] theorem Blocks.mark_persistent (r : MirrorRec) : (b.mark r).persistent = b.persistent := rfl

@[simp] theorem Blocks.mark_inForce (r : MirrorRec) : (b.mark r).inForce = b.inForce := rfl

@[simp] theorem Blocks.mark_load (r : MirrorRec) : (b.mark r).load = b.load := rfl

@[simp] theorem Blocks.mark_running (r : MirrorRec) : (b.mark r).running = b.running := rfl

@[simp] theorem Blocks.mark_writes (r : MirrorRec) : (b.mark r).writes = b.writes := rfl

@[simp] theorem Blocks.mark_sections (r : MirrorRec) : (b.mark r).sections = b.sections := rfl

@[simp] theorem Blocks.mark_points (r : MirrorRec) : (b.mark r).points = b.points := rfl

@[simp] theorem Blocks.mark_signals (r : MirrorRec) : (b.mark r).signals = b.signals := rfl

@[simp] theorem Blocks.mark_holds (r : MirrorRec) : (b.mark r).holds = b.holds := rfl

@[simp] theorem Blocks.mark_routes (r : MirrorRec) : (b.mark r).routes = b.routes := rfl

@[simp] theorem Blocks.mark_waiting (r : MirrorRec) : (b.mark r).waiting = b.waiting := rfl

@[simp] theorem Blocks.mark_units (r : MirrorRec) : (b.mark r).units = b.units := rfl

@[simp] theorem Blocks.mark_busA (r : MirrorRec) : (b.mark r).busA = b.busA := rfl

@[simp] theorem Blocks.mark_busB (r : MirrorRec) : (b.mark r).busB = b.busB := rfl

@[simp] theorem Blocks.mark_links (r : MirrorRec) : (b.mark r).links = b.links := rfl

@[simp] theorem Blocks.mark_lines (r : MirrorRec) : (b.mark r).lines = b.lines := rfl

@[simp] theorem Blocks.mark_collected (r : MirrorRec) : (b.mark r).collected = b.collected := rfl

@[simp] theorem Blocks.mark_lineStateDue (r : MirrorRec) : (b.mark r).lineStateDue = b.lineStateDue := rfl

@[simp] theorem Blocks.mark_areas (r : MirrorRec) : (b.mark r).areas = b.areas := rfl

@[simp] theorem Blocks.mark_arms (r : MirrorRec) : (b.mark r).arms = b.arms := rfl

@[simp] theorem Blocks.mark_alarms (r : MirrorRec) : (b.mark r).alarms = b.alarms := rfl

@[simp] theorem Blocks.mark_overflow (r : MirrorRec) : (b.mark r).overflow = b.overflow := rfl

@[simp] theorem Blocks.mark_alarmCounter (r : MirrorRec) : (b.mark r).alarmCounter = b.alarmCounter := rfl

@[simp] theorem Blocks.mark_freeIndex (r : MirrorRec) : (b.mark r).freeIndex = b.freeIndex := rfl

/-! ### answer -/

@[simp] theorem Blocks.answer_clock (c : Nat) (o : CellOutcome) (d : Detail) : (b.answer c o d).clock = b.clock := rfl

@[simp] theorem Blocks.answer_key (c : Nat) (o : CellOutcome) (d : Detail) : (b.answer c o d).key = b.key := rfl

@[simp] theorem Blocks.answer_mode (c : Nat) (o : CellOutcome) (d : Detail) : (b.answer c o d).mode = b.mode := rfl

@[simp] theorem Blocks.answer_sweep (c : Nat) (o : CellOutcome) (d : Detail) : (b.answer c o d).sweep = b.sweep := rfl

@[simp] theorem Blocks.answer_selfCheckDue (c : Nat) (o : CellOutcome) (d : Detail) : (b.answer c o d).selfCheckDue = b.selfCheckDue := rfl

@[simp] theorem Blocks.answer_stored (c : Nat) (o : CellOutcome) (d : Detail) : (b.answer c o d).stored = b.stored := rfl

@[simp] theorem Blocks.answer_persistent (c : Nat) (o : CellOutcome) (d : Detail) : (b.answer c o d).persistent = b.persistent := rfl

@[simp] theorem Blocks.answer_inForce (c : Nat) (o : CellOutcome) (d : Detail) : (b.answer c o d).inForce = b.inForce := rfl

@[simp] theorem Blocks.answer_load (c : Nat) (o : CellOutcome) (d : Detail) : (b.answer c o d).load = b.load := rfl

@[simp] theorem Blocks.answer_running (c : Nat) (o : CellOutcome) (d : Detail) : (b.answer c o d).running = b.running := rfl

@[simp] theorem Blocks.answer_writes (c : Nat) (o : CellOutcome) (d : Detail) : (b.answer c o d).writes = b.writes := rfl

@[simp] theorem Blocks.answer_sections (c : Nat) (o : CellOutcome) (d : Detail) : (b.answer c o d).sections = b.sections := rfl

@[simp] theorem Blocks.answer_points (c : Nat) (o : CellOutcome) (d : Detail) : (b.answer c o d).points = b.points := rfl

@[simp] theorem Blocks.answer_signals (c : Nat) (o : CellOutcome) (d : Detail) : (b.answer c o d).signals = b.signals := rfl

@[simp] theorem Blocks.answer_holds (c : Nat) (o : CellOutcome) (d : Detail) : (b.answer c o d).holds = b.holds := rfl

@[simp] theorem Blocks.answer_routes (c : Nat) (o : CellOutcome) (d : Detail) : (b.answer c o d).routes = b.routes := rfl

@[simp] theorem Blocks.answer_waiting (c : Nat) (o : CellOutcome) (d : Detail) : (b.answer c o d).waiting = b.waiting := rfl

@[simp] theorem Blocks.answer_units (c : Nat) (o : CellOutcome) (d : Detail) : (b.answer c o d).units = b.units := rfl

@[simp] theorem Blocks.answer_busA (c : Nat) (o : CellOutcome) (d : Detail) : (b.answer c o d).busA = b.busA := rfl

@[simp] theorem Blocks.answer_busB (c : Nat) (o : CellOutcome) (d : Detail) : (b.answer c o d).busB = b.busB := rfl

@[simp] theorem Blocks.answer_links (c : Nat) (o : CellOutcome) (d : Detail) : (b.answer c o d).links = b.links := rfl

@[simp] theorem Blocks.answer_lines (c : Nat) (o : CellOutcome) (d : Detail) : (b.answer c o d).lines = b.lines := rfl

@[simp] theorem Blocks.answer_collected (c : Nat) (o : CellOutcome) (d : Detail) : (b.answer c o d).collected = b.collected := rfl

@[simp] theorem Blocks.answer_lineStateDue (c : Nat) (o : CellOutcome) (d : Detail) : (b.answer c o d).lineStateDue = b.lineStateDue := rfl

@[simp] theorem Blocks.answer_areas (c : Nat) (o : CellOutcome) (d : Detail) : (b.answer c o d).areas = b.areas := rfl

@[simp] theorem Blocks.answer_arms (c : Nat) (o : CellOutcome) (d : Detail) : (b.answer c o d).arms = b.arms := rfl

@[simp] theorem Blocks.answer_alarms (c : Nat) (o : CellOutcome) (d : Detail) : (b.answer c o d).alarms = b.alarms := rfl

@[simp] theorem Blocks.answer_overflow (c : Nat) (o : CellOutcome) (d : Detail) : (b.answer c o d).overflow = b.overflow := rfl

@[simp] theorem Blocks.answer_alarmCounter (c : Nat) (o : CellOutcome) (d : Detail) : (b.answer c o d).alarmCounter = b.alarmCounter := rfl

@[simp] theorem Blocks.answer_freeIndex (c : Nat) (o : CellOutcome) (d : Detail) : (b.answer c o d).freeIndex = b.freeIndex := rfl

/-! ### raiseAlarm -/

@[simp] theorem Blocks.raiseAlarm_clock (k : AlarmKind) (e : Element) (t : Clock) : (b.raiseAlarm k e t).clock = b.clock := rfl

@[simp] theorem Blocks.raiseAlarm_key (k : AlarmKind) (e : Element) (t : Clock) : (b.raiseAlarm k e t).key = b.key := rfl

@[simp] theorem Blocks.raiseAlarm_mode (k : AlarmKind) (e : Element) (t : Clock) : (b.raiseAlarm k e t).mode = b.mode := rfl

@[simp] theorem Blocks.raiseAlarm_sweep (k : AlarmKind) (e : Element) (t : Clock) : (b.raiseAlarm k e t).sweep = b.sweep := rfl

@[simp] theorem Blocks.raiseAlarm_selfCheckDue (k : AlarmKind) (e : Element) (t : Clock) : (b.raiseAlarm k e t).selfCheckDue = b.selfCheckDue := rfl

@[simp] theorem Blocks.raiseAlarm_stored (k : AlarmKind) (e : Element) (t : Clock) : (b.raiseAlarm k e t).stored = b.stored := rfl

@[simp] theorem Blocks.raiseAlarm_persistent (k : AlarmKind) (e : Element) (t : Clock) : (b.raiseAlarm k e t).persistent = b.persistent := rfl

@[simp] theorem Blocks.raiseAlarm_inForce (k : AlarmKind) (e : Element) (t : Clock) : (b.raiseAlarm k e t).inForce = b.inForce := rfl

@[simp] theorem Blocks.raiseAlarm_load (k : AlarmKind) (e : Element) (t : Clock) : (b.raiseAlarm k e t).load = b.load := rfl

@[simp] theorem Blocks.raiseAlarm_running (k : AlarmKind) (e : Element) (t : Clock) : (b.raiseAlarm k e t).running = b.running := rfl

@[simp] theorem Blocks.raiseAlarm_writes (k : AlarmKind) (e : Element) (t : Clock) : (b.raiseAlarm k e t).writes = b.writes := rfl

@[simp] theorem Blocks.raiseAlarm_sections (k : AlarmKind) (e : Element) (t : Clock) : (b.raiseAlarm k e t).sections = b.sections := rfl

@[simp] theorem Blocks.raiseAlarm_points (k : AlarmKind) (e : Element) (t : Clock) : (b.raiseAlarm k e t).points = b.points := rfl

@[simp] theorem Blocks.raiseAlarm_signals (k : AlarmKind) (e : Element) (t : Clock) : (b.raiseAlarm k e t).signals = b.signals := rfl

@[simp] theorem Blocks.raiseAlarm_holds (k : AlarmKind) (e : Element) (t : Clock) : (b.raiseAlarm k e t).holds = b.holds := rfl

@[simp] theorem Blocks.raiseAlarm_routes (k : AlarmKind) (e : Element) (t : Clock) : (b.raiseAlarm k e t).routes = b.routes := rfl

@[simp] theorem Blocks.raiseAlarm_waiting (k : AlarmKind) (e : Element) (t : Clock) : (b.raiseAlarm k e t).waiting = b.waiting := rfl

@[simp] theorem Blocks.raiseAlarm_units (k : AlarmKind) (e : Element) (t : Clock) : (b.raiseAlarm k e t).units = b.units := rfl

@[simp] theorem Blocks.raiseAlarm_busA (k : AlarmKind) (e : Element) (t : Clock) : (b.raiseAlarm k e t).busA = b.busA := rfl

@[simp] theorem Blocks.raiseAlarm_busB (k : AlarmKind) (e : Element) (t : Clock) : (b.raiseAlarm k e t).busB = b.busB := rfl

@[simp] theorem Blocks.raiseAlarm_links (k : AlarmKind) (e : Element) (t : Clock) : (b.raiseAlarm k e t).links = b.links := rfl

@[simp] theorem Blocks.raiseAlarm_lines (k : AlarmKind) (e : Element) (t : Clock) : (b.raiseAlarm k e t).lines = b.lines := rfl

@[simp] theorem Blocks.raiseAlarm_collected (k : AlarmKind) (e : Element) (t : Clock) : (b.raiseAlarm k e t).collected = b.collected := rfl

@[simp] theorem Blocks.raiseAlarm_lineStateDue (k : AlarmKind) (e : Element) (t : Clock) : (b.raiseAlarm k e t).lineStateDue = b.lineStateDue := rfl

@[simp] theorem Blocks.raiseAlarm_areas (k : AlarmKind) (e : Element) (t : Clock) : (b.raiseAlarm k e t).areas = b.areas := rfl

@[simp] theorem Blocks.raiseAlarm_arms (k : AlarmKind) (e : Element) (t : Clock) : (b.raiseAlarm k e t).arms = b.arms := rfl

@[simp] theorem Blocks.raiseAlarm_alarms (k : AlarmKind) (e : Element) (t : Clock) : (b.raiseAlarm k e t).alarms = b.alarms := rfl

@[simp] theorem Blocks.raiseAlarm_overflow (k : AlarmKind) (e : Element) (t : Clock) : (b.raiseAlarm k e t).overflow = b.overflow := rfl

@[simp] theorem Blocks.raiseAlarm_alarmCounter (k : AlarmKind) (e : Element) (t : Clock) : (b.raiseAlarm k e t).alarmCounter = b.alarmCounter := rfl

@[simp] theorem Blocks.raiseAlarm_freeIndex (k : AlarmKind) (e : Element) (t : Clock) : (b.raiseAlarm k e t).freeIndex = b.freeIndex := rfl

/-! ### endAlarm -/

@[simp] theorem Blocks.endAlarm_clock (k : AlarmKind) (e : Element) (t : Clock) : (b.endAlarm k e t).clock = b.clock := rfl

@[simp] theorem Blocks.endAlarm_key (k : AlarmKind) (e : Element) (t : Clock) : (b.endAlarm k e t).key = b.key := rfl

@[simp] theorem Blocks.endAlarm_mode (k : AlarmKind) (e : Element) (t : Clock) : (b.endAlarm k e t).mode = b.mode := rfl

@[simp] theorem Blocks.endAlarm_sweep (k : AlarmKind) (e : Element) (t : Clock) : (b.endAlarm k e t).sweep = b.sweep := rfl

@[simp] theorem Blocks.endAlarm_selfCheckDue (k : AlarmKind) (e : Element) (t : Clock) : (b.endAlarm k e t).selfCheckDue = b.selfCheckDue := rfl

@[simp] theorem Blocks.endAlarm_stored (k : AlarmKind) (e : Element) (t : Clock) : (b.endAlarm k e t).stored = b.stored := rfl

@[simp] theorem Blocks.endAlarm_persistent (k : AlarmKind) (e : Element) (t : Clock) : (b.endAlarm k e t).persistent = b.persistent := rfl

@[simp] theorem Blocks.endAlarm_inForce (k : AlarmKind) (e : Element) (t : Clock) : (b.endAlarm k e t).inForce = b.inForce := rfl

@[simp] theorem Blocks.endAlarm_load (k : AlarmKind) (e : Element) (t : Clock) : (b.endAlarm k e t).load = b.load := rfl

@[simp] theorem Blocks.endAlarm_running (k : AlarmKind) (e : Element) (t : Clock) : (b.endAlarm k e t).running = b.running := rfl

@[simp] theorem Blocks.endAlarm_writes (k : AlarmKind) (e : Element) (t : Clock) : (b.endAlarm k e t).writes = b.writes := rfl

@[simp] theorem Blocks.endAlarm_sections (k : AlarmKind) (e : Element) (t : Clock) : (b.endAlarm k e t).sections = b.sections := rfl

@[simp] theorem Blocks.endAlarm_points (k : AlarmKind) (e : Element) (t : Clock) : (b.endAlarm k e t).points = b.points := rfl

@[simp] theorem Blocks.endAlarm_signals (k : AlarmKind) (e : Element) (t : Clock) : (b.endAlarm k e t).signals = b.signals := rfl

@[simp] theorem Blocks.endAlarm_holds (k : AlarmKind) (e : Element) (t : Clock) : (b.endAlarm k e t).holds = b.holds := rfl

@[simp] theorem Blocks.endAlarm_routes (k : AlarmKind) (e : Element) (t : Clock) : (b.endAlarm k e t).routes = b.routes := rfl

@[simp] theorem Blocks.endAlarm_waiting (k : AlarmKind) (e : Element) (t : Clock) : (b.endAlarm k e t).waiting = b.waiting := rfl

@[simp] theorem Blocks.endAlarm_units (k : AlarmKind) (e : Element) (t : Clock) : (b.endAlarm k e t).units = b.units := rfl

@[simp] theorem Blocks.endAlarm_busA (k : AlarmKind) (e : Element) (t : Clock) : (b.endAlarm k e t).busA = b.busA := rfl

@[simp] theorem Blocks.endAlarm_busB (k : AlarmKind) (e : Element) (t : Clock) : (b.endAlarm k e t).busB = b.busB := rfl

@[simp] theorem Blocks.endAlarm_links (k : AlarmKind) (e : Element) (t : Clock) : (b.endAlarm k e t).links = b.links := rfl

@[simp] theorem Blocks.endAlarm_lines (k : AlarmKind) (e : Element) (t : Clock) : (b.endAlarm k e t).lines = b.lines := rfl

@[simp] theorem Blocks.endAlarm_collected (k : AlarmKind) (e : Element) (t : Clock) : (b.endAlarm k e t).collected = b.collected := rfl

@[simp] theorem Blocks.endAlarm_lineStateDue (k : AlarmKind) (e : Element) (t : Clock) : (b.endAlarm k e t).lineStateDue = b.lineStateDue := rfl

@[simp] theorem Blocks.endAlarm_areas (k : AlarmKind) (e : Element) (t : Clock) : (b.endAlarm k e t).areas = b.areas := rfl

@[simp] theorem Blocks.endAlarm_arms (k : AlarmKind) (e : Element) (t : Clock) : (b.endAlarm k e t).arms = b.arms := rfl

@[simp] theorem Blocks.endAlarm_alarms (k : AlarmKind) (e : Element) (t : Clock) : (b.endAlarm k e t).alarms = b.alarms := rfl

@[simp] theorem Blocks.endAlarm_overflow (k : AlarmKind) (e : Element) (t : Clock) : (b.endAlarm k e t).overflow = b.overflow := rfl

@[simp] theorem Blocks.endAlarm_alarmCounter (k : AlarmKind) (e : Element) (t : Clock) : (b.endAlarm k e t).alarmCounter = b.alarmCounter := rfl

@[simp] theorem Blocks.endAlarm_freeIndex (k : AlarmKind) (e : Element) (t : Clock) : (b.endAlarm k e t).freeIndex = b.freeIndex := rfl

/-! ### markFreed -/

@[simp] theorem Blocks.markFreed_clock : (b.markFreed).clock = b.clock := rfl

@[simp] theorem Blocks.markFreed_key : (b.markFreed).key = b.key := rfl

@[simp] theorem Blocks.markFreed_mode : (b.markFreed).mode = b.mode := rfl

@[simp] theorem Blocks.markFreed_sweep : (b.markFreed).sweep = b.sweep := rfl

@[simp] theorem Blocks.markFreed_selfCheckDue : (b.markFreed).selfCheckDue = b.selfCheckDue := rfl

@[simp] theorem Blocks.markFreed_stored : (b.markFreed).stored = b.stored := rfl

@[simp] theorem Blocks.markFreed_persistent : (b.markFreed).persistent = b.persistent := rfl

@[simp] theorem Blocks.markFreed_inForce : (b.markFreed).inForce = b.inForce := rfl

@[simp] theorem Blocks.markFreed_load : (b.markFreed).load = b.load := rfl

@[simp] theorem Blocks.markFreed_running : (b.markFreed).running = b.running := rfl

@[simp] theorem Blocks.markFreed_writes : (b.markFreed).writes = b.writes := rfl

@[simp] theorem Blocks.markFreed_sections : (b.markFreed).sections = b.sections := rfl

@[simp] theorem Blocks.markFreed_points : (b.markFreed).points = b.points := rfl

@[simp] theorem Blocks.markFreed_signals : (b.markFreed).signals = b.signals := rfl

@[simp] theorem Blocks.markFreed_holds : (b.markFreed).holds = b.holds := rfl

@[simp] theorem Blocks.markFreed_routes : (b.markFreed).routes = b.routes := rfl

@[simp] theorem Blocks.markFreed_waiting : (b.markFreed).waiting = b.waiting := rfl

@[simp] theorem Blocks.markFreed_units : (b.markFreed).units = b.units := rfl

@[simp] theorem Blocks.markFreed_busA : (b.markFreed).busA = b.busA := rfl

@[simp] theorem Blocks.markFreed_busB : (b.markFreed).busB = b.busB := rfl

@[simp] theorem Blocks.markFreed_links : (b.markFreed).links = b.links := rfl

@[simp] theorem Blocks.markFreed_lines : (b.markFreed).lines = b.lines := rfl

@[simp] theorem Blocks.markFreed_collected : (b.markFreed).collected = b.collected := rfl

@[simp] theorem Blocks.markFreed_lineStateDue : (b.markFreed).lineStateDue = b.lineStateDue := rfl

@[simp] theorem Blocks.markFreed_areas : (b.markFreed).areas = b.areas := rfl

@[simp] theorem Blocks.markFreed_arms : (b.markFreed).arms = b.arms := rfl

@[simp] theorem Blocks.markFreed_alarms : (b.markFreed).alarms = b.alarms := rfl

@[simp] theorem Blocks.markFreed_overflow : (b.markFreed).overflow = b.overflow := rfl

@[simp] theorem Blocks.markFreed_alarmCounter : (b.markFreed).alarmCounter = b.alarmCounter := rfl

@[simp] theorem Blocks.markFreed_freeIndex : (b.markFreed).freeIndex = b.freeIndex := rfl

/-! ### setCollected -/

@[simp] theorem Blocks.setCollected_clock (n : Nat) (cs : List LineChar) : (b.setCollected n cs).clock = b.clock := rfl

@[simp] theorem Blocks.setCollected_key (n : Nat) (cs : List LineChar) : (b.setCollected n cs).key = b.key := rfl

@[simp] theorem Blocks.setCollected_mode (n : Nat) (cs : List LineChar) : (b.setCollected n cs).mode = b.mode := rfl

@[simp] theorem Blocks.setCollected_sweep (n : Nat) (cs : List LineChar) : (b.setCollected n cs).sweep = b.sweep := rfl

@[simp] theorem Blocks.setCollected_selfCheckDue (n : Nat) (cs : List LineChar) :
    (b.setCollected n cs).selfCheckDue = b.selfCheckDue := rfl

@[simp] theorem Blocks.setCollected_stored (n : Nat) (cs : List LineChar) :
    (b.setCollected n cs).stored = b.stored := rfl

@[simp] theorem Blocks.setCollected_persistent (n : Nat) (cs : List LineChar) :
    (b.setCollected n cs).persistent = b.persistent := rfl

@[simp] theorem Blocks.setCollected_inForce (n : Nat) (cs : List LineChar) :
    (b.setCollected n cs).inForce = b.inForce := rfl

@[simp] theorem Blocks.setCollected_load (n : Nat) (cs : List LineChar) : (b.setCollected n cs).load = b.load := rfl

@[simp] theorem Blocks.setCollected_running (n : Nat) (cs : List LineChar) :
    (b.setCollected n cs).running = b.running := rfl

@[simp] theorem Blocks.setCollected_writes (n : Nat) (cs : List LineChar) :
    (b.setCollected n cs).writes = b.writes := rfl

@[simp] theorem Blocks.setCollected_sections (n : Nat) (cs : List LineChar) :
    (b.setCollected n cs).sections = b.sections := rfl

@[simp] theorem Blocks.setCollected_points (n : Nat) (cs : List LineChar) :
    (b.setCollected n cs).points = b.points := rfl

@[simp] theorem Blocks.setCollected_signals (n : Nat) (cs : List LineChar) :
    (b.setCollected n cs).signals = b.signals := rfl

@[simp] theorem Blocks.setCollected_holds (n : Nat) (cs : List LineChar) : (b.setCollected n cs).holds = b.holds := rfl

@[simp] theorem Blocks.setCollected_routes (n : Nat) (cs : List LineChar) :
    (b.setCollected n cs).routes = b.routes := rfl

@[simp] theorem Blocks.setCollected_waiting (n : Nat) (cs : List LineChar) :
    (b.setCollected n cs).waiting = b.waiting := rfl

@[simp] theorem Blocks.setCollected_units (n : Nat) (cs : List LineChar) : (b.setCollected n cs).units = b.units := rfl

@[simp] theorem Blocks.setCollected_busA (n : Nat) (cs : List LineChar) : (b.setCollected n cs).busA = b.busA := rfl

@[simp] theorem Blocks.setCollected_busB (n : Nat) (cs : List LineChar) : (b.setCollected n cs).busB = b.busB := rfl

@[simp] theorem Blocks.setCollected_links (n : Nat) (cs : List LineChar) : (b.setCollected n cs).links = b.links := rfl

@[simp] theorem Blocks.setCollected_lines (n : Nat) (cs : List LineChar) : (b.setCollected n cs).lines = b.lines := rfl

@[simp] theorem Blocks.setCollected_lineStateDue (n : Nat) (cs : List LineChar) :
    (b.setCollected n cs).lineStateDue = b.lineStateDue := rfl

@[simp] theorem Blocks.setCollected_areas (n : Nat) (cs : List LineChar) : (b.setCollected n cs).areas = b.areas := rfl

@[simp] theorem Blocks.setCollected_arms (n : Nat) (cs : List LineChar) : (b.setCollected n cs).arms = b.arms := rfl

@[simp] theorem Blocks.setCollected_alarms (n : Nat) (cs : List LineChar) :
    (b.setCollected n cs).alarms = b.alarms := rfl

@[simp] theorem Blocks.setCollected_overflow (n : Nat) (cs : List LineChar) :
    (b.setCollected n cs).overflow = b.overflow := rfl

@[simp] theorem Blocks.setCollected_alarmCounter (n : Nat) (cs : List LineChar) :
    (b.setCollected n cs).alarmCounter = b.alarmCounter := rfl

@[simp] theorem Blocks.setCollected_freeIndex (n : Nat) (cs : List LineChar) :
    (b.setCollected n cs).freeIndex = b.freeIndex := rfl

@[simp] theorem Blocks.setCollected_work (n : Nat) (cs : List LineChar) : (b.setCollected n cs).work = b.work := rfl

@[simp] theorem Blocks.setCollected_collected (n : Nat) (cs : List LineChar) :
    (b.setCollected n cs).collected = b.collected.set n cs := rfl

/-! ### failCheck -/

@[simp] theorem Blocks.failCheck_clock : (b.failCheck).clock = b.clock := rfl

@[simp] theorem Blocks.failCheck_key : (b.failCheck).key = b.key := rfl

@[simp] theorem Blocks.failCheck_mode : (b.failCheck).mode = b.mode := rfl

@[simp] theorem Blocks.failCheck_sweep : (b.failCheck).sweep = b.sweep := rfl

@[simp] theorem Blocks.failCheck_selfCheckDue : (b.failCheck).selfCheckDue = b.selfCheckDue := rfl

@[simp] theorem Blocks.failCheck_stored : (b.failCheck).stored = b.stored := rfl

@[simp] theorem Blocks.failCheck_persistent : (b.failCheck).persistent = b.persistent := rfl

@[simp] theorem Blocks.failCheck_inForce : (b.failCheck).inForce = b.inForce := rfl

@[simp] theorem Blocks.failCheck_load : (b.failCheck).load = b.load := rfl

@[simp] theorem Blocks.failCheck_running : (b.failCheck).running = b.running := rfl

@[simp] theorem Blocks.failCheck_writes : (b.failCheck).writes = b.writes := rfl

@[simp] theorem Blocks.failCheck_sections : (b.failCheck).sections = b.sections := rfl

@[simp] theorem Blocks.failCheck_points : (b.failCheck).points = b.points := rfl

@[simp] theorem Blocks.failCheck_signals : (b.failCheck).signals = b.signals := rfl

@[simp] theorem Blocks.failCheck_holds : (b.failCheck).holds = b.holds := rfl

@[simp] theorem Blocks.failCheck_routes : (b.failCheck).routes = b.routes := rfl

@[simp] theorem Blocks.failCheck_waiting : (b.failCheck).waiting = b.waiting := rfl

@[simp] theorem Blocks.failCheck_units : (b.failCheck).units = b.units := rfl

@[simp] theorem Blocks.failCheck_busA : (b.failCheck).busA = b.busA := rfl

@[simp] theorem Blocks.failCheck_busB : (b.failCheck).busB = b.busB := rfl

@[simp] theorem Blocks.failCheck_links : (b.failCheck).links = b.links := rfl

@[simp] theorem Blocks.failCheck_lines : (b.failCheck).lines = b.lines := rfl

@[simp] theorem Blocks.failCheck_collected : (b.failCheck).collected = b.collected := rfl

@[simp] theorem Blocks.failCheck_lineStateDue : (b.failCheck).lineStateDue = b.lineStateDue := rfl

@[simp] theorem Blocks.failCheck_areas : (b.failCheck).areas = b.areas := rfl

@[simp] theorem Blocks.failCheck_arms : (b.failCheck).arms = b.arms := rfl

@[simp] theorem Blocks.failCheck_alarms : (b.failCheck).alarms = b.alarms := rfl

@[simp] theorem Blocks.failCheck_overflow : (b.failCheck).overflow = b.overflow := rfl

@[simp] theorem Blocks.failCheck_alarmCounter : (b.failCheck).alarmCounter = b.alarmCounter := rfl

@[simp] theorem Blocks.failCheck_freeIndex : (b.failCheck).freeIndex = b.freeIndex := rfl

/-! ### setMode -/

@[simp] theorem Blocks.setMode_clock (m : Mode) : (b.setMode m).clock = b.clock := rfl

@[simp] theorem Blocks.setMode_key (m : Mode) : (b.setMode m).key = b.key := rfl

@[simp] theorem Blocks.setMode_mode (m : Mode) : (b.setMode m).mode = m := rfl

@[simp] theorem Blocks.setMode_sweep (m : Mode) : (b.setMode m).sweep = b.sweep := rfl

@[simp] theorem Blocks.setMode_selfCheckDue (m : Mode) : (b.setMode m).selfCheckDue = b.selfCheckDue := rfl

@[simp] theorem Blocks.setMode_stored (m : Mode) : (b.setMode m).stored = b.stored := rfl

@[simp] theorem Blocks.setMode_persistent (m : Mode) : (b.setMode m).persistent = b.persistent := rfl

@[simp] theorem Blocks.setMode_inForce (m : Mode) : (b.setMode m).inForce = b.inForce := rfl

@[simp] theorem Blocks.setMode_load (m : Mode) : (b.setMode m).load = b.load := rfl

@[simp] theorem Blocks.setMode_running (m : Mode) : (b.setMode m).running = b.running := rfl

@[simp] theorem Blocks.setMode_writes (m : Mode) : (b.setMode m).writes = b.writes := rfl

@[simp] theorem Blocks.setMode_sections (m : Mode) : (b.setMode m).sections = b.sections := rfl

@[simp] theorem Blocks.setMode_points (m : Mode) : (b.setMode m).points = b.points := rfl

@[simp] theorem Blocks.setMode_signals (m : Mode) : (b.setMode m).signals = b.signals := rfl

@[simp] theorem Blocks.setMode_holds (m : Mode) : (b.setMode m).holds = b.holds := rfl

@[simp] theorem Blocks.setMode_routes (m : Mode) : (b.setMode m).routes = b.routes := rfl

@[simp] theorem Blocks.setMode_waiting (m : Mode) : (b.setMode m).waiting = b.waiting := rfl

@[simp] theorem Blocks.setMode_units (m : Mode) : (b.setMode m).units = b.units := rfl

@[simp] theorem Blocks.setMode_busA (m : Mode) : (b.setMode m).busA = b.busA := rfl

@[simp] theorem Blocks.setMode_busB (m : Mode) : (b.setMode m).busB = b.busB := rfl

@[simp] theorem Blocks.setMode_links (m : Mode) : (b.setMode m).links = b.links := rfl

@[simp] theorem Blocks.setMode_lines (m : Mode) : (b.setMode m).lines = b.lines := rfl

@[simp] theorem Blocks.setMode_collected (m : Mode) : (b.setMode m).collected = b.collected := rfl

@[simp] theorem Blocks.setMode_lineStateDue (m : Mode) : (b.setMode m).lineStateDue = b.lineStateDue := rfl

@[simp] theorem Blocks.setMode_areas (m : Mode) : (b.setMode m).areas = b.areas := rfl

@[simp] theorem Blocks.setMode_arms (m : Mode) : (b.setMode m).arms = b.arms := rfl

@[simp] theorem Blocks.setMode_alarms (m : Mode) : (b.setMode m).alarms = b.alarms := rfl

@[simp] theorem Blocks.setMode_overflow (m : Mode) : (b.setMode m).overflow = b.overflow := rfl

@[simp] theorem Blocks.setMode_alarmCounter (m : Mode) : (b.setMode m).alarmCounter = b.alarmCounter := rfl

@[simp] theorem Blocks.setMode_freeIndex (m : Mode) : (b.setMode m).freeIndex = b.freeIndex := rfl

/-! ### The hand-offs of these updates -/

@[simp] theorem Blocks.answer_answers (c : Nat) (o : CellOutcome) (d : Detail) :
    (b.answer c o d).work.answers = b.work.answers ++ [{ cell := c, outcome := o, detail := d }] := rfl

@[simp] theorem Blocks.mark_answers (r : MirrorRec) : (b.mark r).work.answers = b.work.answers := rfl

@[simp] theorem Blocks.raiseAlarm_answers (k : AlarmKind) (e : Element) (t : Clock) :
    (b.raiseAlarm k e t).work.answers = b.work.answers := rfl

@[simp] theorem Blocks.endAlarm_answers (k : AlarmKind) (e : Element) (t : Clock) :
    (b.endAlarm k e t).work.answers = b.work.answers := rfl

@[simp] theorem Blocks.raiseAlarm_alarmOps (k : AlarmKind) (e : Element) (t : Clock) :
    (b.raiseAlarm k e t).work.alarms = b.work.alarms ++ [.raised k e t] := rfl

@[simp] theorem Blocks.endAlarm_alarmOps (k : AlarmKind) (e : Element) (t : Clock) :
    (b.endAlarm k e t).work.alarms = b.work.alarms ++ [.ended k e t] := rfl

@[simp] theorem Blocks.failCheck_halt : b.failCheck.work.halt = true := rfl

@[simp] theorem Blocks.setMode_modeNotice (m : Mode) : (b.setMode m).work.modeNotice = true := rfl

/-! ### The port -/

@[simp] theorem Port.latch_mask (c : BitVec 6) : (p.latch c).mask = p.mask := rfl

@[simp] theorem Port.latch_intake (c : BitVec 6) : (p.latch c).intake = p.intake := rfl

@[simp] theorem Port.latch_inFlight (c : BitVec 6) : (p.latch c).inFlight = p.inFlight := rfl

@[simp] theorem Port.latch_handed (c : BitVec 6) : (p.latch c).handed = p.handed := rfl

@[simp] theorem Port.latch_strayMark (c : BitVec 6) : (p.latch c).strayMark = p.strayMark := rfl

@[simp] theorem Port.latch_stray (c : BitVec 6) : (p.latch c).stray = p.stray := rfl

@[simp] theorem Port.latch_generation (c : BitVec 6) : (p.latch c).generation = p.generation := rfl

@[simp] theorem Port.latch_hostMem (c : BitVec 6) : (p.latch c).hostMem = p.hostMem := rfl

@[simp] theorem Port.latch_mirrorMem (c : BitVec 6) : (p.latch c).mirrorMem = p.mirrorMem := rfl

@[simp] theorem Port.latch_hostRead (c : BitVec 6) : (p.latch c).hostRead = p.hostRead := rfl

@[simp] theorem Port.latch_sent (c : BitVec 6) : (p.latch c).sent = p.sent := rfl

@[simp] theorem Port.latch_notice (c : BitVec 6) : (p.latch c).notice = p.notice ||| c := rfl

@[simp] theorem Port.latchIf_mask (q : Bool) (c : BitVec 6) : (p.latchIf q c).mask = p.mask := by
  cases q <;> rfl

@[simp] theorem Port.latchIf_intake (q : Bool) (c : BitVec 6) : (p.latchIf q c).intake = p.intake := by
  cases q <;> rfl

@[simp] theorem Port.latchIf_inFlight (q : Bool) (c : BitVec 6) : (p.latchIf q c).inFlight = p.inFlight := by
  cases q <;> rfl

@[simp] theorem Port.latchIf_handed (q : Bool) (c : BitVec 6) : (p.latchIf q c).handed = p.handed := by
  cases q <;> rfl

@[simp] theorem Port.latchIf_strayMark (q : Bool) (c : BitVec 6) : (p.latchIf q c).strayMark = p.strayMark := by
  cases q <;> rfl

@[simp] theorem Port.latchIf_stray (q : Bool) (c : BitVec 6) : (p.latchIf q c).stray = p.stray := by
  cases q <;> rfl

@[simp] theorem Port.latchIf_generation (q : Bool) (c : BitVec 6) : (p.latchIf q c).generation = p.generation := by
  cases q <;> rfl

@[simp] theorem Port.latchIf_hostMem (q : Bool) (c : BitVec 6) : (p.latchIf q c).hostMem = p.hostMem := by
  cases q <;> rfl

@[simp] theorem Port.latchIf_mirrorMem (q : Bool) (c : BitVec 6) : (p.latchIf q c).mirrorMem = p.mirrorMem := by
  cases q <;> rfl

@[simp] theorem Port.latchIf_hostRead (q : Bool) (c : BitVec 6) : (p.latchIf q c).hostRead = p.hostRead := by
  cases q <;> rfl

@[simp] theorem Port.latchIf_sent (q : Bool) (c : BitVec 6) : (p.latchIf q c).sent = p.sent := by
  cases q <;> rfl

@[simp] theorem Port.setStray_mask (x : StrayCause) (c : Nat) : (p.setStray x c).mask = p.mask := rfl

@[simp] theorem Port.setStray_intake (x : StrayCause) (c : Nat) : (p.setStray x c).intake = p.intake := rfl

@[simp] theorem Port.setStray_inFlight (x : StrayCause) (c : Nat) : (p.setStray x c).inFlight = p.inFlight := rfl

@[simp] theorem Port.setStray_handed (x : StrayCause) (c : Nat) : (p.setStray x c).handed = p.handed := rfl

@[simp] theorem Port.setStray_generation (x : StrayCause) (c : Nat) : (p.setStray x c).generation = p.generation := rfl

@[simp] theorem Port.setStray_hostMem (x : StrayCause) (c : Nat) : (p.setStray x c).hostMem = p.hostMem := rfl

@[simp] theorem Port.setStray_mirrorMem (x : StrayCause) (c : Nat) : (p.setStray x c).mirrorMem = p.mirrorMem := rfl

@[simp] theorem Port.setStray_hostRead (x : StrayCause) (c : Nat) : (p.setStray x c).hostRead = p.hostRead := rfl

@[simp] theorem Port.setStray_sent (x : StrayCause) (c : Nat) : (p.setStray x c).sent = p.sent := rfl

@[simp] theorem Port.setStray_strayMark (x : StrayCause) (c : Nat) : (p.setStray x c).strayMark = true := rfl

@[simp] theorem Port.setStray_stray (x : StrayCause) (c : Nat) :
    (p.setStray x c).stray = some { cause := x, cell := c } := rfl

@[simp] theorem Port.setStray_notice (x : StrayCause) (c : Nat) :
    (p.setStray x c).notice = p.notice ||| Notice.stray := rfl

end Sys2Proof.Machine
end

