-- ==== Sys2Proof/Laws/Follows.lean ====
section
/-! SUPPORT. What the follow-ups of an event (settle) leave as they are, and what they add to: one relation, kept by
every operation of the element table, the protection unit, the route engine and the border unit that settle uses. -/

namespace Sys2Proof.Machine

/-- What the follow-ups of an event leave as it is outside HALTED. -/
structure Blocks.Calm (a b : Blocks) : Prop where
  mode : b.mode = a.mode
  sweep : b.sweep = a.sweep
  selfCheckDue : b.selfCheckDue = a.selfCheckDue
  stored : b.stored = a.stored
  persistent : b.persistent = a.persistent
  running : b.running = a.running
  writes : b.writes = a.writes
  alarms : b.alarms = a.alarms
  overflow : b.overflow = a.overflow
  alarmCounter : b.alarmCounter = a.alarmCounter
  lineStateDue : b.lineStateDue = a.lineStateDue
  exchangeA : b.busA.exchange = a.busA.exchange
  positionA : b.busA.position = a.busA.position
  exchangeB : b.busB.exchange = a.busB.exchange
  positionB : b.busB.position = a.busB.position
  seqs : b.units.map (·.nextSeq) = a.units.map (·.nextSeq)
  modeNotice : b.work.modeNotice = a.work.modeNotice
  halt : a.work.halt = true → b.work.halt = true

/-- Blocks b follows from blocks a by operations that leave this as it is and only append answers and telegrams; with full, by
operations that also leave what Calm says. -/
structure Blocks.Follows (full : Bool) (a b : Blocks) : Prop where
  clock : b.clock = a.clock
  key : b.key = a.key
  inForce : b.inForce = a.inForce
  load : b.load = a.load
  areas : b.areas = a.areas
  arms : b.arms = a.arms
  collected : b.collected = a.collected
  freeIndex : b.freeIndex = a.freeIndex
  sections : b.sections.map SectionRec.kept = a.sections.map SectionRec.kept
  points : b.points.map PointRec.kept = a.points.map PointRec.kept
  signals : b.signals.map SignalRec.kept = a.signals.map SignalRec.kept
  units : b.units.map UnitRec.kept = a.units.map UnitRec.kept
  links : b.links.map (Option.map LinkRec.kept) = a.links.map (Option.map LinkRec.kept)
  lines : b.lines.map (Option.map LineRec.kept) = a.lines.map (Option.map LineRec.kept)
  routes : b.routes.length = a.routes.length
  answers : a.work.answers <+: b.work.answers
  sent : a.work.sent <+: b.work.sent
  calm : full = true → Blocks.Calm a b

namespace Blocks.Follows

variable {full : Bool} {a b : Blocks}

theorem refl (full : Bool) (a : Blocks) : Blocks.Follows full a a :=
  ⟨rfl, rfl, rfl, rfl, rfl, rfl, rfl, rfl, rfl, rfl, rfl, rfl, rfl, rfl, rfl, List.prefix_rfl,
    List.prefix_rfl,
    fun _ => ⟨rfl, rfl, rfl, rfl, rfl, rfl, rfl, rfl, rfl, rfl, rfl, rfl, rfl, rfl, rfl, rfl, rfl, id⟩⟩

/-- A foldl of steps that follow. -/
theorem foldl {α : Type} (g : Blocks → α → Blocks) (hg : ∀ b x, Follows full a b → Follows full a (g b x))
    (l : List α) : ∀ b, Follows full a b → Follows full a (l.foldl g b) := by
  induction l with
  | nil => intro b h; exact h
  | cons x l ih => intro b h; exact ih _ (hg _ _ h)

/-! ### Elementary operations -/

@[simp] theorem mark (r : MirrorRec) (h : Follows full a b) : Follows full a (b.mark r) :=
  { h with calm := fun q => { h.calm q with } }

@[simp] theorem raiseAlarm (k : AlarmKind) (e : Element) (t : Clock) (h : Follows full a b) :
    Follows full a (b.raiseAlarm k e t) := { h with calm := fun q => { h.calm q with } }

@[simp] theorem endAlarm (k : AlarmKind) (e : Element) (t : Clock) (h : Follows full a b) :
    Follows full a (b.endAlarm k e t) := { h with calm := fun q => { h.calm q with } }

@[simp] theorem markFreed (h : Follows full a b) : Follows full a b.markFreed :=
  { h with calm := fun q => { h.calm q with } }

@[simp] theorem failCheck (h : Follows full a b) : Follows full a b.failCheck :=
  { h with calm := fun q => { h.calm q with halt := fun _ => rfl } }

@[simp] theorem clearNotices (h : Follows full a b) : Follows full a b.clearNotices :=
  { h with calm := fun q => { h.calm q with } }

@[simp] theorem clearFreed (h : Follows full a b) : Follows full a b.clearFreed :=
  { h with calm := fun q => { h.calm q with } }

@[simp] theorem answer (c : Nat) (o : CellOutcome) (d : Detail) (h : Follows full a b) :
    Follows full a (b.answer c o d) :=
  { h with answers := h.answers.trans (List.prefix_append _ _), calm := fun q => { h.calm q with } }

@[simp] theorem answerOpt (c : Option Nat) (o : CellOutcome) (d : Detail) (h : Follows full a b) :
    Follows full a (b.answerOpt c o d) := by
  cases c
  · exact h
  · exact h.answer _ _ _

@[simp] theorem setHolds (x : List HoldRec) (h : Follows full a b) : Follows full a { b with holds := x } :=
  { h with calm := fun q => { h.calm q with } }

@[simp] theorem setWaiting (x : List WaitingRec) (h : Follows full a b) : Follows full a { b with waiting := x } :=
  { h with calm := fun q => { h.calm q with } }

@[simp] theorem setFailures (x : List Nat) (h : Follows full a b) :
    Follows full a { b with work := { b.work with failures := x } } :=
  { h with calm := fun q => { h.calm q with } }

@[simp] theorem appendSent (x : List Sent) (h : Follows full a b) :
    Follows full a { b with work := { b.work with sent := b.work.sent ++ x } } :=
  { h with sent := h.sent.trans (List.prefix_append _ _), calm := fun q => { h.calm q with } }

@[simp] theorem setRoute (n : Nat) (x : Option RouteRec) (h : Follows full a b) :
    Follows full a { b with routes := b.routes.set n x } :=
  { h with routes := by simpa using h.routes, calm := fun q => { h.calm q with } }

/-- Replacing an entry of a list by one with the same view leaves the list of views. -/
theorem map_set_of_eq {α β : Type} (f : α → β) (l : List α) (n : Nat) (x y : α) (hx : l[n]? = some x)
    (hf : f y = f x) : (l.set n y).map f = l.map f := by
  apply List.ext_getElem?
  intro i
  by_cases hi : n = i
  · subst hi
    have hn : n < l.length := by
      rcases Nat.lt_or_ge n l.length with q | q
      · exact q
      · rw [List.getElem?_eq_none q] at hx; cases hx
    rw [List.getElem?_eq_getElem hn, Option.some.injEq] at hx
    simp [hn, hx, hf]
  · simp [hi]

@[simp] theorem updSection (n : Nat) (f : SectionRec → SectionRec) (hf : ∀ r, (f r).kept = r.kept)
    (h : Follows full a b) : Follows full a (b.updSection n f) := by
  unfold Blocks.updSection Blocks.sectionRec
  split
  · exact h
  · rename_i r hr
    split
    · exact h
    · refine mark _ { h with sections := ?_, calm := fun q => { h.calm q with } }
      exact (map_set_of_eq _ _ _ _ _ hr (hf r)).trans h.sections

@[simp] theorem setSlot_units (n slot : Nat) (v : SlotValue) (u : UnitRec) (hu : b.units[n]? = some u)
    (h : Follows full a b) :
    Follows full a { b with units := b.units.set n { u with image := u.image.set slot v } } :=
  { h with
    units := (map_set_of_eq UnitRec.kept _ _ _ { u with image := u.image.set slot v } hu rfl).trans h.units
    calm := fun q =>
      { h.calm q with
        seqs := (map_set_of_eq (·.nextSeq) _ _ _ { u with image := u.image.set slot v } hu rfl).trans (h.calm q).seqs } }

@[simp] theorem setUrgent (x : Bus) (l : List Nat) (h : Follows full a b) :
    Follows full a (b.setBus x { b.busRec x with urgent := l }) := by
  cases x <;> exact { h with calm := fun q => { h.calm q with } }

@[simp] theorem addUrgent (n : Nat) (h : Follows full a b) : Follows full a (b.addUrgent n) := by
  unfold Blocks.addUrgent
  split
  · exact h
  · dsimp only
    split
    · exact h
    · exact (h.setUrgent _ _).mark _

@[simp] theorem setSlot (n slot : Nat) (v : SlotValue) (u : Bool) (h : Follows full a b) :
    Follows full a (b.setSlot n slot v u) := by
  unfold Blocks.setSlot Blocks.unitRec
  split
  · exact h
  · rename_i r hr
    split
    · exact h
    · have := (h.setSlot_units n slot v r hr).mark (.unit n)
      dsimp only
      split
      · exact this.addUrgent _
      · exact this

@[simp] theorem refreshSignal (n : Nat) (h : Follows full a b) : Follows full a (b.refreshSignal n) := by
  unfold Blocks.refreshSignal
  split
  · exact h.setSlot _ _ _ _
  · exact h

@[simp] theorem refreshPoint (n : Nat) (h : Follows full a b) : Follows full a (b.refreshPoint n) := by
  unfold Blocks.refreshPoint
  split
  · exact foldl _ (fun b c h => h.setSlot _ _ _ _) _ _ h
  · exact h

@[simp] theorem updPoint (n : Nat) (f : PointRec → PointRec) (hf : ∀ r, (f r).kept = r.kept)
    (h : Follows full a b) : Follows full a (b.updPoint n f) := by
  unfold Blocks.updPoint Blocks.pointRec
  split
  · exact h
  · rename_i r hr
    split
    · exact h
    · refine refreshPoint _ (mark _ { h with points := ?_, calm := fun q => { h.calm q with } })
      exact (map_set_of_eq _ _ _ _ _ hr (hf r)).trans h.points

@[simp] theorem updSignal (n : Nat) (f : SignalRec → SignalRec) (hf : ∀ r, (f r).kept = r.kept)
    (h : Follows full a b) : Follows full a (b.updSignal n f) := by
  unfold Blocks.updSignal Blocks.signalRec
  split
  · exact h
  · rename_i r hr
    split
    · exact h
    · refine refreshSignal _ (mark _ { h with signals := ?_, calm := fun q => { h.calm q with } })
      exact (map_set_of_eq _ _ _ _ _ hr (hf r)).trans h.signals

@[simp] theorem updRoute (slot : Nat) (f : RouteRec → RouteRec) (h : Follows full a b) :
    Follows full a (b.updRoute slot f) := by
  unfold Blocks.updRoute
  split
  · exact h
  · split
    · exact h
    · exact (h.setRoute _ _).mark _

theorem getElem?_of_join {α : Type} {l : List (Option α)} {n : Nat} {x : α} (h : (l[n]?).join = some x) :
    l[n]? = some (some x) := by
  cases hl : l[n]? with
  | none => rw [hl] at h; cases h
  | some y => rw [hl] at h; simp at h; rw [h]

@[simp] theorem updLine (n : Nat) (f : LineRec → LineRec) (hf : ∀ r, (f r).kept = r.kept)
    (h : Follows full a b) : Follows full a (b.updLine n f) := by
  unfold Blocks.updLine Blocks.lineRec
  split
  · exact h
  · rename_i r hr
    split
    · exact h
    · refine mark _ { h with lines := ?_, calm := fun q => { h.calm q with } }
      exact (map_set_of_eq (Option.map LineRec.kept) _ _ _ (some (f r)) (getElem?_of_join hr)
        (by simp [hf r])).trans h.lines

@[simp] theorem updLink (n : Nat) (f : LinkRec → LinkRec) (hf : ∀ r, (f r).kept = r.kept)
    (h : Follows full a b) : Follows full a (b.updLink n f) := by
  unfold Blocks.updLink Blocks.linkRec
  split
  · exact h
  · rename_i r hr
    have step : Follows full a { b with links := b.links.set n (some (f r)) } := by
      refine { h with links := ?_, calm := fun q => { h.calm q with } }
      exact (map_set_of_eq (Option.map LinkRec.kept) _ _ _ (some (f r)) (getElem?_of_join hr)
        (by simp [hf r])).trans h.links
    dsimp only
    split
    · exact step
    · exact step.mark _

/-! ### The border unit's sending -/

@[simp] theorem sendBorder (p : Nat) (t : Telegram) (h : Follows full a b) :
    Follows full a (b.sendBorder p t) := by
  unfold Blocks.sendBorder
  split
  · split
    · exact h
    · exact (h.updLink p (fun l => { l with transmit := l.transmit + 1 }) (fun _ => rfl)).appendSent _
  · exact h

@[simp] theorem sendLine (n : Nat) (t : Telegram) (h : Follows full a b) : Follows full a (b.sendLine n t) :=
  h.sendBorder _ _

@[simp] theorem askToken (n : Nat) (h : Follows full a b) : Follows full a (b.askToken n) := by
  unfold Blocks.askToken
  split
  · exact h
  · split
    · exact h
    · exact (h.sendLine _ _).updLine _ _ (fun _ => rfl)

@[simp] theorem sendEntryAsk (n : Nat) (r : Word16) (i : Option Identity) (h : Follows full a b) :
    Follows full a (b.sendEntryAsk n r i) := (h.sendLine _ _).updLine _ _ (fun _ => rfl)

@[simp] theorem forgetEntryAsk (n : Nat) (h : Follows full a b) : Follows full a (b.forgetEntryAsk n) :=
  h.updLine _ _ (fun _ => rfl)

@[simp] theorem freeEntry (n : Nat) (r : Word16) (h : Follows full a b) : Follows full a (b.freeEntry n r) :=
  (h.sendLine _ _).forgetEntryAsk _

@[simp] theorem borderReleased (p : BorderPart) (r : Word16) (h : Follows full a b) :
    Follows full a (b.borderReleased p r) := by
  unfold Blocks.borderReleased
  split
  · exact h.forgetEntryAsk _
  · exact h.freeEntry _ _
  · exact h.freeEntry _ _
  · split
    · exact h.freeEntry _ _
    · exact h.updLine _ _ (fun _ => rfl)

/-! ### The element table -/

@[simp] theorem overtakeCall (n : Nat) (h : Follows full a b) : Follows full a (b.overtakeCall n) := by
  unfold Blocks.overtakeCall
  split
  · exact h
  · exact (h.updPoint n (fun p => { p with pendingCall := none }) (fun _ => rfl)).answerOpt _ _ _

@[simp] theorem drive (n : Nat) (pos : Position) (h : Follows full a b) : Follows full a (b.drive n pos).1 := by
  have hp := fun t => h.updPoint n (fun p : PointRec =>
    { p with ref := some pos, state := .moving, moveTimer := t }) (fun _ => rfl)
  unfold Blocks.drive
  (repeat' split) <;> simp_all

@[simp] theorem setCommanded (n : Nat) (x : Aspect) (h : Follows full a b) :
    Follows full a (b.setCommanded n x) := by
  unfold Blocks.setCommanded
  split
  · exact h
  · split
    · exact h
    · have := h.updSignal n (fun r => { r with commanded := x, proved := false, matchCount := 0, mismatchCount := 0, lampFault := false }) (fun _ => rfl)
      dsimp only
      split
      · exact this.endAlarm _ _ _
      · exact this

@[simp] theorem commandSignal (s n : Nat) (x : Aspect) (h : Follows full a b) :
    Follows full a (b.commandSignal s n x) := by
  unfold Blocks.commandSignal
  split
  · exact h.failCheck
  · split
    · exact h.setCommanded _ _
    · exact h.failCheck

@[simp] theorem applyPointClaim (n : Nat) (k : ClaimKind) (pos : Position) (h : Follows full a b) :
    Follows full a (b.applyPointClaim n k pos) := by
  have hk : ∀ r : PointRec, ({ r.withCount k (· + 1) with claimed := some pos } : PointRec).kept = r.kept := by
    intro r; cases k <;> rfl
  unfold Blocks.applyPointClaim
  split
  · exact h
  · dsimp only
    have h' : ∀ b, Follows full a b → Follows full a
        (b.updPoint n (fun p => { p.withCount k (· + 1) with claimed := some pos })) :=
      fun _ h => h.updPoint _ _ hk
    split <;> split
    · exact (h' _ (h.overtakeCall n)).drive _ _
    · exact (h' _ h).drive _ _
    · exact h' _ (h.overtakeCall n)
    · exact h' _ h

@[simp] theorem applyItem (i : ClaimItem) (h : Follows full a b) : Follows full a (b.applyItem i) := by
  unfold Blocks.applyItem
  split
  · exact h.updSection _ _ (fun _ => rfl)
  · exact h.applyPointClaim _ _ _
  · exact (h.overtakeCall _).updPoint _ _ (fun _ => rfl)
  · exact h.updSignal _ _ (fun _ => rfl)
  · exact h.updSignal _ _ (fun _ => rfl)
  · exact h.updSignal _ _ (fun _ => rfl)

@[simp] theorem applyClaim (c : Claimant) (items : List ClaimItem) (h : Follows full a b) :
    Follows full a (b.applyClaim c items) :=
  setHolds _ (foldl _ (fun _ _ h => h.applyItem _) _ _ h)

theorem claim {b' : Blocks} (c : Claimant) (items : List ClaimItem) (h : Follows full a b)
    (hc : b.claim c items = .ok b') : Follows full a b' := by
  unfold Blocks.claim at hc
  split at hc
  · cases hc
  · cases hc; exact h.applyClaim _ _

@[simp] theorem releaseItem (x : Hold) (h : Follows full a b) : Follows full a (b.releaseItem x) := by
  unfold Blocks.releaseItem
  split
  · exact h.updSection _ _ (fun _ => rfl)
  · rename_i k _
    refine h.updPoint _ _ (fun r => ?_)
    unfold PointRec.withoutClaim
    cases k <;> dsimp only <;> split <;> rfl
  · exact h.updPoint _ _ (fun _ => rfl)
  · exact (h.setCommanded _ _).updSignal _ _ (fun _ => rfl)
  · exact h.updSignal _ _ (fun _ => rfl)
  · exact h.updSignal _ _ (fun _ => rfl)

@[simp] theorem release (c : Claimant) (items : List Hold) (h : Follows full a b) :
    Follows full a (b.release c items) := by
  unfold Blocks.release
  split
  · exact markFreed (setHolds _ (foldl _ (fun _ _ h => h.releaseItem _) _ _ h))
  · exact h.failCheck

/-! ### Overlaps (05) -/

@[simp] theorem testOverlap (n : Nat) (h : Follows full a b) : Follows full a (b.testOverlap n) := by
  unfold Blocks.testOverlap
  (repeat' split) <;> simp (maxDischargeDepth := 12) [*]

@[simp] theorem releaseOverlap (n : Nat) (h : Follows full a b) : Follows full a (b.releaseOverlap n) := by
  unfold Blocks.releaseOverlap
  split <;> simp (maxDischargeDepth := 12) [*]

@[simp] theorem overlapTimeout (n : Nat) (h : Follows full a b) : Follows full a (b.overlapTimeout n) := by
  unfold Blocks.overlapTimeout
  (repeat' split) <;> simp (maxDischargeDepth := 12) [*]

@[simp] theorem testOverlapTiming (n : Nat) (h : Follows full a b) : Follows full a (b.testOverlapTiming n) := by
  unfold Blocks.testOverlapTiming
  (repeat' split) <;> simp (maxDischargeDepth := 12) [*]

@[simp] theorem testOverlapExpired (n : Nat) (h : Follows full a b) :
    Follows full a (b.testOverlapExpired n) := by
  unfold Blocks.testOverlapExpired
  (repeat' split) <;> simp (maxDischargeDepth := 12) [*]

/-! ### The route engine (03, 04) -/

@[simp] theorem leave (n : Nat) (h : Follows full a b) : Follows full a (b.leave n) := by
  unfold Blocks.leave
  have := (h.setRoute n none).mark (.slot n)
  dsimp only
  split
  · exact this
  · refine this.updLine _ _ (fun r => ?_)
    split <;> rfl

@[simp] theorem tearDown (n : Nat) (h : Follows full a b) : Follows full a (b.tearDown n) := by
  unfold Blocks.tearDown
  split <;> simp (maxDischargeDepth := 12) [*]

@[simp] theorem wholeRelease (n : Nat) (h : Follows full a b) : Follows full a (b.wholeRelease n) := by
  unfold Blocks.wholeRelease
  split
  · exact h
  · dsimp only
    split <;> simp (maxDischargeDepth := 12) [*]

@[simp] theorem clearEntry (n : Nat) (e : RouteEntry) (r : RouteRec) (h : Follows full a b) :
    Follows full a (b.clearEntry n e r) := by
  simp (maxDischargeDepth := 12) [Blocks.clearEntry, *]

@[simp] theorem askEntry (n l : Nat) (r : RouteRec) (h : Follows full a b) : Follows full a (b.askEntry n l r) := by
  unfold Blocks.askEntry
  split <;> simp (maxDischargeDepth := 12) [*]

@[simp] theorem actLocked (n : Nat) (e : RouteEntry) (r : RouteRec) (h : Follows full a b) :
    Follows full a (b.actLocked n e r) := by
  unfold Blocks.actLocked
  (repeat' split) <;> simp (maxDischargeDepth := 12) [*]

@[simp] theorem stall (n : Nat) (r : RouteRec) (f : Finding) (h : Follows full a b) :
    Follows full a (b.stall n r f) := by
  simp (maxDischargeDepth := 12) [Blocks.stall, *]

@[simp] theorem holdEntry (n : Nat) (e : RouteEntry) (r : RouteRec) (f : Finding) (o : CellOutcome) (d : Detail)
    (h : Follows full a b) : Follows full a (b.holdEntry n e r f o d) := by
  simp (maxDischargeDepth := 12) [Blocks.holdEntry, *]

@[simp] theorem reactProofs (n : Nat) (h : Follows full a b) : Follows full a (b.reactProofs n) := by
  unfold Blocks.reactProofs
  (repeat' split) <;> simp (maxDischargeDepth := 12) [*]

@[simp] theorem reactProved (n : Nat) (h : Follows full a b) : Follows full a (b.reactProved n) := by
  unfold Blocks.reactProved
  (repeat' split) <;> simp (maxDischargeDepth := 12) [*]

@[simp] theorem reactOccupation (n i : Nat) (o : Occupation) (h : Follows full a b) :
    Follows full a (b.reactOccupation n i o) := by
  unfold Blocks.reactOccupation
  (repeat' split) <;> simp (maxDischargeDepth := 12) [Blocks.unexpectedOccupation, Blocks.passage, Blocks.passedAtStop, *]

@[simp] theorem reactOccupations (n : Nat) (h : Follows full a b) : Follows full a (b.reactOccupations n) := by
  unfold Blocks.reactOccupations
  split
  · exact h
  · refine foldl _ (fun b i h => ?_) _ _ h
    split <;> simp (maxDischargeDepth := 12) [*]

@[simp] theorem reactFailure (n p : Nat) (h : Follows full a b) : Follows full a (b.reactFailure n p) := by
  unfold Blocks.reactFailure
  (repeat' split) <;> simp (maxDischargeDepth := 12) [*]

@[simp] theorem reactRecovery (n : Nat) (h : Follows full a b) : Follows full a (b.reactRecovery n) := by
  unfold Blocks.reactRecovery
  (repeat' split) <;> simp (maxDischargeDepth := 12) [*]

@[simp] theorem releaseFront (n : Nat) (e : RouteEntry) (r : RouteRec) (h : Follows full a b) :
    Follows full a (b.releaseFront n e r) := by
  unfold Blocks.releaseFront
  split
  · exact h
  · dsimp only
    split <;> simp (maxDischargeDepth := 12) [*]

@[simp] theorem sequentialRelease (fuel n : Nat) :
    ∀ b, Follows full a b → Follows full a (Blocks.sequentialRelease fuel b n) := by
  induction fuel with
  | zero => intro b h; exact h
  | succ fuel ih =>
    intro b h
    unfold Blocks.sequentialRelease
    split
    · exact h
    · split
      · exact ih _ (h.releaseFront _ _ _)
      · exact h

@[simp] theorem reactRelease (n : Nat) (h : Follows full a b) : Follows full a (b.reactRelease n) := by
  unfold Blocks.reactRelease
  (repeat' split) <;> simp (maxDischargeDepth := 12) [*]

@[simp] theorem reactEntry (n : Nat) (h : Follows full a b) : Follows full a (b.reactEntry n) := by
  unfold Blocks.reactEntry
  have h1 := foldl (fun b p => Blocks.reactFailure b n p) (fun _ _ h => h.reactFailure _ _)
    (b.reactOccupations n).work.failures _ (h.reactOccupations n)
  simp (maxDischargeDepth := 12) [*]

/-! ### The waiting list (3.4) -/

@[simp] theorem wait (w : WaitingRec) (h : Follows full a b) : Follows full a (b.wait w) := by
  unfold Blocks.wait
  split <;> simp (maxDischargeDepth := 12) [*]

@[simp] theorem unwait (n : Nat) (h : Follows full a b) : Follows full a (b.unwait n) := h.setWaiting _

@[simp] theorem createEntry (slot : Nat) (e : RouteEntry) (n : Nat) (s : Bool) (i : Option Identity) (c : Nat)
    (x : Assignment) (h : Follows full a b) : Follows full a (b.createEntry slot e n s i c x) := by
  unfold Blocks.createEntry
  dsimp only
  refine reactEntry _ ?_
  split
  · exact (h.setRoute _ _).mark _
  · refine ((h.setRoute _ _).mark _).updLine _ _ (fun r => ?_)
    split <;> rfl

theorem availability {b' : Blocks} (e : RouteEntry) (n : Nat) (s : Bool) (i : Option Identity) (c : Nat)
    (h : Follows full a b) (hb : b.availability e n s i c = .applied b') : Follows full a b' := by
  unfold Blocks.availability at hb
  repeat' (split at hb)
  all_goals try cases hb
  rename_i hc
  exact (h.claim _ _ hc).createEntry _ _ _ _ _ _ _

@[simp] theorem examine (w : WaitingRec) (h : Follows full a b) : Follows full a (b.examine w) := by
  unfold Blocks.examine
  split
  · exact h
  · split
    · exact (h.unwait _).answer _ _ _
    · split
      · rename_i hb
        exact (h.unwait _).availability _ _ _ _ _ hb
      · exact h.askToken _
      · split
        · exact (h.unwait _).answer _ _ _
        · exact h

@[simp] theorem waitingPass (h : Follows full a b) : Follows full a b.waitingPass := by
  unfold Blocks.waitingPass
  refine foldl _ (fun b w h => ?_) _ _ h
  split <;> simp (maxDischargeDepth := 12) [*]

/-! ### The border unit's follow-ups (07) -/

@[simp] theorem endReception (n : Nat) (h : Follows full a b) : Follows full a (b.endReception n) :=
  h.updLine _ _ (fun _ => rfl)

@[simp] theorem releaseReception (n : Nat) (h : Follows full a b) : Follows full a (b.releaseReception n) := by
  unfold Blocks.releaseReception
  split <;> simp (maxDischargeDepth := 12) [*]

@[simp] theorem setReception (n : Nat) (x : Option Reception) (h : Follows full a b) :
    Follows full a (b.updLine n (fun l => { l with reception := x })) := h.updLine _ _ (fun _ => rfl)

@[simp] theorem testGrant (n : Nat) (h : Follows full a b) : Follows full a (b.testGrant n) := by
  unfold Blocks.testGrant
  (repeat' split) <;> simp (maxDischargeDepth := 12) [*]

@[simp] theorem releaseReceptionFront (e : LineEntry) (n : Nat) (r : Reception) (h : Follows full a b) :
    Follows full a (b.releaseReceptionFront e n r) := by
  unfold Blocks.releaseReceptionFront
  split
  · exact h
  · dsimp only
    split <;> simp (maxDischargeDepth := 12) [*]

@[simp] theorem receptionPassage (fuel n : Nat) :
    ∀ b, Follows full a b → Follows full a (Blocks.receptionPassage fuel b n) := by
  induction fuel with
  | zero => intro b h; exact h
  | succ fuel ih =>
    intro b h
    unfold Blocks.receptionPassage
    split
    · split
      · exact ih _ (h.releaseReceptionFront _ _ _)
      · exact h
    · exact h

@[simp] theorem startHandover (n s : Nat) (i : Option Identity) (h : Follows full a b) :
    Follows full a (b.startHandover n s i) := by
  unfold Blocks.startHandover
  dsimp only
  refine updLine _ _ (fun _ => rfl) (sendLine _ _ ?_)
  split <;> simp (maxDischargeDepth := 12) [*]

@[simp] theorem testHandover (n : Nat) (h : Follows full a b) : Follows full a (b.testHandover n) := by
  unfold Blocks.testHandover
  (repeat' split) <;> simp (maxDischargeDepth := 12) [*]

@[simp] theorem reactLine (n : Nat) (h : Follows full a b) : Follows full a (b.reactLine n) :=
  receptionPassage _ _ _ ((h.testHandover n).testGrant n)

/-! ### The whole -/

@[simp] theorem reactRound (h : Follows full a b) : Follows full a b.reactRound :=
  clearNotices (foldl _ (fun _ _ h => h.reactLine _) _ _ (foldl _ (fun _ _ h => h.reactEntry _) _ _ h))

@[simp] theorem settleRounds (fuel : Nat) : ∀ b, Follows full a b → Follows full a (Blocks.settleRounds fuel b) := by
  induction fuel with
  | zero => intro b h; exact h
  | succ fuel ih =>
    intro b h
    unfold Blocks.settleRounds
    dsimp only
    split
    · exact ih _ h.reactRound.clearFreed.waitingPass
    · exact h.reactRound.clearFreed

/-- The follow-ups of an event. -/
theorem settle (b : Blocks) : Follows full b b.settle := settleRounds _ _ (refl _ _)

end Blocks.Follows

end Sys2Proof.Machine
end

