-- ==== Sys2Proof/Laws/Halted.lean ====
section
/-! SUPPORT. What the entry to HALTED and the alarm list leave as they are. -/

namespace Sys2Proof.Machine

theorem Blocks.setBus_mode (b : Blocks) (x : Bus) (r : BusRec) : (b.setBus x r).mode = b.mode := by cases x <;> rfl

namespace Blocks.Follows

variable {a b : Blocks}

/-- From the full relation to the one that also the entry to HALTED keeps. -/
theorem weaken {full : Bool} (h : Follows full a b) : Follows false a b := { h with calm := fun q => by cases q }

theorem setBus (x : Bus) (r : BusRec) (h : Follows false a b) : Follows false a (b.setBus x r) := by
  cases x <;> exact { h with calm := fun q => by cases q }

theorem updUnit (n : Nat) (f : UnitRec → UnitRec) (hf : ∀ u, b.unitRec n = some u → (f u).kept = u.kept)
    (h : Follows false a b) : Follows false a (b.updUnit n f) := by
  unfold Blocks.updUnit
  split
  · exact h
  · rename_i u hu
    have step : Follows false a { b with units := b.units.set n (f u) } := by
      refine { h with units := ?_, calm := fun q => by cases q }
      exact (map_set_of_eq UnitRec.kept _ _ _ (f u) hu (hf u hu)).trans h.units
    dsimp only
    split
    · exact step
    · exact step.mark _

/-- A poll in HALTED changes only the exchange and the next sequence (R122). -/
theorem pollHalted (x : Bus) (n : Nat) (hm : b.mode = .halted) (h : Follows false a b) :
    Follows false a (b.poll x n) := by
  unfold Blocks.poll
  split
  · dsimp only
    refine appendSent _ (updUnit _ _ (fun u _ => ?_) (h.setBus _ _))
    rw [Blocks.setBus_mode, hm, if_neg (by simp)]
    rfl
  · exact h

theorem startPollHalted (x : Bus) (hm : b.mode = .halted) (h : Follows false a b) :
    Follows false a (b.startPoll x) := by
  unfold Blocks.startPoll
  dsimp only
  split
  · exact h
  · split
    · exact pollHalted _ _ (by cases x <;> exact hm) ((h.setBus _ _).mark _)
    · split
      · exact h
      · exact pollHalted _ _ (by cases x <;> exact hm) (h.setBus _ _)

theorem haltBus (x : Bus) (hm : b.mode = .halted) (h : Follows false a b) : Follows false a (b.haltBus x) := by
  have key : ∀ (l : List Nat) (c : Blocks), c.mode = .halted → Follows false a c →
      (l.foldl (fun c n => c.mark (.unit n)) c).mode = .halted ∧
        Follows false a (l.foldl (fun c n => c.mark (.unit n)) c) := by
    intro l
    induction l with
    | nil => intro c hc h; exact ⟨hc, h⟩
    | cons n l ih => intro c hc h; exact ih _ hc (h.mark _)
  unfold Blocks.haltBus
  have k := key (b.busRec x).urgent _ (show (b.setBus x _).mode = .halted by cases x <;> exact hm)
    (h.setBus x { b.busRec x with urgent := [], exchange := none })
  exact startPollHalted _ k.1 k.2

theorem dropRoutes (h : Follows false a b) : Follows false a b.dropRoutes := by
  unfold Blocks.dropRoutes
  refine foldl _ (fun b n h => ?_) _ _ (h.setWaiting _)
  split
  · exact (h.setRoute _ _).mark _
  · exact h

theorem haltRecords (h : Follows false a b) : Follows false a b.haltRecords := by
  have hs : ∀ r : SectionRec, r.halt.kept = r.kept := fun r => by unfold SectionRec.halt; split <;> rfl
  have hg : ∀ r : SignalRec, r.halt.kept = r.kept := fun r => by unfold SignalRec.halt; split <;> rfl
  unfold Blocks.haltRecords
  dsimp only
  have h1 := foldl (fun b n => Blocks.updSection b n SectionRec.halt) (fun _ _ h => h.updSection _ _ hs)
    (List.range b.sections.length) b h
  generalize List.foldl (fun b n => Blocks.updSection b n SectionRec.halt) b (List.range b.sections.length) = b1 at *
  have h2 := foldl (fun b n => Blocks.updPoint b n PointRec.halt) (fun _ _ h => h.updPoint _ _ (fun _ => rfl))
    (List.range b1.points.length) b1 h1
  generalize List.foldl (fun b n => Blocks.updPoint b n PointRec.halt) b1 (List.range b1.points.length) = b2 at *
  have h3 := foldl (fun b n => Blocks.updSignal b n SignalRec.halt) (fun _ _ h => h.updSignal _ _ hg)
    (List.range b2.signals.length) b2 h2
  generalize List.foldl (fun b n => Blocks.updSignal b n SignalRec.halt) b2 (List.range b2.signals.length) = b3 at *
  exact setHolds _ (foldl (fun b n => Blocks.updLine b n LineRec.halt) (fun _ _ h => h.updLine _ _ (fun _ => rfl))
    (List.range b3.lines.length) b3 h3)

theorem haltStore (h : Follows false a b) : Follows false a b.haltStore := by
  unfold Blocks.haltStore
  split <;> exact { h with calm := fun q => by cases q }

end Blocks.Follows

/-! ### The mode in HALTED -/

theorem Blocks.updUnit_mode (b : Blocks) (n : Nat) (f : UnitRec → UnitRec) : (b.updUnit n f).mode = b.mode := by
  unfold Blocks.updUnit
  split
  · rfl
  · dsimp only; split <;> rfl

theorem Blocks.poll_mode (b : Blocks) (x : Bus) (n : Nat) : (b.poll x n).mode = b.mode := by
  unfold Blocks.poll
  split
  · exact (Blocks.updUnit_mode _ _ _).trans (Blocks.setBus_mode _ _ _)
  · rfl

theorem Blocks.startPoll_mode (b : Blocks) (x : Bus) : (b.startPoll x).mode = b.mode := by
  unfold Blocks.startPoll
  dsimp only
  split
  · rfl
  · split
    · rw [Blocks.poll_mode]; exact Blocks.setBus_mode _ _ _
    · split
      · rfl
      · rw [Blocks.poll_mode]; exact Blocks.setBus_mode _ _ _

theorem Blocks.foldl_mode {α : Type} (g : Blocks → α → Blocks) (hg : ∀ b x, (g b x).mode = b.mode) (l : List α) :
    ∀ b, (l.foldl g b).mode = b.mode := by
  induction l with
  | nil => intro b; rfl
  | cons x l ih => intro b; exact (ih _).trans (hg b x)

theorem Blocks.haltBus_mode (b : Blocks) (x : Bus) : (b.haltBus x).mode = b.mode := by
  unfold Blocks.haltBus
  dsimp only
  rw [Blocks.startPoll_mode, Blocks.foldl_mode (fun (c : Blocks) n => c.mark (.unit n)) (fun _ _ => rfl),
    Blocks.setBus_mode]

theorem Blocks.dropRoutes_mode (b : Blocks) : b.dropRoutes.mode = b.mode := by
  unfold Blocks.dropRoutes
  rw [Blocks.foldl_mode]
  intro b n
  split <;> rfl

theorem Blocks.Calm.updSlots (b : Blocks) (n : Nat) : (b.refreshSignal n).mode = b.mode ∧
    (b.refreshPoint n).mode = b.mode :=
  ⟨(((Blocks.Follows.refl true b).refreshSignal n).calm rfl).mode,
    (((Blocks.Follows.refl true b).refreshPoint n).calm rfl).mode⟩

theorem Blocks.haltRecords_mode (b : Blocks) : b.haltRecords.mode = b.mode := by
  have hs : ∀ (b : Blocks) n, (b.updSection n SectionRec.halt).mode = b.mode := fun b n => by
    unfold Blocks.updSection; split
    · rfl
    · split <;> rfl
  have hp : ∀ (b : Blocks) n, (b.updPoint n PointRec.halt).mode = b.mode := fun b n => by
    unfold Blocks.updPoint; split
    · rfl
    · split
      · rfl
      · exact (Blocks.Calm.updSlots _ _).2
  have hg : ∀ (b : Blocks) n, (b.updSignal n SignalRec.halt).mode = b.mode := fun b n => by
    unfold Blocks.updSignal; split
    · rfl
    · split
      · rfl
      · exact (Blocks.Calm.updSlots _ _).1
  have hl : ∀ (b : Blocks) n, (b.updLine n LineRec.halt).mode = b.mode := fun b n => by
    unfold Blocks.updLine; split
    · rfl
    · split <;> rfl
  unfold Blocks.haltRecords
  dsimp only
  rw [Blocks.foldl_mode _ hl, Blocks.foldl_mode _ hg, Blocks.foldl_mode _ hp, Blocks.foldl_mode _ hs]

theorem Blocks.haltStore_mode (b : Blocks) : b.haltStore.mode = b.mode := by unfold Blocks.haltStore; split <;> rfl

theorem Blocks.enterHalted_mode (b : Blocks) (raise : Option Clock) : (b.enterHalted raise).mode = .halted := by
  have h0 : (b.setMode .halted).haltStore.mode = .halted := Blocks.haltStore_mode _
  unfold Blocks.enterHalted
  dsimp only
  generalize (b.setMode .halted).haltStore = c at *
  rw [Blocks.haltBus_mode, Blocks.haltBus_mode]
  split
  · rw [Blocks.haltRecords_mode, Blocks.dropRoutes_mode]; exact h0
  · rw [Blocks.raiseAlarm_mode, Blocks.haltRecords_mode, Blocks.dropRoutes_mode]; exact h0

/-- What the entry to HALTED leaves as it is. -/
theorem Blocks.Follows.enterHalted {a b : Blocks} (raise : Option Clock) (h : Blocks.Follows false a b) :
    Blocks.Follows false a (b.enterHalted raise) := by
  have h0 : (b.setMode .halted).haltStore.mode = .halted := Blocks.haltStore_mode _
  have s1 : Blocks.Follows false a (b.setMode .halted).haltStore :=
    Blocks.Follows.haltStore { h with calm := fun q => by cases q }
  unfold Blocks.enterHalted
  dsimp only
  generalize (b.setMode .halted).haltStore = c at *
  have s2 : Blocks.Follows false a { c with
      sweep := Sweep.off, selfCheckDue := none, lineStateDue := none, work := { c.work with halt := false } } :=
    { s1 with calm := fun q => by cases q }
  have h2 : Blocks.mode { c with
      sweep := Sweep.off, selfCheckDue := none, lineStateDue := none
      work := { c.work with halt := false } } = .halted := h0
  generalize ({ c with
      sweep := Sweep.off, selfCheckDue := none, lineStateDue := none
      work := { c.work with halt := false } } : Blocks) = d at *
  have h3 : d.dropRoutes.haltRecords.mode = .halted := by
    rw [Blocks.haltRecords_mode, Blocks.dropRoutes_mode, h2]
  have s3 := s2.dropRoutes.haltRecords
  generalize d.dropRoutes.haltRecords = e at *
  split
  · exact Blocks.Follows.haltBus _ (by rw [Blocks.haltBus_mode]; exact h3) (Blocks.Follows.haltBus _ h3 s3)
  · exact Blocks.Follows.haltBus _ (by rw [Blocks.haltBus_mode]; exact h3)
      (Blocks.Follows.haltBus _ h3 (s3.raiseAlarm _ _ _))

/-- Entering one raise or end changes the alarm list, its mark and its counter alone. -/
theorem Blocks.enterOp_eq (b : Blocks) (o : AlarmOp) : ∃ xs m n,
    b.enterOp o = { b with alarms := xs, overflow := m, alarmCounter := n } := by
  cases o with
  | raised k e t =>
    unfold Blocks.enterOp Blocks.enterRaise Blocks.appendAlarm
    dsimp only
    (repeat' split) <;> exact ⟨_, _, _, rfl⟩
  | ended k e t =>
    unfold Blocks.enterOp Blocks.enterEnd
    dsimp only
    (repeat' split) <;> exact ⟨_, _, _, rfl⟩

/-- Entering the raises and ends of an event changes the alarm list, its mark and its counter alone. -/
theorem Blocks.enterAlarms_eq (b : Blocks) : ∃ xs m n,
    b.enterAlarms = { b with alarms := xs, overflow := m, alarmCounter := n } := by
  unfold Blocks.enterAlarms
  generalize handedOrder b.work.alarms = ops
  induction ops generalizing b with
  | nil => exact ⟨_, _, _, rfl⟩
  | cons o ops ih =>
    obtain ⟨xs, m, n, h⟩ := Blocks.enterOp_eq b o
    obtain ⟨ys, m', n', h'⟩ := ih (b.enterOp o)
    refine ⟨ys, m', n', ?_⟩
    rw [List.foldl_cons, h', h]

theorem Blocks.Follows.enterAlarms {a b : Blocks} (h : Blocks.Follows false a b) :
    Blocks.Follows false a b.enterAlarms := by
  obtain ⟨xs, m, n, e⟩ := b.enterAlarms_eq
  rw [e]
  exact { h with calm := fun q => by cases q }

theorem Blocks.enterAlarms_mode (b : Blocks) : b.enterAlarms.mode = b.mode := by
  obtain ⟨xs, m, n, e⟩ := b.enterAlarms_eq
  rw [e]

end Sys2Proof.Machine
end

