-- ==== Sys2Proof/Laws/Memory.lean ====
section
/-! SUPPORT. What the memory operations do: every read after a write, and the canonical form kept. -/

namespace Sys2Proof.Machine

/-! ### Reading -/

theorem Memory.read_append (m n : Memory) (a : Nat) :
    Memory.read (m ++ n) a = if m.any (fun c => c.1 == a) then m.read a else n.read a := by
  induction m with
  | nil => simp
  | cons c m ih =>
    by_cases h : c.1 = a
    · simp [Memory.read, h]
    · simp [Memory.read, h, ih]

theorem Memory.read_of_unlisted (m : Memory) (a : Nat) (h : m.any (fun c => c.1 == a) = false) :
    m.read a = Exchange.blank a := by
  induction m with
  | nil => rfl
  | cons c m ih =>
    simp only [List.any_cons, Bool.or_eq_false_iff, beq_eq_false_iff_ne] at h
    simp [Memory.read, h.1, ih h.2]

theorem Memory.read_filter (m : Memory) (q : Nat → Bool) (a : Nat) :
    Memory.read (m.filter (fun c => q c.1)) a = if q a then m.read a else Exchange.blank a := by
  induction m with
  | nil => simp [Memory.read]
  | cons c m ih =>
    rcases c with ⟨x, v⟩
    by_cases hq : q x = true
    · by_cases hx : x = a
      · subst hx; simp [Memory.read, hq]
      · simp [Memory.read, hq, hx, ih]
    · by_cases hx : x = a
      · subst hx; simp [hq, ih]
      · simp [Memory.read, hq, hx, ih]

theorem Memory.read_cells (bs : List Byte) : ∀ (a x : Nat), Memory.read (Memory.cells a bs) x =
    if a ≤ x ∧ x < a + bs.length then bs.getD (x - a) 0 else Exchange.blank x := by
  induction bs with
  | nil => intro a x; simp [Memory.cells, Memory.read]
  | cons b bs ih =>
    intro a x
    unfold Memory.cells
    by_cases hx : a = x
    · subst hx
      by_cases hb : b = Exchange.blank a
      · rw [if_pos hb, ih, if_neg (by omega), if_pos (by simp)]; simp [hb]
      · rw [if_neg hb]; simp [Memory.read]
    · have hread : ∀ m : Memory, Memory.read ((a, b) :: m) x = m.read x := fun m => by simp [Memory.read, hx]
      have key : Memory.read (Memory.cells (a + 1) bs) x =
          if a ≤ x ∧ x < a + (b :: bs).length then (b :: bs).getD (x - a) 0 else Exchange.blank x := by
        rw [ih]
        by_cases hr : a + 1 ≤ x ∧ x < a + 1 + bs.length
        · rw [if_pos hr, if_pos (by simp only [List.length_cons]; omega), show x - a = (x - (a + 1)) + 1 by omega, List.getD_cons_succ]
        · rw [if_neg hr, if_neg (by simp only [List.length_cons]; omega)]
      by_cases hb : b = Exchange.blank a
      · rw [if_pos hb, key]
      · rw [if_neg hb, hread, key]

theorem Memory.mem_cells (bs : List Byte) : ∀ (a : Nat) (c : Host.Cell), c ∈ Memory.cells a bs →
    (a ≤ c.1 ∧ c.1 < a + bs.length) ∧ c.2 ≠ Exchange.blank c.1 := by
  induction bs with
  | nil => intro a c hc; simp [Memory.cells] at hc
  | cons b bs ih =>
    intro a c hc
    unfold Memory.cells at hc
    split at hc
    · have := ih _ _ hc
      exact ⟨by simp only [List.length_cons]; omega, this.2⟩
    · rename_i hb
      rcases List.mem_cons.1 hc with rfl | hc
      · exact ⟨by simp, hb⟩
      · have := ih _ _ hc
        exact ⟨by simp only [List.length_cons]; omega, this.2⟩

/-- Every byte after a write: the bytes written, and every other byte as before. -/
theorem Memory.read_write (m : Memory) (a : Nat) (bs : List Byte) (x : Nat) :
    (m.write a bs).read x = if a ≤ x ∧ x < a + bs.length then bs.getD (x - a) 0 else m.read x := by
  have low := Memory.read_filter m (fun y => decide (y < a)) x
  have high := Memory.read_filter m (fun y => decide (a + bs.length ≤ y)) x
  have mid := Memory.read_cells bs a x
  unfold Memory.write
  rw [List.append_assoc, Memory.read_append, Memory.read_append, low, mid, high]
  have unlisted : ∀ n : Memory, ¬ n.any (fun c => c.1 == x) = true → n.read x = Exchange.blank x :=
    fun n hn => Memory.read_of_unlisted n x (Bool.eq_false_iff.2 hn)
  by_cases h1 : (m.filter (fun c => decide (c.1 < a))).any (fun c => c.1 == x) = true
  · have hx : x < a := by
      simp only [List.any_eq_true, List.mem_filter, decide_eq_true_eq, beq_iff_eq] at h1
      obtain ⟨c, ⟨_, h⟩, rfl⟩ := h1; exact h
    rw [if_pos h1, if_pos (by simpa using hx), if_neg (by omega)]
  · rw [if_neg h1]
    have hlow := unlisted _ h1
    rw [low] at hlow
    by_cases h2 : (Memory.cells a bs).any (fun c => c.1 == x) = true
    · rw [if_pos h2]
      by_cases hr : a ≤ x ∧ x < a + bs.length
      · rw [if_pos hr, if_pos hr]
      · exfalso
        simp only [List.any_eq_true, beq_iff_eq] at h2
        obtain ⟨c, hc, rfl⟩ := h2
        exact hr (Memory.mem_cells _ _ _ hc).1
    · rw [if_neg h2]
      have hcells := unlisted _ h2
      rw [mid] at hcells
      by_cases hr : a ≤ x ∧ x < a + bs.length
      · rw [if_pos hr] at hcells
        rw [if_pos hr, if_neg (by simp; omega), hcells]
      · rw [if_neg hr]
        by_cases hx : x < a
        · rw [if_pos (by simpa using hx)] at hlow
          rw [if_neg (by simp; omega), hlow]
        · rw [if_pos (by simp; omega)]

theorem Memory.length_keepWhere (m : Memory) (keep : Nat → Bool) (bs : List Byte) :
    ∀ a, (m.keepWhere keep a bs).length = bs.length := by
  induction bs with
  | nil => intro a; rfl
  | cons b bs ih => intro a; simp [Memory.keepWhere, ih]

theorem Memory.getD_keepWhere (m : Memory) (keep : Nat → Bool) (bs : List Byte) :
    ∀ a i, i < bs.length → (m.keepWhere keep a bs).getD i 0 =
      if keep (a + i) then m.read (a + i) else bs.getD i 0 := by
  induction bs with
  | nil => intro a i h; simp at h
  | cons b bs ih =>
    intro a i h
    cases i with
    | zero => simp [Memory.keepWhere]
    | succ i =>
      rw [Memory.keepWhere, List.getD_cons_succ, List.getD_cons_succ, ih (a + 1) i (by simpa using h),
        show a + 1 + i = a + (i + 1) by omega]

/-- Every byte after a write that leaves some addresses as they are. -/
theorem Memory.read_writeExcept (m : Memory) (keep : Nat → Bool) (a : Nat) (bs : List Byte) (x : Nat) :
    (m.writeExcept keep a bs).read x =
      if a ≤ x ∧ x < a + bs.length ∧ keep x = false then bs.getD (x - a) 0 else m.read x := by
  unfold Memory.writeExcept
  rw [Memory.read_write, Memory.length_keepWhere]
  by_cases h : a ≤ x ∧ x < a + bs.length
  · rw [if_pos h, Memory.getD_keepWhere _ _ _ _ _ (by omega), show a + (x - a) = x by omega]
    cases hk : keep x <;> simp [h]
  · rw [if_neg h, if_neg (by tauto)]

/-! ### The canonical form -/

theorem Memory.wf_iff (m : Memory) :
    m.wf = true ↔ m.Pairwise (fun x y => x.1 < y.1) ∧ ∀ c ∈ m, c.2 ≠ Exchange.blank c.1 := by
  simp [Memory.wf]

theorem Memory.pairwise_cells (bs : List Byte) :
    ∀ a : Nat, (Memory.cells a bs).Pairwise (fun x y => x.1 < y.1) := by
  induction bs with
  | nil => intro a; simp [Memory.cells]
  | cons b bs ih =>
    intro a
    unfold Memory.cells
    split
    · exact ih _
    · refine List.pairwise_cons.2 ⟨fun c hc => ?_, ih _⟩
      have := (Memory.mem_cells bs _ c hc).1
      show a < c.1
      omega

theorem Memory.wf_filter (m : Memory) (q : Host.Cell → Bool) (h : m.wf = true) :
    Memory.wf (m.filter q) = true := by
  rw [Memory.wf_iff] at h ⊢
  exact ⟨h.1.filter _, fun c hc => h.2 c (List.mem_of_mem_filter hc)⟩

/-- A write keeps the canonical form. -/
theorem Memory.wf_write (m : Memory) (a : Nat) (bs : List Byte) (h : m.wf = true) : (m.write a bs).wf = true := by
  rw [Memory.wf_iff] at h ⊢
  unfold Memory.write
  constructor
  · rw [List.pairwise_append, List.pairwise_append]
    refine ⟨⟨h.1.filter _, Memory.pairwise_cells _ _, fun x hx y hy => ?_⟩, h.1.filter _, fun x hx y hy => ?_⟩
    · have := (Memory.mem_cells _ _ _ hy).1
      have hx := (List.mem_filter.1 hx).2
      simp only [decide_eq_true_eq] at hx
      omega
    · have hy := (List.mem_filter.1 hy).2
      simp only [decide_eq_true_eq] at hy
      rcases List.mem_append.1 hx with hx | hx
      · have hx := (List.mem_filter.1 hx).2
        simp only [decide_eq_true_eq] at hx
        omega
      · have := (Memory.mem_cells _ _ _ hx).1
        omega
  · intro c hc
    rcases List.mem_append.1 hc with hc | hc
    · rcases List.mem_append.1 hc with hc | hc
      · exact h.2 c (List.mem_of_mem_filter hc)
      · exact (Memory.mem_cells _ _ _ hc).2
    · exact h.2 c (List.mem_of_mem_filter hc)

theorem Memory.wf_writeExcept (m : Memory) (keep : Nat → Bool) (a : Nat) (bs : List Byte) (h : m.wf = true) :
    (m.writeExcept keep a bs).wf = true := Memory.wf_write _ _ _ h

theorem Memory.wf_writeMirror (m : Memory) (r : MirrorRec) (g : Nat) (body : List Byte) (h : m.wf = true) :
    (m.writeMirror r g body).wf = true := Memory.wf_write _ _ _ (Memory.wf_write _ _ _ h)

/-- The mirror writes of an event keep the canonical form. -/
theorem Memory.wf_writeMirrors (body : MirrorRec → List Byte) (rs : List MirrorRec) :
    ∀ (m : Memory) (g : Nat), m.wf = true → (Memory.writeMirrors body m g rs).wf = true := by
  induction rs with
  | nil => intro m g h; exact h
  | cons r rs ih => intro m g h; exact ih _ _ (Memory.wf_writeMirror _ _ _ _ h)

/-! ### Generations (R192) -/

theorem nextGeneration_ok (g : Nat) (h : 1 ≤ g ∧ g ≤ 4294967295) :
    1 ≤ nextGeneration g ∧ nextGeneration g ≤ 4294967295 := by
  unfold nextGeneration; split <;> omega

theorem generationAfter_ok (k : Nat) :
    ∀ g, 1 ≤ g ∧ g ≤ 4294967295 → 1 ≤ generationAfter g k ∧ generationAfter g k ≤ 4294967295 := by
  induction k with
  | zero => intro g h; exact h
  | succ k ih => intro g h; exact ih _ (nextGeneration_ok g h)

end Sys2Proof.Machine
end

