-- ==== Sys2Proof/Laws/Port.lean ====
section
/-! SUPPORT. What the exchange port's operations do: the writing of an answer into its cell, and the end of an event. -/

namespace Sys2Proof.Machine

/-! ### Lengths -/

@[simp] theorem length_bytesLE (k : Nat) : ∀ n, (bytesLE k n).length = k := by
  induction k with
  | zero => intro n; rfl
  | succ k ih => intro n; simp [bytesLE, ih]

@[simp] theorem length_clockBytes (t : Clock) : (clockBytes t).length = 4 := length_bytesLE _ _

@[simp] theorem Detail.length_bytes (d : Detail) : d.bytes.length = 16 := by
  simp [Detail.bytes, zeros]

/-! ### One answer (R189) -/

/-- Every byte after an answer is written. -/
theorem Port.read_writeAnswer (p : Port) (now : Clock) (a : Answer) (x : Nat) :
    (p.writeAnswer now a).hostMem.read x =
      if x = cellAddr a.cell then 3
      else if x = cellAddr a.cell + 2 then byte a.outcome.code
      else if cellAddr a.cell + 8 ≤ x ∧ x < cellAddr a.cell + 28 then
        (clockBytes now ++ a.detail.bytes).getD (x - (cellAddr a.cell + 8)) 0
      else p.hostMem.read x := by
  unfold Port.writeAnswer
  simp only [Memory.read_write, List.length_cons, List.length_nil, List.length_append, length_clockBytes,
    Detail.length_bytes]
  by_cases h0 : x = cellAddr a.cell
  · subst h0; simp
  · rw [if_neg (by omega), if_neg h0]
    by_cases h8 : cellAddr a.cell + 8 ≤ x ∧ x < cellAddr a.cell + 28
    · rw [if_pos (by omega), if_neg (by omega), if_pos h8]
    · rw [if_neg (by omega), if_neg h8]
      by_cases h2 : x = cellAddr a.cell + 2
      · subst h2; simp
      · rw [if_neg (by omega), if_neg h2]

/-- Bytes of other cells, and of everything but the cells, are untouched. -/
theorem Port.read_writeAnswer_off (p : Port) (now : Clock) (a : Answer) (x : Nat)
    (h : x < cellAddr a.cell ∨ cellAddr a.cell + 28 ≤ x) :
    (p.writeAnswer now a).hostMem.read x = p.hostMem.read x := by
  rw [Port.read_writeAnswer, if_neg (by omega), if_neg (by omega), if_neg (by omega)]

theorem Port.isInFlight_writeAnswer (p : Port) (now : Clock) (a : Answer) (c : Nat) :
    (p.writeAnswer now a).isInFlight c = if c = a.cell then false else p.isInFlight c := by
  unfold Port.isInFlight Port.writeAnswer
  by_cases h : c = a.cell
  · subst h
    by_cases hl : a.cell < p.inFlight.length
    · simp [List.getD_eq_getElem?_getD, hl]
    · have e : (p.inFlight.set a.cell false)[a.cell]? = none := List.getElem?_eq_none (by simp; omega)
      simp [List.getD_eq_getElem?_getD, e]
  · rw [if_neg h]
    simp [List.getD_eq_getElem?_getD, List.getElem?_set_ne (Ne.symm h)]

/-! ### The answers of an event -/

/-- What the answers of an event leave as it is. -/
theorem Port.writeAnswers_frame (now : Clock) (as : List Answer) : ∀ p : Port,
    ∃ m f n, (Port.writeAnswers now p as).1 = { p with hostMem := m, inFlight := f, notice := n } ∧
      f.length = p.inFlight.length ∧ (p.hostMem.wf = true → m.wf = true) ∧ (∃ k, n = p.notice ||| k) := by
  induction as with
  | nil => intro p; exact ⟨_, _, _, rfl, rfl, id, ⟨0, by simp⟩⟩
  | cons a as ih =>
    intro p
    unfold Port.writeAnswers
    split
    · obtain ⟨m, f, n, h, hf, hm, k, hn⟩ := ih (p.writeAnswer now a)
      refine ⟨m, f, n, by rw [h]; rfl, by rw [hf]; simp [Port.writeAnswer], fun w => hm ?_, Notice.cell ||| k, ?_⟩
      · exact Memory.wf_write _ _ _ (Memory.wf_write _ _ _ (Memory.wf_write _ _ _ w))
      · rw [hn]; simp [Port.writeAnswer, BitVec.or_assoc]
    · exact ih p

/-- A cell whose in-flight mark is no gets no answer: its bytes and its mark stand. -/
theorem Port.writeAnswers_closed (now : Clock) (c : Nat) (as : List Answer) : ∀ p : Port,
    p.isInFlight c = false → (Port.writeAnswers now p as).1.isInFlight c = false ∧
      ∀ x, cellAddr c ≤ x → x < cellAddr c + 128 →
        (Port.writeAnswers now p as).1.hostMem.read x = p.hostMem.read x := by
  induction as with
  | nil => intro p h; exact ⟨h, fun _ _ _ => rfl⟩
  | cons a as ih =>
    intro p h
    unfold Port.writeAnswers
    split
    · rename_i ha
      have hne : c ≠ a.cell := by rintro rfl; rw [h] at ha; cases ha
      have hc : (p.writeAnswer now a).isInFlight c = false := by
        rw [Port.isInFlight_writeAnswer, if_neg hne]; exact h
      refine ⟨(ih _ hc).1, fun x h1 h2 => ?_⟩
      rw [(ih _ hc).2 x h1 h2, Port.read_writeAnswer_off]
      unfold cellAddr at *
      rcases Nat.lt_or_gt_of_ne hne with q | q
      · left; omega
      · right; omega
    · exact ih p h

/-- A cell no answer names keeps its bytes and its mark. -/
theorem Port.writeAnswers_unnamed (now : Clock) (c : Nat) (as : List Answer) : ∀ p : Port,
    (∀ a ∈ as, a.cell ≠ c) → (Port.writeAnswers now p as).1.isInFlight c = p.isInFlight c ∧
      ∀ x, cellAddr c ≤ x → x < cellAddr c + 128 →
        (Port.writeAnswers now p as).1.hostMem.read x = p.hostMem.read x := by
  induction as with
  | nil => intro p h; exact ⟨rfl, fun _ _ _ => rfl⟩
  | cons a as ih =>
    intro p h
    have hne : c ≠ a.cell := fun q => h a (by simp) q.symm
    have ht : ∀ b ∈ as, b.cell ≠ c := fun b hb => h b (by simp [hb])
    unfold Port.writeAnswers
    split
    · refine ⟨?_, fun x h1 h2 => ?_⟩
      · rw [(ih _ ht).1, Port.isInFlight_writeAnswer, if_neg hne]
      · rw [(ih _ ht).2 x h1 h2, Port.read_writeAnswer_off]
        unfold cellAddr at *
        rcases Nat.lt_or_gt_of_ne hne with q | q
        · left; omega
        · right; omega
    · exact ih p ht

/-- Addresses outside every cell keep their bytes. -/
theorem Port.writeAnswers_outside (now : Clock) (x : Nat) (as : List Answer) : ∀ p : Port,
    (∀ a ∈ as, x < cellAddr a.cell ∨ cellAddr a.cell + 28 ≤ x) →
      (Port.writeAnswers now p as).1.hostMem.read x = p.hostMem.read x := by
  induction as with
  | nil => intro p _; rfl
  | cons a as ih =>
    intro p h
    have ht := fun b hb => h b (List.mem_cons_of_mem _ hb)
    unfold Port.writeAnswers
    split
    · rw [ih _ ht, Port.read_writeAnswer_off _ _ _ _ (h a (by simp))]
    · exact ih p ht

/-- R189: the first answer of an event for a cell in flight is what the cell holds after the event. -/
theorem Port.writeAnswers_first (now : Clock) (a : Answer) (as : List Answer) (p : Port)
    (h : p.isInFlight a.cell = true) :
    (Port.writeAnswers now p (a :: as)).1.isInFlight a.cell = false ∧
      ∀ x, cellAddr a.cell ≤ x → x < cellAddr a.cell + 128 →
        (Port.writeAnswers now p (a :: as)).1.hostMem.read x = (p.writeAnswer now a).hostMem.read x := by
  unfold Port.writeAnswers
  rw [if_pos h]
  exact Port.writeAnswers_closed now a.cell as _ (by rw [Port.isInFlight_writeAnswer, if_pos rfl])

/-- R189: an answer behind answers for other cells is what its cell holds after the event, if the cell is in flight. -/
theorem Port.writeAnswers_at (now : Clock) (a : Answer) (as : List Answer) (before : List Answer) : ∀ p : Port,
    p.isInFlight a.cell = true → (∀ x ∈ before, x.cell ≠ a.cell) →
      (Port.writeAnswers now p (before ++ a :: as)).1.isInFlight a.cell = false ∧
        (Port.writeAnswers now p (before ++ a :: as)).1.notice.getLsbD 0 = true ∧
        ∀ i < 28, (Port.writeAnswers now p (before ++ a :: as)).1.hostMem.read (cellAddr a.cell + i) =
          if i = 0 then 3 else if i = 2 then byte a.outcome.code
          else if 8 ≤ i then (clockBytes now ++ a.detail.bytes).getD (i - 8) 0
          else p.hostMem.read (cellAddr a.cell + i) := by
  induction before with
  | nil =>
    intro p hp _
    have hf := Port.writeAnswers_first now a as p hp
    refine ⟨hf.1, ?_, fun i hi => ?_⟩
    · show (Port.writeAnswers now p (a :: as)).1.notice.getLsbD 0 = true
      unfold Port.writeAnswers
      rw [if_pos hp]
      obtain ⟨m, f, n, e, -, -, k, hk⟩ := Port.writeAnswers_frame now as (p.writeAnswer now a)
      rw [e]
      show n.getLsbD 0 = true
      rw [hk]
      simp [Port.writeAnswer, Notice.cell]
    · rw [List.nil_append, hf.2 _ (by omega) (by omega), Port.read_writeAnswer]
      by_cases h0 : i = 0
      · subst h0; simp
      · rw [if_neg (by omega), if_neg h0]
        by_cases h2 : i = 2
        · subst h2; simp
        · rw [if_neg (by omega), if_neg h2]
          by_cases h8 : 8 ≤ i
          · rw [if_pos (by omega), if_pos h8, show cellAddr a.cell + i - (cellAddr a.cell + 8) = i - 8 by omega]
          · rw [if_neg (by omega), if_neg h8]
  | cons b before ih =>
    intro p hp h
    have hb : b.cell ≠ a.cell := h b (by simp)
    have ht := fun x hx => h x (List.mem_cons_of_mem _ hx)
    rw [List.cons_append]
    unfold Port.writeAnswers
    split
    · obtain ⟨h1, h2, h3⟩ := ih (p.writeAnswer now b)
        (by rw [Port.isInFlight_writeAnswer, if_neg (Ne.symm hb)]; exact hp) ht
      refine ⟨h1, h2, fun i hi => ?_⟩
      rw [h3 i hi, Port.read_writeAnswer_off p now b (cellAddr a.cell + i)]
      unfold cellAddr
      rcases Nat.lt_or_gt_of_ne hb with q | q
      · right; omega
      · left; omega
    · exact ih p hp ht

/-! ### The end of an event -/

/-- What the close of an event leaves of the port. -/
theorem Port.closeEvent_frame (p q : Port) (old new : Blocks) :
    let t := p.closeEvent q old new
    t.mask = p.mask ∧ t.intake = p.intake ∧ t.inFlight = p.inFlight ∧ t.handed = p.handed ∧
      t.strayMark = p.strayMark ∧ t.stray = p.stray ∧ t.hostMem = p.hostMem ∧ t.hostRead = p.hostRead ∧
      t.sent = new.work.sent := by
  unfold Port.closeEvent Port.writeMirrors
  dsimp only
  split <;> simp

theorem Port.closeEvent_wf (p q : Port) (old new : Blocks) (h : p.mirrorMem.wf = true) :
    (p.closeEvent q old new).mirrorMem.wf = true := by
  unfold Port.closeEvent Port.writeMirrors
  dsimp only
  split
  · simpa using h
  · simpa using Memory.wf_writeMirrors _ _ _ _ h

theorem Port.closeEvent_generation (p q : Port) (old new : Blocks)
    (h : 1 ≤ p.generation ∧ p.generation ≤ 4294967295) :
    1 ≤ (p.closeEvent q old new).generation ∧ (p.closeEvent q old new).generation ≤ 4294967295 := by
  unfold Port.closeEvent Port.writeMirrors
  dsimp only
  split
  · simpa using h
  · simpa using generationAfter_ok _ _ h

@[simp] theorem State.finish_pending (s : State) (p : Port) (b : Blocks) : (s.finish p b).pending = s.pending := rfl

@[simp] theorem State.finish_held (s : State) (p : Port) (b : Blocks) : (s.finish p b).held = s.held := rfl

@[simp] theorem State.finish_work (s : State) (p : Port) (b : Blocks) :
    (s.finish p b).blocks.work = Work.empty := rfl

@[simp] theorem State.finish_freeIndex (s : State) (p : Port) (b : Blocks) :
    (s.finish p b).blocks.freeIndex = s.blocks.freeIndex + 1 := rfl

theorem Blocks.Follows.kept {full : Bool} {a b : Blocks} (h : Blocks.Follows full a b) : Blocks.Kept a b :=
  { h with }

theorem Blocks.Kept.trans {a b c : Blocks} (g : Blocks.Kept a b) (h : Blocks.Kept b c) : Blocks.Kept a c :=
  ⟨h.1.trans g.1, h.2.trans g.2, h.3.trans g.3, h.4.trans g.4, h.5.trans g.5, h.6.trans g.6, h.7.trans g.7,
    h.8.trans g.8, h.9.trans g.9, h.10.trans g.10, h.11.trans g.11, h.12.trans g.12, h.13.trans g.13⟩

theorem Blocks.Follows.closeChecks {a b : Blocks} (q : Bool) (h : Blocks.Follows false a b) :
    Blocks.Follows false a (b.closeChecks q) := by
  unfold Blocks.closeChecks
  split
  · exact h.enterHalted _
  · exact h

/-- An event's end keeps what its follow-ups keep. -/
theorem State.finish_kept (s : State) (p : Port) (b : Blocks) : Blocks.Kept b (s.finish p b).blocks :=
  { (((Blocks.Follows.refl false b).closeChecks (Port.writeAnswers b.clock p b.work.answers).2).enterAlarms).kept with }

/-- An event, with its follow-ups and its end, keeps what they keep. -/
theorem State.finish_settle_kept (s : State) (p : Port) (b : Blocks) :
    Blocks.Kept b (s.finish p b.settle).blocks :=
  (Blocks.Follows.settle (full := true) b).kept.trans (State.finish_kept s p b.settle)

/-- The mode after an event's end: as it was, or HALTED after a failed check. -/
theorem State.finish_mode (s : State) (p : Port) (b : Blocks) :
    (s.finish p b).blocks.mode = b.mode ∨ (s.finish p b).blocks.mode = .halted := by
  show (b.closeChecks _).enterAlarms.mode = _ ∨ (b.closeChecks _).enterAlarms.mode = _
  rw [Blocks.enterAlarms_mode]
  unfold Blocks.closeChecks
  split
  · exact .inr (Blocks.enterHalted_mode _ _)
  · exact .inl rfl

/-- An event that ends with a failed check ends in HALTED (R183). -/
theorem State.finish_halt (s : State) (p : Port) (b : Blocks) (h : b.work.halt = true) :
    (s.finish p b).blocks.mode = .halted := by
  show (b.closeChecks _).enterAlarms.mode = _
  rw [Blocks.enterAlarms_mode]
  unfold Blocks.closeChecks
  split
  · exact Blocks.enterHalted_mode _ _
  · rename_i q
    simpa [h] using q

/-- A failed check of an event takes the supervisor to HALTED at its end (R183). -/
theorem State.ended_halt (s : State) (b : Blocks) (h : b.work.halt = true) : (s.ended b).blocks.mode = .halted :=
  State.finish_halt _ _ _ (((Blocks.Follows.settle (full := true) b).calm rfl).halt h)

/-- The telegrams an event has sent are still there at its end. -/
theorem State.finish_sent (s : State) (p : Port) (b : Blocks) : b.work.sent <+: (s.finish p b).port.sent := by
  have e : (s.finish p b).port.sent =
      ((b.closeChecks (Port.writeAnswers b.clock p b.work.answers).2).enterAlarms).work.sent := by
    unfold State.finish
    dsimp only
    unfold Port.halt
    split <;> rfl
  rw [e]
  exact (((Blocks.Follows.refl false b).closeChecks _).enterAlarms).sent

/-- The same with the event's follow-ups. -/
theorem State.ended_sent (s : State) (b : Blocks) : b.work.sent <+: (s.ended b).port.sent :=
  (Blocks.Follows.settle (full := true) b).sent.trans (State.finish_sent _ _ _)
/-- The parts of the port an event's end leaves, but for the entry to HALTED, which clears the intake list and the
request handed on. -/
theorem State.finish_port (s : State) (p : Port) (b : Blocks) :
    (s.finish p b).port.mask = p.mask ∧
      (s.finish p b).port.inFlight = (Port.writeAnswers b.clock p b.work.answers).1.inFlight ∧
      (s.finish p b).port.strayMark = p.strayMark ∧ (s.finish p b).port.stray = p.stray ∧
      (s.finish p b).port.hostMem = (Port.writeAnswers b.clock p b.work.answers).1.hostMem ∧
      (s.finish p b).port.hostRead = p.hostRead ∧
      ((s.finish p b).port.intake = p.intake ∧ (s.finish p b).port.handed = p.handed ∨
        (s.finish p b).port.intake = [] ∧ (s.finish p b).port.handed = none) := by
  obtain ⟨m, f, n, h, -⟩ := Port.writeAnswers_frame b.clock b.work.answers p
  unfold State.finish
  dsimp only
  generalize (b.closeChecks _).enterAlarms = c
  have e := Port.closeEvent_frame (Port.writeAnswers b.clock p b.work.answers).1 s.port s.blocks c
  dsimp only at e
  generalize Port.closeEvent (Port.writeAnswers b.clock p b.work.answers).1 s.port s.blocks c = t at *
  have hp : (Port.writeAnswers b.clock p b.work.answers).1.mask = p.mask ∧
      (Port.writeAnswers b.clock p b.work.answers).1.strayMark = p.strayMark ∧
      (Port.writeAnswers b.clock p b.work.answers).1.stray = p.stray ∧
      (Port.writeAnswers b.clock p b.work.answers).1.hostRead = p.hostRead ∧
      (Port.writeAnswers b.clock p b.work.answers).1.intake = p.intake ∧
      (Port.writeAnswers b.clock p b.work.answers).1.handed = p.handed := by
    rw [h]; exact ⟨rfl, rfl, rfl, rfl, rfl, rfl⟩
  unfold Port.halt
  split
  · exact ⟨e.1.trans hp.1, e.2.2.1, e.2.2.2.2.1.trans hp.2.1, e.2.2.2.2.2.1.trans hp.2.2.1, e.2.2.2.2.2.2.1,
      e.2.2.2.2.2.2.2.1.trans hp.2.2.2.1, .inr ⟨rfl, rfl⟩⟩
  · exact ⟨e.1.trans hp.1, e.2.2.1, e.2.2.2.2.1.trans hp.2.1, e.2.2.2.2.2.1.trans hp.2.2.1, e.2.2.2.2.2.2.1,
      e.2.2.2.2.2.2.2.1.trans hp.2.2.2.1,
      .inl ⟨e.2.1.trans hp.2.2.2.2.1, e.2.2.2.1.trans hp.2.2.2.2.2⟩⟩

/-- The end of an event keeps both parts of the exchange memory in the canonical form. -/
theorem State.finish_wf (s : State) (p : Port) (b : Blocks) (h : p.hostMem.wf = true) (m : p.mirrorMem.wf = true) :
    (s.finish p b).port.hostMem.wf = true ∧ (s.finish p b).port.mirrorMem.wf = true := by
  obtain ⟨hm, f, n, e, -, w, -⟩ := Port.writeAnswers_frame b.clock b.work.answers p
  constructor
  · rw [(State.finish_port s p b).2.2.2.2.1, e]; exact w h
  · unfold State.finish
    dsimp only
    generalize (b.closeChecks _).enterAlarms = c
    have k := Port.closeEvent_wf (Port.writeAnswers b.clock p b.work.answers).1 s.port s.blocks c (by rw [e]; exact m)
    unfold Port.halt
    split <;> exact k

/-- R192: the end of an event keeps the generation in its range. -/
theorem State.finish_generation (s : State) (p : Port) (b : Blocks)
    (h : 1 ≤ p.generation ∧ p.generation ≤ 4294967295) :
    1 ≤ (s.finish p b).port.generation ∧ (s.finish p b).port.generation ≤ 4294967295 := by
  obtain ⟨hm, f, n, e, -⟩ := Port.writeAnswers_frame b.clock b.work.answers p
  unfold State.finish
  dsimp only
  generalize (b.closeChecks _).enterAlarms = c
  have k := Port.closeEvent_generation (Port.writeAnswers b.clock p b.work.answers).1 s.port s.blocks c
    (by rw [e]; exact h)
  unfold Port.halt
  split <;> exact k

end Sys2Proof.Machine
end

