-- ==== Sys2Proof/Laws/Event.lean ====
section
/-! SUPPORT. What a command that acts on a block can answer, and what its cell holds when it answers. -/

namespace Sys2Proof.Machine

/-! ### The ways in which a command acts -/

theorem State.event_cases (s : State) (f : Blocks → Option Blocks) :
    s.event f = .next s ∨ ∃ b, s.event f = .next (s.finish s.port b) := by
  unfold State.event
  split
  · exact .inl rfl
  · split
    · exact .inl rfl
    · exact .inr ⟨_, rfl⟩

theorem State.busEvent_cases (s : State) (x : Bus) (f : Blocks → Option Blocks) :
    s.busEvent x f = .next s ∨ ∃ b, s.busEvent x f = .next (s.finish s.port b) := by
  unfold State.busEvent
  split
  · exact .inl rfl
  · split
    · exact .inl rfl
    · exact .inr ⟨_, rfl⟩

theorem State.storeEvent_cases (s : State) (f : Blocks → Option Blocks) :
    s.storeEvent f = .next s ∨ ∃ b, s.storeEvent f = .next (s.finish s.port b) := by
  unfold State.storeEvent
  split
  · exact .inl rfl
  · split
    · exact .inl rfl
    · exact .inr ⟨_, rfl⟩

theorem State.request_cases (s : State) (m : Request → Bool) (f : Blocks → Request → Blocks) :
    s.request m f = .next s ∨ ∃ b, s.request m f = .next (s.finish { s.port with handed := none } b) := by
  unfold State.request
  split
  · exact .inl rfl
  · split
    · exact .inl rfl
    · split
      · exact .inr ⟨_, rfl⟩
      · exact .inl rfl

/-- An outcome that leaves the state, or ends an event with the port as it was, but for the request served. -/
def EndsEvent (s : State) (o : Host.Outcome State Fault Refusal) : Prop :=
  o = .next s ∨ ∃ p b, o = .next (s.finish p b) ∧ (p = s.port ∨ p = { s.port with handed := none })

theorem EndsEvent.as {s : State} {o o' : Host.Outcome State Fault Refusal} (h : EndsEvent s o) (e : o' = o) :
    EndsEvent s o' := e ▸ h

theorem State.event_ends (s : State) (f : Blocks → Option Blocks) : EndsEvent s (s.event f) :=
  (State.event_cases s f).imp id fun ⟨b, e⟩ => ⟨_, b, e, .inl rfl⟩

theorem State.busEvent_ends (s : State) (x : Bus) (f : Blocks → Option Blocks) : EndsEvent s (s.busEvent x f) :=
  (State.busEvent_cases s x f).imp id fun ⟨b, e⟩ => ⟨_, b, e, .inl rfl⟩

theorem State.storeEvent_ends (s : State) (f : Blocks → Option Blocks) : EndsEvent s (s.storeEvent f) :=
  (State.storeEvent_cases s f).imp id fun ⟨b, e⟩ => ⟨_, b, e, .inl rfl⟩

theorem State.request_ends (s : State) (m : Request → Bool) (f : Blocks → Request → Blocks) :
    EndsEvent s (s.request m f) :=
  (State.request_cases s m f).imp id fun ⟨b, e⟩ => ⟨_, b, e, .inr rfl⟩

/-- A row that acts on a block ends an event, or leaves the state. -/
theorem exec_blockRow (c : Instr) (s : State) (h : blockRow c = true) : EndsEvent s (exec c s) := by
  cases c with
  | hardRestart => exact absurd (show false = true from h) Bool.false_ne_true
  | post _ => exact absurd (show false = true from h) Bool.false_ne_true
  | noticeRead => exact absurd (show false = true from h) Bool.false_ne_true
  | noticeMaskWrite _ => exact absurd (show false = true from h) Bool.false_ne_true
  | restart => exact absurd (show false = true from h) Bool.false_ne_true
  | clearStray => exact absurd (show false = true from h) Bool.false_ne_true
  | registerWriteNoEffect _ _ => exact absurd (show false = true from h) Bool.false_ne_true
  | hostMemoryAccess _ => exact absurd (show false = true from h) Bool.false_ne_true
  | keyLevelChange _ => exact absurd (show false = true from h) Bool.false_ne_true
  | takeCell => exact absurd (show false = true from h) Bool.false_ne_true
  | setRoute => exact (State.request_ends s _ _).as (by unfold exec execSetRoute; rfl)
  | cancelRoute => exact (State.request_ends s _ _).as (by unfold exec execCancelRoute; rfl)
  | callPoints => exact (State.request_ends s _ _).as (by unfold exec execCallPoints; rfl)
  | applyReminder => exact (State.request_ends s _ _).as (by unfold exec execApplyReminder; rfl)
  | removeReminder => exact (State.request_ends s _ _).as (by unfold exec execRemoveReminder; rfl)
  | applyStandingRestriction => exact (State.request_ends s _ _).as (by unfold exec execApplyStandingRestriction; rfl)
  | grantPossession => exact (State.request_ends s _ _).as (by unfold exec execGrantPossession; rfl)
  | liftPossession => exact (State.request_ends s _ _).as (by unfold exec execLiftPossession; rfl)
  | arm => exact (State.request_ends s _ _).as (by unfold exec execArm; rfl)
  | restoreSection => exact (State.request_ends s _ _).as (by unfold exec execRestoreSection; rfl)
  | emergencyRelease => exact (State.request_ends s _ _).as (by unfold exec execEmergencyRelease; rfl)
  | removeStanding => exact (State.request_ends s _ _).as (by unfold exec execRemoveStanding; rfl)
  | forceLift => exact (State.request_ends s _ _).as (by unfold exec execForceLift; rfl)
  | tokenRestore => exact (State.request_ends s _ _).as (by unfold exec execTokenRestore; rfl)
  | receptionRelease => exact (State.request_ends s _ _).as (by unfold exec execReceptionRelease; rfl)
  | acknowledgeAlarm => exact (State.request_ends s _ _).as (by unfold exec execAcknowledgeAlarm; rfl)
  | loadSegment => exact (State.request_ends s _ _).as (by unfold exec execLoadSegment; rfl)
  | loadReset => exact (State.request_ends s _ _).as (by unfold exec execLoadReset; rfl)
  | commitTables => exact (State.request_ends s _ _).as (by unfold exec execCommitTables; rfl)
  | leaveService => exact (State.request_ends s _ _).as (by unfold exec execLeaveService; rfl)
  | commandTelegramEnd _ => exact (State.busEvent_ends s _ _).as (by unfold exec execCommandTelegramEnd; rfl)
  | replyComplete _ _ => exact (State.busEvent_ends s _ _).as (by unfold exec execReplyComplete; rfl)
  | replyTimeout _ => exact (State.busEvent_ends s _ _).as (by unfold exec execReplyTimeout; rfl)
  | confirmationTimerExpiry _ => exact (State.event_ends s _).as (by unfold exec execConfirmationTimerExpiry; rfl)
  | moveTimerExpiry _ => exact (State.event_ends s _).as (by unfold exec execMoveTimerExpiry; rfl)
  | approachTimerExpiry _ => exact (State.event_ends s _).as (by unfold exec execApproachTimerExpiry; rfl)
  | emergencyTimerExpiry _ => exact (State.event_ends s _).as (by unfold exec execEmergencyTimerExpiry; rfl)
  | entryWaitExpiry _ => exact (State.event_ends s _).as (by unfold exec execEntryWaitExpiry; rfl)
  | waitingEntryExpiry _ => exact (State.event_ends s _).as (by unfold exec execWaitingEntryExpiry; rfl)
  | tokenWaitEntryExpiry _ => exact (State.event_ends s _).as (by unfold exec execTokenWaitEntryExpiry; rfl)
  | overlapTimerExpiry _ => exact (State.event_ends s _).as (by unfold exec execOverlapTimerExpiry; rfl)
  | lineStateInterval => exact (State.event_ends s _).as (by unfold exec execLineStateInterval; rfl)
  | linkSilenceTimeout _ => exact (State.event_ends s _).as (by unfold exec execLinkSilenceTimeout; rfl)
  | tokenWaitExpiry _ => exact (State.event_ends s _).as (by unfold exec execTokenWaitExpiry; rfl)
  | handoverSendTime _ => exact (State.event_ends s _).as (by unfold exec execHandoverSendTime; rfl)
  | lineState _ _ => exact (State.event_ends s _).as (by unfold exec execLineState; rfl)
  | tokenAsk _ _ => exact (State.event_ends s _).as (by unfold exec execTokenAsk; rfl)
  | tokenGive _ _ => exact (State.event_ends s _).as (by unfold exec execTokenGive; rfl)
  | tokenDecline _ _ => exact (State.event_ends s _).as (by unfold exec execTokenDecline; rfl)
  | entryAsk _ _ _ _ => exact (State.event_ends s _).as (by unfold exec execEntryAsk; rfl)
  | entryGrant _ _ _ => exact (State.event_ends s _).as (by unfold exec execEntryGrant; rfl)
  | entryDeny _ _ _ => exact (State.event_ends s _).as (by unfold exec execEntryDeny; rfl)
  | entryFree _ _ _ => exact (State.event_ends s _).as (by unfold exec execEntryFree; rfl)
  | trainPass _ _ _ => exact (State.event_ends s _).as (by unfold exec execTrainPass; rfl)
  | trainTaken _ _ => exact (State.event_ends s _).as (by unfold exec execTrainTaken; rfl)
  | invalidBorderTelegram _ _ => exact (State.event_ends s _).as (by unfold exec execInvalidBorderTelegram; rfl)
  | armEntryExpiry => exact (State.event_ends s _).as (by unfold exec execArmEntryExpiry; rfl)
  | recordWriteEnd _ => exact (State.storeEvent_ends s _).as (by unfold exec execRecordWriteEnd; rfl)
  | commitWriteEnd _ => exact (State.event_ends s _).as (by unfold exec execCommitWriteEnd; rfl)
  | selfCheck _ => exact (State.event_ends s _).as (by unfold exec execSelfCheck; rfl)
  | timeLockExpiry => exact (State.event_ends s _).as (by unfold exec execTimeLockExpiry; rfl)
  | resetAsserted => exact absurd (show false = true from h) Bool.false_ne_true

/-- The rows: one that acts on a block, or one of the others. -/
theorem exec_cases (c : Instr) (s : State) : EndsEvent s (exec c s) ∨ c = .hardRestart ∨ (∃ v, c = .post v) ∨ c = .noticeRead ∨ (∃ v, c = .noticeMaskWrite v) ∨
    c = .restart ∨ c = .clearStray ∨ (∃ r v, c = .registerWriteNoEffect r v) ∨
    (∃ x, c = .hostMemoryAccess x) ∨ (∃ l, c = .keyLevelChange l) ∨ c = .takeCell ∨ c = .resetAsserted := by
  cases c with
  | hardRestart => exact .inr (.inl rfl)
  | post _ => exact .inr (.inr (.inl ⟨_, rfl⟩))
  | noticeRead => exact .inr (.inr (.inr (.inl rfl)))
  | noticeMaskWrite _ => exact .inr (.inr (.inr (.inr (.inl ⟨_, rfl⟩))))
  | restart => exact .inr (.inr (.inr (.inr (.inr (.inl rfl)))))
  | clearStray => exact .inr (.inr (.inr (.inr (.inr (.inr (.inl rfl))))))
  | registerWriteNoEffect _ _ => exact .inr (.inr (.inr (.inr (.inr (.inr (.inr (.inl ⟨_, _, rfl⟩)))))))
  | hostMemoryAccess _ => exact .inr (.inr (.inr (.inr (.inr (.inr (.inr (.inr (.inl ⟨_, rfl⟩))))))))
  | keyLevelChange _ => exact .inr (.inr (.inr (.inr (.inr (.inr (.inr (.inr (.inr (.inl ⟨_, rfl⟩)))))))))
  | takeCell => exact .inr (.inr (.inr (.inr (.inr (.inr (.inr (.inr (.inr (.inr (.inl rfl))))))))))
  | setRoute => exact .inl (exec_blockRow _ s rfl)
  | cancelRoute => exact .inl (exec_blockRow _ s rfl)
  | callPoints => exact .inl (exec_blockRow _ s rfl)
  | applyReminder => exact .inl (exec_blockRow _ s rfl)
  | removeReminder => exact .inl (exec_blockRow _ s rfl)
  | applyStandingRestriction => exact .inl (exec_blockRow _ s rfl)
  | grantPossession => exact .inl (exec_blockRow _ s rfl)
  | liftPossession => exact .inl (exec_blockRow _ s rfl)
  | arm => exact .inl (exec_blockRow _ s rfl)
  | restoreSection => exact .inl (exec_blockRow _ s rfl)
  | emergencyRelease => exact .inl (exec_blockRow _ s rfl)
  | removeStanding => exact .inl (exec_blockRow _ s rfl)
  | forceLift => exact .inl (exec_blockRow _ s rfl)
  | tokenRestore => exact .inl (exec_blockRow _ s rfl)
  | receptionRelease => exact .inl (exec_blockRow _ s rfl)
  | acknowledgeAlarm => exact .inl (exec_blockRow _ s rfl)
  | loadSegment => exact .inl (exec_blockRow _ s rfl)
  | loadReset => exact .inl (exec_blockRow _ s rfl)
  | commitTables => exact .inl (exec_blockRow _ s rfl)
  | leaveService => exact .inl (exec_blockRow _ s rfl)
  | commandTelegramEnd _ => exact .inl (exec_blockRow _ s rfl)
  | replyComplete _ _ => exact .inl (exec_blockRow _ s rfl)
  | replyTimeout _ => exact .inl (exec_blockRow _ s rfl)
  | confirmationTimerExpiry _ => exact .inl (exec_blockRow _ s rfl)
  | moveTimerExpiry _ => exact .inl (exec_blockRow _ s rfl)
  | approachTimerExpiry _ => exact .inl (exec_blockRow _ s rfl)
  | emergencyTimerExpiry _ => exact .inl (exec_blockRow _ s rfl)
  | entryWaitExpiry _ => exact .inl (exec_blockRow _ s rfl)
  | waitingEntryExpiry _ => exact .inl (exec_blockRow _ s rfl)
  | tokenWaitEntryExpiry _ => exact .inl (exec_blockRow _ s rfl)
  | overlapTimerExpiry _ => exact .inl (exec_blockRow _ s rfl)
  | lineStateInterval => exact .inl (exec_blockRow _ s rfl)
  | linkSilenceTimeout _ => exact .inl (exec_blockRow _ s rfl)
  | tokenWaitExpiry _ => exact .inl (exec_blockRow _ s rfl)
  | handoverSendTime _ => exact .inl (exec_blockRow _ s rfl)
  | lineState _ _ => exact .inl (exec_blockRow _ s rfl)
  | tokenAsk _ _ => exact .inl (exec_blockRow _ s rfl)
  | tokenGive _ _ => exact .inl (exec_blockRow _ s rfl)
  | tokenDecline _ _ => exact .inl (exec_blockRow _ s rfl)
  | entryAsk _ _ _ _ => exact .inl (exec_blockRow _ s rfl)
  | entryGrant _ _ _ => exact .inl (exec_blockRow _ s rfl)
  | entryDeny _ _ _ => exact .inl (exec_blockRow _ s rfl)
  | entryFree _ _ _ => exact .inl (exec_blockRow _ s rfl)
  | trainPass _ _ _ => exact .inl (exec_blockRow _ s rfl)
  | trainTaken _ _ => exact .inl (exec_blockRow _ s rfl)
  | invalidBorderTelegram _ _ => exact .inl (exec_blockRow _ s rfl)
  | armEntryExpiry => exact .inl (exec_blockRow _ s rfl)
  | recordWriteEnd _ => exact .inl (exec_blockRow _ s rfl)
  | commitWriteEnd _ => exact .inl (exec_blockRow _ s rfl)
  | selfCheck _ => exact .inl (exec_blockRow _ s rfl)
  | timeLockExpiry => exact .inl (exec_blockRow _ s rfl)
  | resetAsserted => exact .inr (.inr (.inr (.inr (.inr (.inr (.inr (.inr (.inr (.inr (.inr rfl))))))))))

/-- An event that is enabled. -/
theorem State.event_next (s : State) (f : Blocks → Option Blocks) (b : Blocks) (h : s.asleep = false)
    (hf : f s.blocks = some b) : s.event f = .next (s.finish s.port b.settle) := by
  unfold State.event
  rw [h, hf]
  rfl

theorem State.busEvent_next (s : State) (x : Bus) (f : Blocks → Option Blocks) (b : Blocks) (h : s.held = false)
    (hf : f s.blocks = some b) :
    s.busEvent x f = .next (s.finish s.port ((if b.mode = .halted then b else b.settle).startPoll x)) := by
  unfold State.busEvent
  rw [h, hf]
  rfl

theorem State.storeEvent_next (s : State) (f : Blocks → Option Blocks) (b : Blocks) (h : s.held = false)
    (hf : f s.blocks = some b) :
    s.storeEvent f = .next (s.finish s.port (if b.mode = .halted then b else b.settle)) := by
  unfold State.storeEvent
  rw [h, hf]
  rfl

theorem State.request_next (s : State) (m : Request → Bool) (f : Blocks → Request → Blocks) (q : Request)
    (h : s.asleep = false) (hq : s.port.handed = some q) (hm : m q = true) :
    s.request m f = .next (s.finish { s.port with handed := none } (f s.blocks q).settle) := by
  unfold State.request
  rw [h, hq]
  simp [hm]

/-- A request row that serves its request. -/
theorem State.serving_next (s : State) (k : RequestKind) (f : Blocks → Request → Blocks) (q : Request)
    (h : s.serving k q) : s.request (Request.isKind k) f =
      .next (s.finish { s.port with handed := none } (f s.blocks q).settle) :=
  State.request_next s _ f q h.1 h.2.1 (by simp [Request.isKind, h.2.2.1])

/-! ### The answer in its cell -/

theorem cell_not_mirror (c i : Nat) (hc : c < 32) (hi : i < 128) : Exchange.mirrorRange (cellAddr c + i) = false := by
  unfold Exchange.mirrorRange cellAddr
  simp only [Bool.or_eq_false_iff, Bool.and_eq_false_imp, decide_eq_true_eq, decide_eq_false_iff_not]
  omega

theorem Port.byteAt_cell (p : Port) (c i : Nat) (hc : c < 32) (hi : i < 128) :
    p.byteAt (cellAddr c + i) = p.hostMem.read (cellAddr c + i) := by
  unfold Port.byteAt
  rw [cell_not_mirror c i hc hi]
  rfl

/-- The notice classes of the port stay pending to the end of an event. -/
theorem State.finish_notice (s : State) (p : Port) (b : Blocks) : ∃ k,
    (s.finish p b).port.notice = (Port.writeAnswers b.clock p b.work.answers).1.notice ||| k := by
  have latch : ∀ (p : Port) (q : Bool) (c : BitVec 6), ∃ k, (p.latchIf q c).notice = p.notice ||| k := by
    intro p q c
    cases q
    · exact ⟨0, by simp [Port.latchIf]⟩
    · exact ⟨c, rfl⟩
  have mirrors : ∀ (p : Port) (b : Blocks) (rs : List MirrorRec), ∃ k, (p.writeMirrors b rs).notice = p.notice ||| k := by
    intro p b rs
    unfold Port.writeMirrors
    split
    · exact ⟨0, by simp⟩
    · exact ⟨_, rfl⟩
  have key : ∀ (p q : Port) (o n : Blocks), ∃ k, (p.closeEvent q o n).notice = p.notice ||| k := by
    intro p q o n
    unfold Port.closeEvent
    dsimp only
    obtain ⟨k1, h1⟩ := mirrors p n (changedRecords q p o n)
    generalize p.writeMirrors n (changedRecords q p o n) = p1 at *
    obtain ⟨k2, h2⟩ := latch p1 (alarmChanged o n) Notice.alarm
    generalize p1.latchIf (alarmChanged o n) Notice.alarm = p2 at *
    obtain ⟨k3, h3⟩ := latch p2 (linkChanged o n) Notice.link
    generalize p2.latchIf (linkChanged o n) Notice.link = p3 at *
    obtain ⟨k4, h4⟩ := latch p3 (modeChanged o n) Notice.mode
    exact ⟨k1 ||| k2 ||| k3 ||| k4, by rw [h4, h3, h2, h1]; simp only [BitVec.or_assoc]⟩
  unfold State.finish
  dsimp only
  obtain ⟨k, hk⟩ := key (Port.writeAnswers b.clock p b.work.answers).1 s.port s.blocks
    (b.closeChecks (Port.writeAnswers b.clock p b.work.answers).2).enterAlarms
  refine ⟨k, ?_⟩
  unfold Port.halt
  split <;> exact hk

/-- R189: at the end of an event a cell in flight holds the first answer of the event that names it. -/
theorem State.finish_answered (s : State) (p : Port) (b : Blocks) (a : Answer) (before as : List Answer)
    (hb : b.work.answers = before ++ a :: as) (hbefore : ∀ x ∈ before, x.cell ≠ a.cell)
    (hp : p.isInFlight a.cell = true) (hc : a.cell < 32) :
    (s.finish p b).answered a.cell a.outcome a.detail := by
  have hport := State.finish_port s p b
  have hmem := hport.2.2.2.2.1
  have hfl := hport.2.1
  obtain ⟨k, hn⟩ := State.finish_notice s p b
  obtain ⟨h1, h2, h3⟩ := Port.writeAnswers_at b.clock a as before p hp hbefore
  rw [hb] at hmem hfl hn
  have hclock : (s.finish p b).blocks.clock = b.clock := (State.finish_kept s p b).clock
  have hread : ∀ i < 28, (s.finish p b).port.byteAt (cellAddr a.cell + i) =
      if i = 0 then 3 else if i = 2 then byte a.outcome.code
      else if 8 ≤ i then (clockBytes b.clock ++ a.detail.bytes).getD (i - 8) 0
      else p.hostMem.read (cellAddr a.cell + i) := fun i hi => by
    rw [Port.byteAt_cell _ _ _ hc (by omega), hmem, h3 i hi]
  refine ⟨?_, ?_, fun i hi => ?_, ?_, ?_⟩
  · exact hread 0 (by omega)
  · exact hread 2 (by omega)
  · rw [hclock, show cellAddr a.cell + 8 + i = cellAddr a.cell + (8 + i) by omega, hread (8 + i) (by omega),
      if_neg (by omega), if_neg (by omega), if_pos (by omega), show 8 + i - 8 = i by omega]
  · show ((s.finish p b).port.inFlight).getD a.cell false = false
    rw [hfl]
    exact h1
  · rw [hn]
    simp [h2]

/-- The same, with the follow-ups of the event, which only append answers. -/
theorem State.finish_settle_answered (s : State) (p : Port) (b : Blocks) (a : Answer) (before as : List Answer)
    (hb : b.work.answers = before ++ a :: as) (hbefore : ∀ x ∈ before, x.cell ≠ a.cell)
    (hp : p.isInFlight a.cell = true) (hc : a.cell < 32) :
    (s.finish p b.settle).answered a.cell a.outcome a.detail := by
  obtain ⟨l, hl⟩ := (Blocks.Follows.settle (full := true) b).answers
  exact State.finish_answered s p b.settle a before (as ++ l) (by rw [← hl, hb]; simp) hbefore hp hc

/-- A request row answered in its event. -/
theorem State.serving_answered (s : State) (k : RequestKind) (q : Request) (h : s.serving k q) (b : Blocks)
    (o : CellOutcome) (d : Detail) (hb : b.work.answers = [{ cell := q.cell, outcome := o, detail := d }]) :
    (s.finish { s.port with handed := none } b.settle).answered q.cell o d :=
  State.finish_settle_answered s _ b _ [] [] hb (by simp) h.2.2.2.2.1 h.2.2.2.1

/-! ### An event that hands nothing on -/

theorem Blocks.enterAlarms_none (b : Blocks) (h : b.work.alarms = []) : b.enterAlarms = b := by
  unfold Blocks.enterAlarms
  rw [h]
  rfl

/-- The blocks after an event without answers, alarms and failed checks. -/
theorem State.finish_blocks (s : State) (p : Port) (b : Blocks) (ha : b.work.answers = [])
    (hl : b.work.alarms = []) (hh : b.work.halt = false) :
    (s.finish p b).blocks = { b with work := Work.empty, freeIndex := s.blocks.freeIndex + 1 } := by
  unfold State.finish
  rw [ha]
  have : b.closeChecks (Port.writeAnswers b.clock p []).2 = b := by
    unfold Blocks.closeChecks Port.writeAnswers
    simp [hh]
  dsimp only
  rw [this, Blocks.enterAlarms_none b hl]

/-! ### The bytes an event leaves -/

theorem Port.writeAnswers_unopened (now : Clock) (x : Nat) (as : List Answer) : ∀ p : Port,
    (∀ c, p.isInFlight c = true → x < cellAddr c ∨ cellAddr c + 28 ≤ x) →
      (Port.writeAnswers now p as).1.hostMem.read x = p.hostMem.read x := by
  induction as with
  | nil => intro p _; rfl
  | cons a as ih =>
    intro p h
    unfold Port.writeAnswers
    split
    · rename_i ha
      rw [ih _ (fun c hc => h c ?_), Port.read_writeAnswer_off _ _ _ _ (h a.cell ha)]
      rw [Port.isInFlight_writeAnswer] at hc
      split at hc
      · cases hc
      · exact hc
    · exact ih p h

/-- R185, R189: of the memory the host writes, an event writes only the headers of cells in flight. -/
theorem State.finish_byte (s : State) (p : Port) (b : Blocks) (x : Nat) (hx : Exchange.mirrorRange x = false)
    (h : ∀ c, p.isInFlight c = true → x < cellAddr c ∨ cellAddr c + 28 ≤ x) :
    (s.finish p b).port.byteAt x = p.byteAt x := by
  unfold Port.byteAt
  rw [hx, (State.finish_port s p b).2.2.2.2.1]
  exact Port.writeAnswers_unopened _ _ _ _ h

end Sys2Proof.Machine
end

