-- ==== Sys2Proof/Laws/Kept.lean ====
section
/-! SUPPORT. What Blocks.Kept says of each record, field by field. -/

namespace Sys2Proof.Machine

theorem getElem?_map_eq {α β : Type} {f : α → β} {l m : List α} (h : l.map f = m.map f) (n : Nat) :
    (l[n]?).map f = (m[n]?).map f := by
  have := congrArg (fun x => x[n]?) h
  simpa using this

namespace Blocks.Kept

variable {a b : Blocks}

theorem sectionRec (h : Kept a b) (n : Nat) :
    (b.sectionRec n).map SectionRec.kept = (a.sectionRec n).map SectionRec.kept := getElem?_map_eq h.sections n

theorem pointRec (h : Kept a b) (n : Nat) : (b.pointRec n).map PointRec.kept = (a.pointRec n).map PointRec.kept :=
  getElem?_map_eq h.points n

theorem signalRec (h : Kept a b) (n : Nat) :
    (b.signalRec n).map SignalRec.kept = (a.signalRec n).map SignalRec.kept := getElem?_map_eq h.signals n

theorem unitRec (h : Kept a b) (n : Nat) : (b.unitRec n).map UnitRec.kept = (a.unitRec n).map UnitRec.kept :=
  getElem?_map_eq h.units n

theorem join_map {α β : Type} (f : α → β) (x : Option (Option α)) : x.join.map f = (x.map (Option.map f)).join := by
  cases x with
  | none => rfl
  | some y => cases y <;> rfl

theorem linkRec (h : Kept a b) (n : Nat) : (b.linkRec n).map LinkRec.kept = (a.linkRec n).map LinkRec.kept := by
  unfold Blocks.linkRec
  rw [join_map, join_map, getElem?_map_eq h.links n]

theorem lineRec (h : Kept a b) (n : Nat) : (b.lineRec n).map LineRec.kept = (a.lineRec n).map LineRec.kept := by
  unfold Blocks.lineRec
  rw [join_map, join_map, getElem?_map_eq h.lines n]

/-- A view that the kept part of a record gives. -/
theorem view {α β γ : Type} {f : α → β} {x y : Option α} (h : y.map f = x.map f) (g : α → γ) (v : β → γ)
    (hv : ∀ r, v (f r) = g r) : y.map g = x.map g := by
  have e : ∀ z : Option α, z.map g = (z.map f).map v := fun z => by cases z <;> simp [hv]
  rw [e, e, h]

theorem occupancy (h : Kept a b) (n : Nat) : b.occupancy n = a.occupancy n :=
  view (h.sectionRec n) _ (·.1) (fun _ => rfl)

theorem changedAt (h : Kept a b) (n : Nat) :
    (b.sectionRec n).map (·.changedAt) = (a.sectionRec n).map (·.changedAt) :=
  view (h.sectionRec n) _ (·.2.2.2) (fun _ => rfl)

theorem any_view {α β : Type} {f : α → β} {x y : Option α} (h : y.map f = x.map f) (g : α → Bool) (v : β → Bool)
    (hv : ∀ r, v (f r) = g r) : y.any g = x.any g := by
  have e : ∀ z : Option α, z.any g = (z.map f).any v := fun z => by cases z <;> simp [hv]
  rw [e, e, h]

theorem reminderOf (h : Kept a b) (e : Element) : b.reminderOf e = a.reminderOf e := by
  unfold Blocks.reminderOf
  split
  · exact any_view (h.sectionRec _) _ (·.2.1) (fun _ => rfl)
  · exact any_view (h.pointRec _) _ (·.2.1) (fun _ => rfl)
  · exact any_view (h.signalRec _) _ (·.2.1) (fun _ => rfl)
  · rfl

theorem standingOf (h : Kept a b) (e : Element) : b.standingOf e = a.standingOf e := by
  unfold Blocks.standingOf
  split
  · exact any_view (h.sectionRec _) _ (·.2.2.1) (fun _ => rfl)
  · exact any_view (h.pointRec _) _ (·.2.2) (fun _ => rfl)
  · exact any_view (h.signalRec _) _ (·.2.2) (fun _ => rfl)
  · rfl

theorem token (h : Kept a b) (n : Nat) : (b.lineRec n).map (·.token) = (a.lineRec n).map (·.token) :=
  view (h.lineRec n) _ (·.1) (fun _ => rfl)

theorem givePending (h : Kept a b) (n : Nat) :
    (b.lineRec n).map (·.givePending) = (a.lineRec n).map (·.givePending) :=
  view (h.lineRec n) _ (·.2.2.1) (fun _ => rfl)

theorem unitState (h : Kept a b) (n : Nat) : (b.unitRec n).map (·.state) = (a.unitRec n).map (·.state) :=
  view (h.unitRec n) _ (·.1) (fun _ => rfl)

theorem linkState (h : Kept a b) (n : Nat) : (b.linkRec n).map (·.state) = (a.linkRec n).map (·.state) :=
  view (h.linkRec n) _ (·.1) (fun _ => rfl)

theorem refl (a : Blocks) : Kept a a := ⟨rfl, rfl, rfl, rfl, rfl, rfl, rfl, rfl, rfl, rfl, rfl, rfl, rfl⟩

end Blocks.Kept

end Sys2Proof.Machine
end

