-- ==== Sys2Proof/Laws/Quiet.lean ====
section
/-! SUPPORT. With nothing for an event's follow-ups to act on (Blocks.quiet) it has none: settle clears the
notices and nothing else. -/

namespace Sys2Proof.Machine

theorem List.foldl_fixed {α β : Type} (g : β → α → β) (b : β) (h : ∀ x, g b x = b) (l : List α) : l.foldl g b = b := by
  induction l with
  | nil => rfl
  | cons x l ih => rw [List.foldl_cons, h, ih]

theorem Blocks.reactEntry_free (b : Blocks) (n : Nat) (h : b.routeRec n = none) : b.reactEntry n = b := by
  have he : b.entryAt n = none := by simp [Blocks.entryAt, h]
  have h1 : b.reactOccupations n = b := by simp [Blocks.reactOccupations, he]
  have h2 : ∀ p, b.reactFailure n p = b := fun p => by simp [Blocks.reactFailure, he]
  have h3 : b.reactRecovery n = b := by simp [Blocks.reactRecovery, he]
  have h4 : b.testOverlap n = b := by simp [Blocks.testOverlap, h]
  have h5 : b.reactProofs n = b := by simp [Blocks.reactProofs, he]
  have h6 : b.reactProved n = b := by simp [Blocks.reactProved, he]
  have h7 : b.testOverlapTiming n = b := by simp [Blocks.testOverlapTiming, h]
  have h8 : b.testOverlapExpired n = b := by simp [Blocks.testOverlapExpired, h]
  have h9 : b.reactRelease n = b := by simp [Blocks.reactRelease, he]
  unfold Blocks.reactEntry
  simp only [h1, List.foldl_fixed (fun b p => Blocks.reactFailure b n p) b h2, h3, h4, h5, h6, h7, h8, h9]

theorem Blocks.reactLine_free (b : Blocks) (n : Nat) (h : ∀ k, b.routeRec k = none)
    (hr : (b.lineRec n).bind (·.reception) = none) : b.reactLine n = b := by
  have ho : b.outgoingSlot n = none := by simp [Blocks.outgoingSlot, h]
  have h1 : b.testHandover n = b := by
    unfold Blocks.testHandover
    rw [ho]
    split
    · rename_i q; cases q
    · rfl
  have h2 : b.testGrant n = b := by unfold Blocks.testGrant; rw [hr]; split <;> simp_all
  have h3 : Blocks.receptionPassage 6 b n = b := by
    unfold Blocks.receptionPassage; rw [hr]; split <;> simp_all
  unfold Blocks.reactLine
  rw [h1, h2, h3]

/-- Nothing for an event to act on (Blocks.quiet). -/
theorem Blocks.settle_of_quiet (b : Blocks) (h : b.quiet) : b.settle = b.clearNotices.clearFreed := by
  obtain ⟨h, hr, hw, -⟩ := h
  have hround : b.reactRound = b.clearNotices := by
    unfold Blocks.reactRound
    rw [List.foldl_fixed Blocks.reactEntry b (fun n => b.reactEntry_free n (h n)),
      List.foldl_fixed Blocks.reactLine b (fun n => b.reactLine_free n h (hr n))]
  have hidem : ∀ c : Blocks, c.waiting = [] → c.waitingPass = c := fun c hc => by
    unfold Blocks.waitingPass; rw [hc]; rfl
  have hround2 : b.clearNotices.clearFreed.reactRound = b.clearNotices.clearFreed := by
    unfold Blocks.reactRound
    rw [List.foldl_fixed Blocks.reactEntry b.clearNotices.clearFreed (fun n => Blocks.reactEntry_free _ n (h n)),
      List.foldl_fixed Blocks.reactLine b.clearNotices.clearFreed (fun n => Blocks.reactLine_free _ n h (hr n))]
    rfl
  unfold Blocks.settle
  show Blocks.settleRounds (127 + 1) b = _
  rw [Blocks.settleRounds]
  rw [hround]
  split
  · rename_i hc
    have hw : b.waiting = [] := by
      rcases hw with hw | hw | hw
      · exact hw
      · exact absurd (by simpa [Blocks.clearNotices] using (Bool.and_eq_true_iff.mp hc).2) hw
      · simp [Blocks.clearNotices, hw.1, hw.2] at hc
    rw [hidem b.clearNotices.clearFreed hw]
    show Blocks.settleRounds (126 + 1) _ = _
    rw [Blocks.settleRounds]
    rw [hround2, if_neg (by simp [Blocks.clearFreed])]
    rfl
  · rfl

end Sys2Proof.Machine
end

