-- ==== Sys2Proof/Laws/After.lean ====
section
/-! SUPPORT. The blocks after an event (Blocks.After): one lemma for every event of a block, and what it takes that
every answer of an event finds its cell in flight. -/

namespace Sys2Proof.Machine

/-! ### Answers that find their cells in flight -/

theorem Port.writeAnswers_fine (now : Clock) (as : List Answer) : ∀ p : Port,
    (∀ a ∈ as, p.isInFlight a.cell = true) → (as.map (·.cell)).Nodup → (Port.writeAnswers now p as).2 = false := by
  induction as with
  | nil => intro p _ _; rfl
  | cons a as ih =>
    intro p h n
    unfold Port.writeAnswers
    rw [if_pos (h a (by simp))]
    rw [List.map_cons, List.nodup_cons] at n
    refine ih _ (fun x hx => ?_) n.2
    rw [Port.isInFlight_writeAnswer, if_neg]
    · exact h x (by simp [hx])
    · exact fun e => n.1 (List.mem_map.mpr ⟨x, hx, e⟩)

/-! ### The blocks after an event -/

theorem Blocks.enterAlarms_work (b : Blocks) : b.enterAlarms.work = b.work := by
  obtain ⟨xs, m, n, e⟩ := Blocks.enterAlarms_eq b
  rw [e]

theorem Blocks.enterAlarms_kept (b : Blocks) : Blocks.Kept b b.enterAlarms := by
  obtain ⟨xs, m, n, e⟩ := Blocks.enterAlarms_eq b
  rw [e]
  exact ⟨rfl, rfl, rfl, rfl, rfl, rfl, rfl, rfl, rfl, rfl, rfl, rfl, rfl⟩

theorem Blocks.Kept.symm {a b : Blocks} (h : Blocks.Kept a b) : Blocks.Kept b a :=
  ⟨h.1.symm, h.2.symm, h.3.symm, h.4.symm, h.5.symm, h.6.symm, h.7.symm, h.8.symm, h.9.symm, h.10.symm, h.11.symm,
    h.12.symm, h.13.symm⟩

/-- A raise or an end is entered whatever the hand-offs are. -/
theorem Blocks.enterRaise_setWork (b : Blocks) (w : Work) (k : AlarmKind) (e : Element) (t : Clock) :
    ({ b with work := w } : Blocks).enterRaise k e t = { b.enterRaise k e t with work := w } := by
  unfold Blocks.enterRaise
  dsimp only
  split
  · split
    · rfl
    · split <;> rfl
  · split <;> rfl

theorem Blocks.enterEnd_setWork (b : Blocks) (w : Work) (k : AlarmKind) (e : Element) (t : Clock) :
    ({ b with work := w } : Blocks).enterEnd k e t = { b.enterEnd k e t with work := w } := by
  unfold Blocks.enterEnd
  dsimp only
  split
  · rfl
  · split <;> rfl

theorem Blocks.enterAlarms_setWork (b : Blocks) (w : Work) (h : w.alarms = b.work.alarms) :
    ({ b with work := w } : Blocks).enterAlarms = { b.enterAlarms with work := w } := by
  unfold Blocks.enterAlarms
  show (handedOrder w.alarms).foldl Blocks.enterOp _ = _
  rw [h]
  generalize handedOrder b.work.alarms = ops
  clear h
  induction ops generalizing b with
  | nil => rfl
  | cons o ops ih =>
    rw [List.foldl_cons, List.foldl_cons, ← ih]
    congr 1
    cases o with
    | raised k e t => exact Blocks.enterRaise_setWork b w k e t
    | ended k e t => exact Blocks.enterEnd_setWork b w k e t

theorem Blocks.enterOp_setWork (b : Blocks) (w : Work) (o : AlarmOp) :
    ({ b with work := w } : Blocks).enterOp o = { b.enterOp o with work := w } := by
  cases o with
  | raised k e t => exact Blocks.enterRaise_setWork b w k e t
  | ended k e t => exact Blocks.enterEnd_setWork b w k e t

/-- The one raise, or the one end, of an event. -/
theorem Blocks.enterAlarms_one (b : Blocks) (o : AlarmOp) (h : b.work.alarms = [o]) : b.enterAlarms = b.enterOp o := by
  unfold Blocks.enterAlarms
  rw [h]
  cases o <;> rfl

theorem State.finish_eq (s : State) (p : Port) (b c : Blocks)
    (h : b.closeChecks (Port.writeAnswers b.clock p b.work.answers).2 = c) :
    (s.finish p b).blocks = { c.enterAlarms with work := Work.empty, freeIndex := s.blocks.freeIndex + 1 } := by
  subst h
  rfl

theorem Blocks.closeChecks_running (b : Blocks) (q : Bool) (h : (b.closeChecks q).mode = b.mode) :
    b.closeChecks q = b := by
  unfold Blocks.closeChecks at h ⊢
  split
  · rename_i hq
    rw [if_pos hq, Blocks.enterHalted_mode] at h
    simp [← h] at hq
  · rfl

/-- Every event of a block that does not end in a poll: c is what the event makes of the blocks. -/
theorem Blocks.After.of_event (s : State) (p : Port) (c : Blocks) (hi : c.freeIndex = s.blocks.freeIndex)
    (hw : (Port.writeAnswers c.clock p c.work.answers).2 = false) :
    c.enterAlarms.After (s.finish p c.settle).blocks := by
  refine ⟨(Blocks.enterAlarms_kept c).symm.trans (State.finish_settle_kept s p c), ?_, ?_, ?_⟩
  · rw [Blocks.enterAlarms_mode]
    have := (Blocks.Follows.settle (full := true) c).calm rfl
    rcases State.finish_mode s p c.settle with e | e
    · exact .inl (e.trans this.mode)
    · exact .inr e
  · intro hm
    have f := (Blocks.Follows.settle (full := true) c).calm rfl
    obtain ⟨xs, m, n, e⟩ := Blocks.enterAlarms_eq c
    rw [Blocks.enterAlarms_mode] at hm
    rw [e]
    generalize hb : c.settle = b at *
    have hm2 : (b.closeChecks (Port.writeAnswers b.clock p b.work.answers).2).mode = b.mode := by
      rw [f.mode, ← hm, State.finish_eq s p b _ rfl]
      exact (Blocks.enterAlarms_mode _).symm
    rw [State.finish_eq s p b b (Blocks.closeChecks_running b _ hm2)]
    obtain ⟨xs', m', n', e'⟩ := Blocks.enterAlarms_eq b
    rw [e']
    exact ⟨f.sweep, f.stored, f.persistent, f.running, f.writes, f.lineStateDue, f.selfCheckDue,
      f.exchangeA, f.exchangeB⟩
  · intro hq
    have hqc : c.quiet := by
      obtain ⟨xs, m, n, e⟩ := Blocks.enterAlarms_eq c
      rw [e] at hq
      exact hq
    have hh : c.work.halt = false := hqc.2.2.2
    rw [Blocks.settle_of_quiet c hqc]
    have hcc : (c.clearNotices.clearFreed.closeChecks (Port.writeAnswers c.clock p c.work.answers).2) =
        c.clearNotices.clearFreed := by
      rw [hw]
      unfold Blocks.closeChecks
      rw [if_neg]
      show ¬ ((false || c.work.halt) && c.mode != .halted) = true
      rw [hh]; simp
    have hset : c.clearNotices.clearFreed.enterAlarms =
        { c.enterAlarms with work := c.clearNotices.clearFreed.work } := Blocks.enterAlarms_setWork c _ rfl
    have hfree : c.enterAlarms.freeIndex = s.blocks.freeIndex := by
      obtain ⟨xs, m, n, e⟩ := Blocks.enterAlarms_eq c
      rw [e]; exact hi
    rw [State.finish_eq s p c.clearNotices.clearFreed _ hcc, hset, hfree]

/-- An event without alarms. -/
theorem Blocks.After.of_silent (s : State) (p : Port) (c : Blocks) (hi : c.freeIndex = s.blocks.freeIndex)
    (hw : (Port.writeAnswers c.clock p c.work.answers).2 = false) (ha : c.work.alarms = []) :
    c.After (s.finish p c.settle).blocks := by
  have := Blocks.After.of_event s p c hi hw
  rwa [Blocks.enterAlarms_none c ha] at this

/-- The hand-offs that are cleared at the end do not count. -/
theorem Blocks.After.of_work {x y b : Blocks} (h : x.After b) (w : Work) (e : y = { x with work := w })
    (hq : y.quiet → x.quiet) : y.After b := by
  subst e
  exact ⟨{ h.kept with }, h.mode, h.steady, fun q => h.quiet (hq q)⟩

/-- What decides whether blocks are quiet. -/
theorem Blocks.quiet_congr {x y : Blocks} (hr : y.routes = x.routes) (hl : y.lines = x.lines)
    (hw : y.waiting = x.waiting) (hm : y.mode = x.mode) (hf : y.work.freed = x.work.freed)
    (ht : y.work.tokenHeld = x.work.tokenHeld) (hh : y.work.halt = x.work.halt) (q : y.quiet) : x.quiet := by
  unfold Blocks.quiet Blocks.routeRec Blocks.lineRec at *
  rw [hr, hl, hw, hm, hf, ht, hh] at q
  exact q

/-- What an event makes of the blocks is kept by its follow-ups and its end. -/
theorem State.ended_kept (s : State) (b : Blocks) : Blocks.Kept b (s.ended b).blocks :=
  State.finish_settle_kept s s.port b

theorem State.served_kept (s : State) (b : Blocks) : Blocks.Kept b (s.served b).blocks :=
  State.finish_settle_kept s _ b

/-- An event with one raise, or one end: x is what it makes of the blocks, but for the alarm list. -/
theorem Blocks.After.of_op (s : State) (p : Port) (c x : Blocks) (o : AlarmOp) (hc : c = { x with work := c.work })
    (hi : x.freeIndex = s.blocks.freeIndex) (hw : (Port.writeAnswers c.clock p c.work.answers).2 = false)
    (ha : c.work.alarms = [o]) (hf : c.work.freed = x.work.freed) (ht : c.work.tokenHeld = x.work.tokenHeld)
    (hh : c.work.halt = x.work.halt) : (x.enterOp o).After (s.finish p c.settle).blocks := by
  have key := Blocks.After.of_event s p c (by rw [hc]; exact hi) hw
  rw [Blocks.enterAlarms_one c o ha] at key
  have hk : c.enterOp o = { x.enterOp o with work := c.work } := by
    rw [← Blocks.enterOp_setWork, ← hc]
  rw [hk] at key
  obtain ⟨xs, m, n, e⟩ := Blocks.enterOp_eq x o
  refine Blocks.After.of_work key (x.enterOp o).work rfl (Blocks.quiet_congr rfl rfl rfl rfl ?_ ?_ ?_) <;>
    rw [e]
  · exact hf.symm
  · exact ht.symm
  · exact hh.symm

/-! ### The serving of a request -/

/-- A request answered in its event, without alarms: its cell and the blocks. -/
theorem State.served_answer {s : State} {k : RequestKind} {q : Request} (h : s.serving k q) (x : Blocks)
    (hi : x.freeIndex = s.blocks.freeIndex) (ha : x.work.answers = []) (hl : x.work.alarms = []) (o : CellOutcome)
    (d : Detail) :
    (s.served (x.answer q.cell o d)).answered q.cell o d ∧ x.After (s.served (x.answer q.cell o d)).blocks := by
  have e : (x.answer q.cell o d).work.answers = [{ cell := q.cell, outcome := o, detail := d }] := by
    show x.work.answers ++ _ = _
    rw [ha]; rfl
  refine ⟨State.serving_answered s k q h _ o d e, ?_⟩
  refine Blocks.After.of_work (Blocks.After.of_silent s { s.port with handed := none } (x.answer q.cell o d) hi ?_ hl)
    x.work rfl (Blocks.quiet_congr rfl rfl rfl rfl rfl rfl rfl)
  rw [e]
  exact Port.writeAnswers_fine _ _ _ (fun a ha => by rw [List.mem_singleton.mp ha]; exact h.2.2.2.2.1) (by simp)

/-- A request answered in its event, with one raise or one end. -/
theorem State.served_op {s : State} {k : RequestKind} {q : Request} (h : s.serving k q) (x c : Blocks) (o : CellOutcome)
    (d : Detail) (m : AlarmOp) (hc : c = { x with work := c.work }) (hi : x.freeIndex = s.blocks.freeIndex)
    (ha : c.work.answers = [{ cell := q.cell, outcome := o, detail := d }]) (hl : c.work.alarms = [m])
    (hf : c.work.freed = x.work.freed) (ht : c.work.tokenHeld = x.work.tokenHeld) (hh : c.work.halt = x.work.halt) :
    (s.served c).answered q.cell o d ∧ (x.enterOp m).After (s.served c).blocks := by
  refine ⟨State.serving_answered s k q h _ o d ha, Blocks.After.of_op s _ c x m hc hi ?_ hl hf ht hh⟩
  rw [ha]
  exact Port.writeAnswers_fine _ _ _ (fun a ha => by rw [List.mem_singleton.mp ha]; exact h.2.2.2.2.1) (by simp)

/-- A request that leaves its cell open, without alarms and answers. -/
theorem State.served_open (s : State) (x : Blocks) (hi : x.freeIndex = s.blocks.freeIndex)
    (ha : x.work.answers = []) (hl : x.work.alarms = []) : x.After (s.served x).blocks :=
  Blocks.After.of_silent s _ x hi (by rw [ha]; rfl) hl

/-- An event that hands on no alarm and no answer. -/
theorem State.ended_silent (s : State) (x : Blocks) (hi : x.freeIndex = s.blocks.freeIndex)
    (ha : x.work.answers = []) (hl : x.work.alarms = []) : x.After (s.ended x).blocks :=
  Blocks.After.of_silent s _ x hi (by rw [ha]; rfl) hl

end Sys2Proof.Machine
end

