-- ==== Sys2Proof/Laws/Alarms.lean ====
section
/-! SUPPORT. What the alarm list's shared operations do: the advance of the sequence counter past the numbers in the list
(R162), an entry appended, and the oldest LAPSED entry taken out (R164). -/

namespace Sys2Proof.Machine

theorem AlarmRec.about_iff (a : AlarmRec) (k : AlarmKind) (e : Element) :
    a.about k e = true ↔ a.kind = k ∧ a.element = e := by simp [AlarmRec.about]

theorem seqAfter_pos (v : Nat) : 1 ≤ seqAfter v := by unfold seqAfter; split_ifs <;> omega

/-- Repeating a step from its first value on. -/
theorem repeat_succ (m v : Nat) : Nat.repeat seqAfter (m + 1) v = Nat.repeat seqAfter m (seqAfter v) := by
  induction m with
  | zero => rfl
  | succ m ih => exact congrArg seqAfter ih

/-- The counter after n steps, up to one turn. -/
theorem repeat_seqAfter {n v : Nat} (h1 : 1 ≤ v) (h2 : v ≤ 4294967295) (hn : n ≤ 4294967295) :
    Nat.repeat seqAfter n v = if v + n ≤ 4294967295 then v + n else v + n - 4294967295 := by
  induction n with
  | zero => simp [Nat.repeat, h2]
  | succ n ih =>
    show seqAfter (Nat.repeat seqAfter n v) = _
    rw [ih (by omega)]
    unfold seqAfter
    split_ifs <;> omega

theorem repeat_seqAfter_beyond {n v : Nat} (h : 4294967295 < v) : Nat.repeat seqAfter n v = v + n := by
  induction n with
  | zero => rfl
  | succ n ih =>
    show seqAfter (Nat.repeat seqAfter n v) = _
    rw [ih]
    unfold seqAfter
    split_ifs <;> omega

/-- The counter takes no value twice within 66 steps. -/
theorem repeat_seqAfter_inj {v m n : Nat} (hv : 1 ≤ v) (hm : m ≤ 66) (hn : n ≤ 66)
    (h : Nat.repeat seqAfter m v = Nat.repeat seqAfter n v) : m = n := by
  by_cases hb : v ≤ 4294967295
  · rw [repeat_seqAfter hv hb (by omega), repeat_seqAfter hv hb (by omega)] at h
    split_ifs at h <;> omega
  · rw [repeat_seqAfter_beyond (by omega), repeat_seqAfter_beyond (by omega)] at h
    omega

/-- The counter goes on over numbers of the list, and stops, fuel left, at one that no entry holds. -/
theorem advanceSeq_steps (xs : List AlarmRec) (fuel v : Nat) : ∃ n ≤ fuel,
    advanceSeq fuel xs v = Nat.repeat seqAfter n v ∧ (∀ m < n, ∃ a ∈ xs, a.seq = Nat.repeat seqAfter m v) ∧
    (n < fuel → ∀ a ∈ xs, a.seq ≠ advanceSeq fuel xs v) := by
  induction fuel generalizing v with
  | zero => exact ⟨0, le_refl _, rfl, by simp, by simp⟩
  | succ f ih =>
    unfold advanceSeq
    split
    · rename_i h
      obtain ⟨n, h1, h2, h3, h4⟩ := ih (seqAfter v)
      refine ⟨n + 1, by omega, by rw [h2, repeat_succ], fun m hm => ?_, fun q => h4 (by omega)⟩
      cases m with
      | zero =>
        simp only [List.any_eq_true, beq_iff_eq] at h
        exact h
      | succ m =>
        rw [repeat_succ]
        exact h3 m (by omega)
    · rename_i h
      refine ⟨0, by omega, rfl, by simp, fun _ a ha e => h ?_⟩
      simp only [List.any_eq_true, beq_iff_eq]
      exact ⟨a, ha, e⟩

/-- Over a list of at most 64 the counter finds a number that no entry holds. -/
theorem advanceSeq_free {xs : List AlarmRec} {v : Nat} (hx : xs.length ≤ 64) (hv : 1 ≤ v) :
    ∀ a ∈ xs, a.seq ≠ advanceSeq 65 xs v := by
  obtain ⟨n, h1, -, h3, h4⟩ := advanceSeq_steps xs 65 v
  refine h4 (Nat.lt_of_le_of_ne h1 ?_)
  rintro rfl
  have hs : (List.range 65).map (fun m => Nat.repeat seqAfter m v) ⊆ xs.map (·.seq) := by
    intro y hy
    simp only [List.mem_map, List.mem_range] at hy
    obtain ⟨m, hm, rfl⟩ := hy
    exact List.mem_map.mpr (h3 m hm)
  have nd : ((List.range 65).map (fun m => Nat.repeat seqAfter m v)).Nodup := by
    refine List.Nodup.map_on (fun x hx y hy h => ?_) List.nodup_range
    simp only [List.mem_range] at hx hy
    exact repeat_seqAfter_inj hv (by omega) (by omega) h
  have := (nd.subperm hs).length_le
  simp at this
  omega

/-- An entry appended to at most 63 others: the counter is beyond every number of the list. -/
theorem Blocks.appendAlarm_advances (b : Blocks) {xs : List AlarmRec} (a : AlarmRec) (h : xs.length < 64) :
    b.CounterAdvances (b.appendAlarm xs a) := by
  obtain ⟨n, -, h2, h3, -⟩ := advanceSeq_steps (xs ++ [{ a with seq := b.alarmCounter }]) 65 (seqAfter b.alarmCounter)
  exact ⟨n, by rw [repeat_succ]; exact h2, fun m hm => by rw [repeat_succ]; exact h3 m hm,
    advanceSeq_free (xs := xs ++ [_]) (by rw [List.length_append, List.length_singleton]; omega) (seqAfter_pos _)⟩

/-- R164: the LAPSED entry nearest the head is taken out. -/
theorem withoutOldestLapsed_some {before after : List AlarmRec} {x : AlarmRec} (hx : x.state = .lapsed)
    (hb : ∀ y ∈ before, y.state ≠ .lapsed) :
    withoutOldestLapsed (before ++ x :: after) = some (before ++ after) := by
  induction before with
  | nil => simp [withoutOldestLapsed, hx]
  | cons y ys ih => simp [withoutOldestLapsed, hb y (by simp), ih (fun z hz => hb z (by simp [hz]))]

theorem withoutOldestLapsed_none {l : List AlarmRec} (h : ∀ y ∈ l, y.state ≠ .lapsed) :
    withoutOldestLapsed l = none := by
  induction l with
  | nil => rfl
  | cons y ys ih => simp [withoutOldestLapsed, h y (by simp), ih (fun z hz => h z (by simp [hz]))]

end Sys2Proof.Machine
end

