-- ==== Sys2Proof/Laws/Frame.lean ====
section
/-! SUPPORT. What each change of a record can touch: the records of its kind, the slots that follow from them (units and
urgent lists) and the mirrors marked; every other field of the blocks is left. -/

namespace Sys2Proof.Machine

/-- The slots of the element records: units, buses and the mirrors marked. -/
theorem Blocks.setSlot_frame (b : Blocks) (n slot : Nat) (v : SlotValue) (u : Bool) : ∃ us x y d,
    b.setSlot n slot v u = { b with units := us, busA := x, busB := y, work := { b.work with dirty := d } } := by
  have urgent : ∀ (c : Blocks) (n : Nat), ∃ x y d,
      c.addUrgent n = { c with busA := x, busB := y, work := { c.work with dirty := d } } := by
    intro c n
    unfold Blocks.addUrgent
    split
    · exact ⟨_, _, _, rfl⟩
    · rename_i e he
      dsimp only
      split
      · exact ⟨_, _, _, rfl⟩
      · cases e.bus
        · exact ⟨_, _, _, rfl⟩
        · exact ⟨_, _, _, rfl⟩
  unfold Blocks.setSlot
  split
  · exact ⟨_, _, _, _, rfl⟩
  · split
    · exact ⟨_, _, _, _, rfl⟩
    · dsimp only
      split
      · obtain ⟨x, y, d, e⟩ := urgent (Blocks.mark _ (.unit n)) n
        rw [e]
        exact ⟨_, _, _, _, rfl⟩
      · exact ⟨_, _, _, _, rfl⟩

theorem Blocks.setSlots_frame (cs : List Channel) (v : SlotValue) (u : Bool) : ∀ b : Blocks, ∃ us x y d,
    cs.foldl (fun b c => b.setSlot c.unit c.slot v u) b =
      { b with units := us, busA := x, busB := y, work := { b.work with dirty := d } } := by
  induction cs with
  | nil => intro b; exact ⟨_, _, _, _, rfl⟩
  | cons c cs ih =>
    intro b
    obtain ⟨us, x, y, d, e⟩ := Blocks.setSlot_frame b c.unit c.slot v u
    obtain ⟨us', x', y', d', e'⟩ := ih (b.setSlot c.unit c.slot v u)
    refine ⟨us', x', y', d', ?_⟩
    rw [List.foldl_cons, e', e]

theorem Blocks.refreshPoint_frame (b : Blocks) (n : Nat) : ∃ us x y d,
    b.refreshPoint n = { b with units := us, busA := x, busB := y, work := { b.work with dirty := d } } := by
  unfold Blocks.refreshPoint
  split
  · exact Blocks.setSlots_frame _ _ _ _
  · exact ⟨_, _, _, _, rfl⟩

theorem Blocks.refreshSignal_frame (b : Blocks) (n : Nat) : ∃ us x y d,
    b.refreshSignal n = { b with units := us, busA := x, busB := y, work := { b.work with dirty := d } } := by
  unfold Blocks.refreshSignal
  split
  · exact Blocks.setSlot_frame _ _ _ _ _
  · exact ⟨_, _, _, _, rfl⟩

theorem Blocks.updSection_frame (b : Blocks) (n : Nat) (f : SectionRec → SectionRec) : ∃ ss d,
    b.updSection n f = { b with sections := ss, work := { b.work with dirty := d } } := by
  unfold Blocks.updSection
  (repeat' split) <;> exact ⟨_, _, rfl⟩

theorem Blocks.updPoint_frame (b : Blocks) (n : Nat) (f : PointRec → PointRec) : ∃ ps us x y d,
    b.updPoint n f = { b with points := ps, units := us, busA := x, busB := y, work := { b.work with dirty := d } } := by
  unfold Blocks.updPoint
  split
  · exact ⟨_, _, _, _, _, rfl⟩
  · rename_i r _
    split
    · exact ⟨_, _, _, _, _, rfl⟩
    · obtain ⟨us, x, y, d, e⟩ := Blocks.refreshPoint_frame
        (({ b with points := b.points.set n (f r) } : Blocks).mark (.point n)) n
      rw [e]
      exact ⟨_, _, _, _, _, rfl⟩

theorem Blocks.updSignal_frame (b : Blocks) (n : Nat) (f : SignalRec → SignalRec) : ∃ ss us x y d,
    b.updSignal n f = { b with signals := ss, units := us, busA := x, busB := y, work := { b.work with dirty := d } } := by
  unfold Blocks.updSignal
  split
  · exact ⟨_, _, _, _, _, rfl⟩
  · rename_i r _
    split
    · exact ⟨_, _, _, _, _, rfl⟩
    · obtain ⟨us, x, y, d, e⟩ := Blocks.refreshSignal_frame
        (({ b with signals := b.signals.set n (f r) } : Blocks).mark (.signal n)) n
      rw [e]
      exact ⟨_, _, _, _, _, rfl⟩

theorem Blocks.updRoute_frame (b : Blocks) (n : Nat) (f : RouteRec → RouteRec) : ∃ rs d,
    b.updRoute n f = { b with routes := rs, work := { b.work with dirty := d } } := by
  unfold Blocks.updRoute
  (repeat' split) <;> exact ⟨_, _, rfl⟩

theorem Blocks.updLine_frame (b : Blocks) (n : Nat) (f : LineRec → LineRec) : ∃ ls d,
    b.updLine n f = { b with lines := ls, work := { b.work with dirty := d } } := by
  unfold Blocks.updLine
  (repeat' split) <;> exact ⟨_, _, rfl⟩

theorem Blocks.updLink_frame (b : Blocks) (n : Nat) (f : LinkRec → LinkRec) : ∃ ls d,
    b.updLink n f = { b with links := ls, work := { b.work with dirty := d } } := by
  unfold Blocks.updLink
  split
  · exact ⟨_, _, rfl⟩
  · dsimp only
    split <;> exact ⟨_, _, rfl⟩

theorem Blocks.updUnit_frame (b : Blocks) (n : Nat) (f : UnitRec → UnitRec) : ∃ us d,
    b.updUnit n f = { b with units := us, work := { b.work with dirty := d } } := by
  unfold Blocks.updUnit
  split
  · exact ⟨_, _, rfl⟩
  · dsimp only
    split <;> exact ⟨_, _, rfl⟩

theorem Blocks.updArea_frame (b : Blocks) (n : Nat) (f : PossessionRec → PossessionRec) : ∃ rs d,
    b.updArea n f = { b with areas := rs, work := { b.work with dirty := d } } := by
  unfold Blocks.updArea
  (repeat' split) <;> exact ⟨_, _, rfl⟩

/-- R127: a telegram sent changes the link's transmit sequence and what has been sent. -/
theorem Blocks.sendBorder_frame (b : Blocks) (port : Nat) (t : Telegram) : ∃ ls d x,
    b.sendBorder port t = { b with links := ls, work := { b.work with dirty := d, sent := x } } := by
  unfold Blocks.sendBorder
  split
  · rename_i i l _ _
    split
    · exact ⟨_, _, _, rfl⟩
    · obtain ⟨ls, d, e⟩ := Blocks.updLink_frame b port (fun l => { l with transmit := l.transmit + 1 })
      rw [e]
      exact ⟨_, _, _, rfl⟩
  · exact ⟨_, _, _, rfl⟩

/-! ### A record after its change -/

theorem getElem?_set_map {α : Type} (l : List α) (n m : Nat) (x : α) :
    (l.set n x)[m]? = if n = m then (l[m]?).map (fun _ => x) else l[m]? := by
  rw [List.getElem?_set]
  split
  · rename_i h
    subst h
    split
    · rename_i h
      rw [List.getElem?_eq_getElem h]; rfl
    · rename_i h
      rw [List.getElem?_eq_none (by omega)]; rfl
  · rfl

theorem Blocks.updSection_rec (b : Blocks) (n m : Nat) (f : SectionRec → SectionRec) :
    (b.updSection n f).sectionRec m = if n = m then (b.sectionRec m).map f else b.sectionRec m := by
  unfold Blocks.updSection
  split
  · rename_i h
    split
    · rename_i e; subst e; rw [h]; rfl
    · rfl
  · rename_i r h
    split
    · rename_i hf
      split
      · rename_i e; subst e; rw [h, Option.map_some, hf]
      · rfl
    · show (b.sections.set n (f r))[m]? = _
      rw [getElem?_set_map]
      split
      · rename_i e; subst e
        change b.sections[n]? = some r at h
        show (b.sections[n]?).map _ = (b.sections[n]?).map f
        rw [h]; rfl
      · rfl

theorem Blocks.updPoint_rec (b : Blocks) (n m : Nat) (f : PointRec → PointRec) :
    (b.updPoint n f).pointRec m = if n = m then (b.pointRec m).map f else b.pointRec m := by
  unfold Blocks.updPoint
  split
  · rename_i h
    split
    · rename_i e; subst e; rw [h]; rfl
    · rfl
  · rename_i r h
    split
    · rename_i hf
      split
      · rename_i e; subst e; rw [h, Option.map_some, hf]
      · rfl
    · obtain ⟨us, x, y, d, e⟩ := Blocks.refreshPoint_frame
        (({ b with points := b.points.set n (f r) } : Blocks).mark (.point n)) n
      rw [e]
      show (b.points.set n (f r))[m]? = _
      rw [getElem?_set_map]
      split
      · rename_i e; subst e
        change b.points[n]? = some r at h
        show (b.points[n]?).map _ = (b.points[n]?).map f
        rw [h]; rfl
      · rfl

theorem Blocks.updSignal_rec (b : Blocks) (n m : Nat) (f : SignalRec → SignalRec) :
    (b.updSignal n f).signalRec m = if n = m then (b.signalRec m).map f else b.signalRec m := by
  unfold Blocks.updSignal
  split
  · rename_i h
    split
    · rename_i e; subst e; rw [h]; rfl
    · rfl
  · rename_i r h
    split
    · rename_i hf
      split
      · rename_i e; subst e; rw [h, Option.map_some, hf]
      · rfl
    · obtain ⟨us, x, y, d, e⟩ := Blocks.refreshSignal_frame
        (({ b with signals := b.signals.set n (f r) } : Blocks).mark (.signal n)) n
      rw [e]
      show (b.signals.set n (f r))[m]? = _
      rw [getElem?_set_map]
      split
      · rename_i e; subst e
        change b.signals[n]? = some r at h
        show (b.signals[n]?).map _ = (b.signals[n]?).map f
        rw [h]; rfl
      · rfl

theorem Blocks.updLine_rec (b : Blocks) (n m : Nat) (f : LineRec → LineRec) :
    (b.updLine n f).lineRec m = if n = m then (b.lineRec m).map f else b.lineRec m := by
  unfold Blocks.updLine
  split
  · rename_i h
    split
    · rename_i e; subst e; rw [h]; rfl
    · rfl
  · rename_i r h
    split
    · rename_i hf
      split
      · rename_i e; subst e; rw [h, Option.map_some, hf]
      · rfl
    · show ((b.lines.set n (some (f r)))[m]?).join = _
      rw [getElem?_set_map]
      split
      · rename_i e; subst e
        change (b.lines[n]?).join = some r at h
        show ((b.lines[n]?).map _).join = (b.lines[n]?).join.map f
        rw [h]
        cases hl : b.lines[n]? with
        | none => rw [hl] at h; cases h
        | some x => rfl
      · rfl

theorem Blocks.updArea_rec (b : Blocks) (n m : Nat) (f : PossessionRec → PossessionRec) :
    (b.updArea n f).areas[m]? = if n = m then (b.areas[m]?).map f else b.areas[m]? := by
  unfold Blocks.updArea
  split
  · rename_i h
    split
    · rename_i e; subst e; rw [h]; rfl
    · rfl
  · rename_i r h
    split
    · rename_i hf
      split
      · rename_i e; subst e; rw [h, Option.map_some, hf]
      · rfl
    · show (b.areas.set n (f r))[m]? = _
      rw [getElem?_set_map]
      split
      · rename_i e; subst e
        rw [h]; rfl
      · rfl

/-! ### Occupancy (R18, R26, R43) -/

/-- An occupancy change that is one: the section's record, and what is handed on. -/
theorem Blocks.setOccupancy_eq (b : Blocks) (n : Nat) (o : Occupancy) (t : Clock) (c : Option Clock) (r : SectionRec)
    (h : b.sectionRec n = some r) (ho : r.occupancy ≠ o) : ∃ d ts os,
    b.setOccupancy n o t c = { b with
      sections := b.sections.set n (r.withOccupancy o t c)
      work := { b.work with
        dirty := d
        alarms := if r.occupancy = .disturbed then b.work.alarms ++ [.ended .sectionDisturbed (.sec n) t]
          else b.work.alarms
        freed := if o = .clear then true else b.work.freed
        touched := ts
        occupations := os } } := by
  have hf : r.withOccupancy o t c ≠ r := fun e => ho (by rw [← e]; rfl)
  unfold Blocks.setOccupancy
  rw [h]
  dsimp only
  rw [if_neg ho]
  have hu : b.updSection n (fun r => r.withOccupancy o t c) =
      ({ b with sections := b.sections.set n (r.withOccupancy o t c) } : Blocks).mark (.sec n) := by
    unfold Blocks.updSection
    rw [h]
    dsimp only
    rw [if_neg hf]
  rw [hu]
  split <;> split <;> exact ⟨_, _, _, rfl⟩

theorem Blocks.setOccupancy_same (b : Blocks) (n : Nat) (o : Occupancy) (t : Clock) (c : Option Clock)
    (h : ∀ r, b.sectionRec n = some r → r.occupancy = o) : b.setOccupancy n o t c = b := by
  unfold Blocks.setOccupancy
  split
  · rfl
  · rename_i r hr
    rw [if_pos (h r hr)]

theorem Blocks.setOccupancy_frame (b : Blocks) (n : Nat) (o : Occupancy) (t : Clock) (c : Option Clock) :
    ∃ ss d as f ts os, b.setOccupancy n o t c = { b with
      sections := ss
      work := { b.work with dirty := d, alarms := as, freed := f, touched := ts, occupations := os } } := by
  by_cases h : ∀ r, b.sectionRec n = some r → r.occupancy = o
  · rw [Blocks.setOccupancy_same b n o t c h]
    exact ⟨_, _, _, _, _, _, rfl⟩
  · push Not at h
    obtain ⟨r, hr, ho⟩ := h
    obtain ⟨d, ts, os, e⟩ := Blocks.setOccupancy_eq b n o t c r hr ho
    rw [e]
    exact ⟨_, _, _, _, _, _, rfl⟩

/-! ### Marks -/

/-- A reminder mark: the element records and what follows from them. -/
theorem Blocks.setReminder_frame (b : Blocks) (e : Element) (v : Bool) : ∃ ss ps gs us x y d,
    b.setReminder e v = { b with
      sections := ss, points := ps, signals := gs, units := us, busA := x, busB := y
      work := { b.work with dirty := d } } := by
  unfold Blocks.setReminder
  split
  · obtain ⟨_, _, h⟩ := Blocks.updSection_frame b e.number (fun r => { r with reminder := v })
    exact ⟨_, _, _, _, _, _, _, h⟩
  · obtain ⟨_, _, _, _, _, h⟩ := Blocks.updPoint_frame b e.number (fun r => { r with reminder := v })
    exact ⟨_, _, _, _, _, _, _, h⟩
  · obtain ⟨_, _, _, _, _, h⟩ := Blocks.updSignal_frame b e.number (fun r => { r with reminder := v })
    exact ⟨_, _, _, _, _, _, _, h⟩
  · exact ⟨_, _, _, _, _, _, _, rfl⟩

/-- A standing restriction mark likewise. -/
theorem Blocks.setStanding_frame (b : Blocks) (e : Element) (v : Bool) : ∃ ss ps gs us x y d,
    b.setStanding e v = { b with
      sections := ss, points := ps, signals := gs, units := us, busA := x, busB := y
      work := { b.work with dirty := d } } := by
  unfold Blocks.setStanding
  split
  · obtain ⟨_, _, h⟩ := Blocks.updSection_frame b e.number (fun r => { r with standing := v })
    exact ⟨_, _, _, _, _, _, _, h⟩
  · obtain ⟨_, _, _, _, _, h⟩ := Blocks.updPoint_frame b e.number (fun r => { r with standing := v })
    exact ⟨_, _, _, _, _, _, _, h⟩
  · obtain ⟨_, _, _, _, _, h⟩ := Blocks.updSignal_frame b e.number (fun r => { r with standing := v })
    exact ⟨_, _, _, _, _, _, _, h⟩
  · exact ⟨_, _, _, _, _, _, _, rfl⟩

end Sys2Proof.Machine
end

