-- ==== Sys2Proof/Laws/Border.lean ====
section
/-! SUPPORT. The border unit's shared operations: what a change of a link leaves, what a discarded or broken off telegram
and a noted sequence can touch, how a telegram that is heard is acted on, and what a whole release leaves of an entry
ask. -/

namespace Sys2Proof.Machine

theorem Blocks.updLink_rec (b : Blocks) (n m : Nat) (f : LinkRec → LinkRec) :
    (b.updLink n f).linkRec m = if n = m then (b.linkRec m).map f else b.linkRec m := by
  unfold Blocks.updLink
  split
  · rename_i h
    split
    · rename_i e; subst e; rw [h]; rfl
    · rfl
  · rename_i r h
    have key : ((b.links.set n (some (f r)))[m]?).join = if n = m then (b.linkRec m).map f else b.linkRec m := by
      rw [getElem?_set_map]
      split
      · rename_i e; subst e
        rw [h]
        change (b.links[n]?).join = some r at h
        cases hl : b.links[n]? with
        | none => rw [hl] at h; cases h
        | some x => rfl
      · rfl
    dsimp only
    split <;> exact key

/-- R125: what a discarded telegram can touch. -/
theorem Blocks.discardTelegram_frame (b : Blocks) (port : Nat) : ∃ ls d a,
    b.discardTelegram port = { b with links := ls, work := { b.work with dirty := d, alarms := a } } := by
  unfold Blocks.discardTelegram
  split
  · exact ⟨_, _, _, rfl⟩
  · obtain ⟨ls, d, e⟩ := Blocks.updLink_frame b port (fun l =>
      { l with valid := if l.state = .starting then 0 else l.valid, errorReported := true })
    dsimp only
    rw [e]
    split <;> exact ⟨_, _, _, rfl⟩

/-- R125: the link's record after a telegram is discarded. -/
theorem Blocks.discardTelegram_rec (b : Blocks) (port m : Nat) :
    (b.discardTelegram port).linkRec m = if port = m then (b.linkRec m).map (fun l =>
      { l with valid := if l.state = .starting then 0 else l.valid, errorReported := true }) else b.linkRec m := by
  rw [← Blocks.updLink_rec]
  unfold Blocks.discardTelegram
  split
  · rename_i h
    unfold Blocks.updLink
    rw [h]
  · dsimp only
    split <;> rfl

/-- R199: with no telegram open none is broken off. -/
theorem Blocks.breakOff_none (b : Blocks) (port : Nat) (h : b.collectedOn port = []) : b.breakOff port = b := by
  unfold Blocks.breakOff
  rw [h]
  rfl

/-- R199: what the breaking off of a telegram can touch. -/
theorem Blocks.breakOff_frame (b : Blocks) (port : Nat) : ∃ ls cs d a,
    b.breakOff port = { b with links := ls, collected := cs, work := { b.work with dirty := d, alarms := a } } := by
  unfold Blocks.breakOff
  split
  · exact ⟨_, _, _, _, rfl⟩
  · obtain ⟨ls, d, a, e⟩ := Blocks.discardTelegram_frame (b.setCollected port []) port
    rw [e]
    exact ⟨_, _, _, _, rfl⟩

/-- R199: the link's record after a telegram is broken off: its state and its neighbour stand. -/
theorem Blocks.breakOff_rec (b : Blocks) (port m : Nat) :
    (b.breakOff port).linkRec m = if port = m ∧ b.collectedOn port ≠ [] then (b.linkRec m).map (fun l =>
      { l with valid := if l.state = .starting then 0 else l.valid, errorReported := true }) else b.linkRec m := by
  unfold Blocks.breakOff
  by_cases h : b.collectedOn port = []
  · rw [h]
    simp
  · rw [if_neg (by rw [List.isEmpty_iff]; exact h), Blocks.discardTelegram_rec]
    simp only [ne_eq, h, not_false_eq_true, and_true]
    rfl

/-- R199: the link of the port after a telegram is broken off. -/
theorem Blocks.breakOff_link (b : Blocks) (port : Nat) (l : LinkRec) (h : b.linkRec port = some l) :
    ∃ m, (b.breakOff port).linkRec port = some m ∧ m.state = l.state ∧ m.neighbour = l.neighbour := by
  rw [Blocks.breakOff_rec, h]
  split
  · exact ⟨_, rfl, rfl, rfl⟩
  · exact ⟨_, rfl, rfl, rfl⟩

/-- R125: what a noted sequence can touch. -/
theorem Blocks.noteSequence_frame (b : Blocks) (port : Nat) (seq : Byte) : ∃ ls d,
    b.noteSequence port seq = { b with links := ls, work := { b.work with dirty := d } } :=
  Blocks.updLink_frame b port _

/-- R125, R199: what a valid telegram changes before it is acted on. -/
theorem Blocks.noted_frame (b : Blocks) (port : Nat) (seq : Byte) : ∃ ls cs d a,
    (b.breakOff port).noteSequence port seq =
      { b with links := ls, collected := cs, work := { b.work with dirty := d, alarms := a } } := by
  obtain ⟨ls, d, e⟩ := Blocks.noteSequence_frame (b.breakOff port) port seq
  obtain ⟨ls', cs, d', a, e'⟩ := Blocks.breakOff_frame b port
  rw [e, e']
  exact ⟨_, _, _, _, rfl⟩

/-- R125: a telegram with a wrong sender or line is discarded. -/
theorem Blocks.receive_bad (b : Blocks) (h : TelegramHead) (line : Option Nat) (act : Blocks → Blocks) (l : LinkRec)
    (hi : b.inForce ≠ none) (hl : b.linkRec h.port = some l)
    (hv : h.sender.toNat ≠ l.neighbour ∨ ∃ n, line = some n ∧ (portOf n ≠ h.port ∨ b.lineEntry n = none)) :
    b.receive h line act = some ((b.breakOff h.port).discardTelegram h.port) := by
  unfold Blocks.receive
  obtain ⟨w, hw⟩ := Option.ne_none_iff_exists'.mp hi
  have he : ∀ n, (b.breakOff h.port).lineEntry n = b.lineEntry n := by
    intro n
    obtain ⟨ls, cs, d, a, e⟩ := Blocks.breakOff_frame b h.port
    rw [e]; rfl
  have hb : (b.breakOff h.port).headValid l h line = false := by
    unfold Blocks.headValid
    rcases hv with hv | ⟨n, rfl, hv⟩
    · simp [hv]
    · simp only [Option.all_some, he]
      rcases hv with hv | hv <;> simp [hv]
  rw [show b.image? = some w.image by unfold Blocks.image?; rw [hw]; rfl, hl]
  dsimp only
  rw [hb]
  rfl

/-- R125: a valid telegram is noted, and then acted on. -/
theorem Blocks.receive_good (b : Blocks) (h : TelegramHead) (line : Option Nat) (act : Blocks → Blocks) (l : LinkRec)
    (hi : b.inForce ≠ none) (hl : b.linkRec h.port = some l) (hs : h.sender.toNat = l.neighbour)
    (hv : ∀ n, line = some n → portOf n = h.port ∧ b.lineEntry n ≠ none) :
    b.receive h line act = some (act ((b.breakOff h.port).noteSequence h.port h.seq)) := by
  unfold Blocks.receive
  obtain ⟨w, hw⟩ := Option.ne_none_iff_exists'.mp hi
  have he : ∀ n, (b.breakOff h.port).lineEntry n = b.lineEntry n := by
    intro n
    obtain ⟨ls, cs, d, a, e⟩ := Blocks.breakOff_frame b h.port
    rw [e]; rfl
  have hb : (b.breakOff h.port).headValid l h line = true := by
    unfold Blocks.headValid
    cases line with
    | none => simp [hs]
    | some n =>
      obtain ⟨h1, h2⟩ := hv n rfl
      simp only [Option.all_some, he]
      simp [hs, h1, Option.isSome_iff_ne_none, h2]
  rw [show b.image? = some w.image by unfold Blocks.image?; rw [hw]; rfl, hl]
  dsimp only
  rw [hb]
  rfl

/-- R126: the state of the link a telegram came on, after it has been noted. -/
theorem Blocks.noted_linkUp (b : Blocks) (port : Nat) (seq : Byte) (l : LinkRec) (hl : b.linkRec port = some l) :
    ((b.breakOff port).noteSequence port seq).linkUp port = decide (l.state = .up) := by
  obtain ⟨m, hm, hst, -⟩ := Blocks.breakOff_link b port l hl
  unfold Blocks.linkUp Blocks.noteSequence
  rw [Blocks.updLink_rec, if_pos rfl, hm]
  simp [hst]

/-- A telegram that names a line and is heard on a link that is UP: noted, and then acted on. -/
theorem State.hears_event {s : State} {h : TelegramHead} {line : Byte} {k : LineEntry} {l : LineRec}
    (hh : s.hears h line.toNat k l) (act : Blocks → Nat → Blocks) :
    s.event (fun b => b.receiveLine h line act) =
      .next (s.ended (act ((s.blocks.breakOff h.port).noteSequence h.port h.seq) line.toNat)) := by
  obtain ⟨ha, -, ⟨m, hm, hup, hs⟩, hp, hk, -⟩ := hh
  refine State.event_next s _ _ ha ?_
  have hi : s.blocks.inForce ≠ none := by
    intro e
    unfold Blocks.lineEntry Blocks.image? at hk
    rw [e] at hk
    cases hk
  unfold Blocks.receiveLine
  rw [Blocks.receive_good s.blocks h (some line.toNat) _ m hi hm hs (by
    intro n e
    cases e
    exact ⟨hp, by rw [hk]; exact Option.some_ne_none _⟩), Blocks.noted_linkUp _ _ _ m hm, hup]
  rfl

/-- R135: forgetting the ask leaves none on the line. -/
theorem Blocks.forgetEntryAsk_none (b : Blocks) (line : Nat) (x : LineRec)
    (h : (b.forgetEntryAsk line).lineRec line = some x) : x.entryAsk = none := by
  unfold Blocks.forgetEntryAsk at h
  rw [Blocks.updLine_rec, if_pos rfl] at h
  obtain ⟨l, -, rfl⟩ := Option.map_eq_some_iff.mp h
  rfl

/-- R135: after a whole release of a border route the line has no entry ask, whatever the grant. -/
theorem Blocks.borderReleased_entryAsk (b : Blocks) (p : BorderPart) (reference : Word16) (x : LineRec)
    (h : (b.borderReleased p reference).lineRec p.line = some x) : x.entryAsk = none := by
  unfold Blocks.borderReleased at h
  split at h
  · exact Blocks.forgetEntryAsk_none _ _ _ h
  · exact Blocks.forgetEntryAsk_none _ _ _ h
  · exact Blocks.forgetEntryAsk_none _ _ _ h
  · split at h
    · exact Blocks.forgetEntryAsk_none _ _ _ h
    · rw [Blocks.updLine_rec, if_pos rfl] at h
      obtain ⟨l, -, rfl⟩ := Option.map_eq_some_iff.mp h
      rfl

end Sys2Proof.Machine
end

