-- ==== Sys2Proof/Laws/Buses.lean ====
section
/-! SUPPORT. The units of a bus as the poll selection sees them (R107, R120): which they are, and their order. -/

namespace Sys2Proof.Machine

theorem Blocks.mem_busUnits (b : Blocks) (x : Bus) (a n : Nat) : (a, n) ∈ b.busUnits x ↔
    a < 32 ∧ ∃ e, b.unitEntry n = some e ∧ e.bus = x ∧ e.address = a := by
  unfold Blocks.busUnits Blocks.unitEntry
  cases b.image? with
  | none => simp
  | some i =>
    simp only [List.mem_flatMap, List.mem_range, List.mem_map, indicesWhere, List.mem_filter, Option.bind_some]
    constructor
    · rintro ⟨a', ha, m, ⟨hm, he⟩, h⟩
      obtain ⟨rfl, rfl⟩ := Prod.mk.inj h
      have hu := List.getElem?_eq_getElem hm
      rw [hu] at he
      simp at he
      exact ⟨ha, _, hu, he⟩
    · rintro ⟨ha, e, hu, h1, h2⟩
      exact ⟨a, ha, n, ⟨(List.getElem?_eq_some_iff.mp hu).1, by simp [hu, h1, h2]⟩, rfl⟩

theorem Blocks.busUnits_by_address (b : Blocks) (x : Bus) : (b.busUnits x).Pairwise (fun u v => u.1 ≤ v.1) := by
  unfold Blocks.busUnits
  cases b.image? with
  | none => exact List.Pairwise.nil
  | some i =>
    rw [List.pairwise_flatMap]
    refine ⟨fun a _ => ?_, List.pairwise_lt_range.imp fun h u hu v hv => ?_⟩
    · rw [List.pairwise_map]
      exact List.pairwise_of_forall (fun _ _ => le_refl _)
    · simp at hu hv
      obtain ⟨_, _, rfl⟩ := hu
      obtain ⟨_, _, rfl⟩ := hv
      exact h.le

end Sys2Proof.Machine
end

