-- ==== Sys2Proof/Laws/Claims.lean ====
section
/-! SUPPORT. What a release set does to its owner's list of holds (R41): it is applied exactly when the owner has every
item, and takes each item once. -/

namespace Sys2Proof.Machine

/-- R41: a release set can be taken exactly when the owner has every item as often as it stands in the set. -/
theorem takeHolds_isSome (c : Claimant) (items : List Hold) (hs : List HoldRec) :
    (takeHolds c items hs).isSome = true ↔ ∀ h, items.count h ≤ hs.count { claimant := c, hold := h } := by
  induction items generalizing hs with
  | nil => simp [takeHolds]
  | cons x xs ih =>
    unfold takeHolds
    split
    · rename_i hc
      rw [ih]
      have hx : 0 < hs.count { claimant := c, hold := x } := List.count_pos_iff.mpr (List.contains_iff_mem.mp hc)
      refine forall_congr' fun h => ?_
      by_cases e : h = x
      · subst e
        rw [List.count_erase_self, List.count_cons_self]
        omega
      · rw [List.count_erase_of_ne (fun k => e (by cases k; rfl)), List.count_cons_of_ne (Ne.symm e)]
    · rename_i hc
      refine ⟨fun h => absurd h (by simp), fun h => absurd (h x) ?_⟩
      rw [List.count_eq_zero.mpr (fun m => hc (List.contains_iff_mem.mpr m)), List.count_cons_self]
      omega

/-- R41: what is left of the holds, each item having taken one of its owner's. -/
theorem takeHolds_count {c : Claimant} {items : List Hold} {hs ks : List HoldRec} (h : takeHolds c items hs = some ks)
    (x : HoldRec) : ks.count x = hs.count x - if x.claimant = c then items.count x.hold else 0 := by
  induction items generalizing hs with
  | nil =>
    cases h
    simp
  | cons y ys ih =>
    unfold takeHolds at h
    split at h
    · rw [ih h]
      by_cases e : x = { claimant := c, hold := y }
      · subst e
        simp only [if_true, List.count_erase_self, List.count_cons_self]
        omega
      · rw [List.count_erase_of_ne e]
        split
        · rename_i hc
          rw [List.count_cons_of_ne (fun k => e (by rw [← hc, k]))]
        · rfl
    · cases h

/-- R41: a release set that its owner has is applied item by item, and its items leave the holds. -/
theorem Blocks.release_of_hasHolds {b : Blocks} {c : Claimant} {items : List Hold} (h : b.hasHolds c items) :
    ∃ ks, b.release c items = { items.foldl Blocks.releaseItem b with holds := ks }.markFreed ∧
      ∀ x, ks.count x = b.holds.count x - if x.claimant = c then items.count x.hold else 0 := by
  obtain ⟨ks, hk⟩ := Option.isSome_iff_exists.mp ((takeHolds_isSome c items b.holds).mpr h)
  exact ⟨ks, by unfold Blocks.release; rw [hk], takeHolds_count hk⟩

end Sys2Proof.Machine
end

