-- ==== Sys2Proof/Laws/PerInstr.lean ====
section
/-! SUPPORT. A family of statements for all commands, one lemma per constructor: the table gives no row any bits, so no
word spells a command. -/

namespace Sys2Proof.Laws.Wordless

/-- No word spells the command. -/
def Statement (i : Instr) : Prop := ∀ nbits w, decodeTableWord nbits w ≠ some i

theorem hardRestart : Statement .hardRestart := fun _ _ => nofun

theorem post (value : Word16) : Statement (.post value) := fun _ _ => nofun

theorem noticeRead : Statement .noticeRead := fun _ _ => nofun

theorem noticeMaskWrite (value : Word16) : Statement (.noticeMaskWrite value) := fun _ _ => nofun

theorem restart : Statement .restart := fun _ _ => nofun

theorem clearStray : Statement .clearStray := fun _ _ => nofun

theorem registerWriteNoEffect (reg : QuietRegister) (value : Word16) : Statement (.registerWriteNoEffect reg value) := fun _ _ => nofun

theorem hostMemoryAccess (access : HostAccess) : Statement (.hostMemoryAccess access) := fun _ _ => nofun

theorem keyLevelChange (level : Bool) : Statement (.keyLevelChange level) := fun _ _ => nofun

theorem takeCell : Statement .takeCell := fun _ _ => nofun

theorem setRoute : Statement .setRoute := fun _ _ => nofun

theorem cancelRoute : Statement .cancelRoute := fun _ _ => nofun

theorem callPoints : Statement .callPoints := fun _ _ => nofun

theorem applyReminder : Statement .applyReminder := fun _ _ => nofun

theorem removeReminder : Statement .removeReminder := fun _ _ => nofun

theorem applyStandingRestriction : Statement .applyStandingRestriction := fun _ _ => nofun

theorem grantPossession : Statement .grantPossession := fun _ _ => nofun

theorem liftPossession : Statement .liftPossession := fun _ _ => nofun

theorem arm : Statement .arm := fun _ _ => nofun

theorem restoreSection : Statement .restoreSection := fun _ _ => nofun

theorem emergencyRelease : Statement .emergencyRelease := fun _ _ => nofun

theorem removeStanding : Statement .removeStanding := fun _ _ => nofun

theorem forceLift : Statement .forceLift := fun _ _ => nofun

theorem tokenRestore : Statement .tokenRestore := fun _ _ => nofun

theorem receptionRelease : Statement .receptionRelease := fun _ _ => nofun

theorem acknowledgeAlarm : Statement .acknowledgeAlarm := fun _ _ => nofun

theorem loadSegment : Statement .loadSegment := fun _ _ => nofun

theorem loadReset : Statement .loadReset := fun _ _ => nofun

theorem commitTables : Statement .commitTables := fun _ _ => nofun

theorem leaveService : Statement .leaveService := fun _ _ => nofun

theorem commandTelegramEnd (bus : Bus) : Statement (.commandTelegramEnd bus) := fun _ _ => nofun

theorem replyComplete (bus : Bus) (chars : List LineChar) : Statement (.replyComplete bus chars) := fun _ _ => nofun

theorem replyTimeout (bus : Bus) : Statement (.replyTimeout bus) := fun _ _ => nofun

theorem confirmationTimerExpiry (sec : Nat) : Statement (.confirmationTimerExpiry sec) := fun _ _ => nofun

theorem moveTimerExpiry (point : Nat) : Statement (.moveTimerExpiry point) := fun _ _ => nofun

theorem approachTimerExpiry (slot : Nat) : Statement (.approachTimerExpiry slot) := fun _ _ => nofun

theorem emergencyTimerExpiry (slot : Nat) : Statement (.emergencyTimerExpiry slot) := fun _ _ => nofun

theorem entryWaitExpiry (slot : Nat) : Statement (.entryWaitExpiry slot) := fun _ _ => nofun

theorem waitingEntryExpiry (route : Nat) : Statement (.waitingEntryExpiry route) := fun _ _ => nofun

theorem tokenWaitEntryExpiry (route : Nat) : Statement (.tokenWaitEntryExpiry route) := fun _ _ => nofun

theorem overlapTimerExpiry (slot : Nat) : Statement (.overlapTimerExpiry slot) := fun _ _ => nofun

theorem lineStateInterval : Statement .lineStateInterval := fun _ _ => nofun

theorem linkSilenceTimeout (port : Nat) : Statement (.linkSilenceTimeout port) := fun _ _ => nofun

theorem tokenWaitExpiry (line : Nat) : Statement (.tokenWaitExpiry line) := fun _ _ => nofun

theorem handoverSendTime (line : Nat) : Statement (.handoverSendTime line) := fun _ _ => nofun

theorem lineState (head : TelegramHead) (views : List LineView) : Statement (.lineState head views) := fun _ _ => nofun

theorem tokenAsk (head : TelegramHead) (line : Byte) : Statement (.tokenAsk head line) := fun _ _ => nofun

theorem tokenGive (head : TelegramHead) (line : Byte) : Statement (.tokenGive head line) := fun _ _ => nofun

theorem tokenDecline (head : TelegramHead) (line : Byte) : Statement (.tokenDecline head line) := fun _ _ => nofun

theorem entryAsk (head : TelegramHead) (line : Byte) (reference : Word16) (identity : TelegramIdentity) : Statement (.entryAsk head line reference identity) := fun _ _ => nofun

theorem entryGrant (head : TelegramHead) (line : Byte) (reference : Word16) : Statement (.entryGrant head line reference) := fun _ _ => nofun

theorem entryDeny (head : TelegramHead) (line : Byte) (reference : Word16) : Statement (.entryDeny head line reference) := fun _ _ => nofun

theorem entryFree (head : TelegramHead) (line : Byte) (reference : Word16) : Statement (.entryFree head line reference) := fun _ _ => nofun

theorem trainPass (head : TelegramHead) (line : Byte) (identity : TelegramIdentity) : Statement (.trainPass head line identity) := fun _ _ => nofun

theorem trainTaken (head : TelegramHead) (line : Byte) : Statement (.trainTaken head line) := fun _ _ => nofun

theorem invalidBorderTelegram (port : Nat) (chars : List LineChar) : Statement (.invalidBorderTelegram port chars) := fun _ _ => nofun

theorem armEntryExpiry : Statement .armEntryExpiry := fun _ _ => nofun

theorem recordWriteEnd (readsBack : Bool) : Statement (.recordWriteEnd readsBack) := fun _ _ => nofun

theorem commitWriteEnd (readsBack : Bool) : Statement (.commitWriteEnd readsBack) := fun _ _ => nofun

theorem selfCheck (cause : SelfCheckCause) : Statement (.selfCheck cause) := fun _ _ => nofun

theorem timeLockExpiry : Statement .timeLockExpiry := fun _ _ => nofun

theorem resetAsserted : Statement .resetAsserted := fun _ _ => nofun

end Sys2Proof.Laws.Wordless
end

