-- ==== Sys2Proof/Laws/Restart.lean ====
section
/-! SUPPORT. What the two restarts do to the exchange port: the initialisation, and the answers before a soft restart. -/

namespace Sys2Proof.Machine

theorem Memory.wf_init (b : Blocks) (rs : List MirrorRec) :
    ∀ m : Memory, m.wf = true → (rs.foldl (Memory.initMirror b) m).wf = true := by
  induction rs with
  | nil => intro m h; exact h
  | cons r rs ih => intro m h; exact ih _ (Memory.wf_write _ _ _ h)

theorem Port.wf_initialise (p : Port) (b : Blocks) (h : p.hostMem.wf = true) :
    (p.initialise b).hostMem.wf = true ∧ (p.initialise b).mirrorMem.wf = true :=
  ⟨Memory.wf_filter _ _ h, Memory.wf_init _ _ _ rfl⟩

/-- What the answers before a soft restart change of the port: cells, in-flight marks and NOTICE. -/
structure Port.Answered (p q : Port) : Prop where
  mask : q.mask = p.mask
  intake : q.intake = p.intake
  handed : q.handed = p.handed
  strayMark : q.strayMark = p.strayMark
  stray : q.stray = p.stray
  generation : q.generation = p.generation
  mirrorMem : q.mirrorMem = p.mirrorMem
  inFlight : q.inFlight.length = p.inFlight.length
  hostMem : p.hostMem.wf = true → q.hostMem.wf = true
  closed : ∀ c, p.isInFlight c = false → q.isInFlight c = false

namespace Port.Answered

theorem refl (p : Port) : Answered p p := ⟨rfl, rfl, rfl, rfl, rfl, rfl, rfl, rfl, id, fun _ => id⟩

theorem trans {p q r : Port} (a : Answered p q) (b : Answered q r) : Answered p r :=
  ⟨b.1.trans a.1, b.2.trans a.2, b.3.trans a.3, b.4.trans a.4, b.5.trans a.5, b.6.trans a.6, b.7.trans a.7,
    b.8.trans a.8, fun h => b.9 (a.9 h), fun c h => b.10 c (a.10 c h)⟩

theorem writeAnswer (p : Port) (now : Clock) (a : Answer) : Answered p (p.writeAnswer now a) :=
  ⟨rfl, rfl, rfl, rfl, rfl, rfl, rfl, by simp [Port.writeAnswer],
    fun h => Memory.wf_write _ _ _ (Memory.wf_write _ _ _ (Memory.wf_write _ _ _ h)),
    fun c h => by rw [Port.isInFlight_writeAnswer]; split <;> simp_all⟩

theorem answerRestarted (now : Clock) (p : Port) (c : Nat) : Answered p (Port.answerRestarted now p c) :=
  writeAnswer _ _ _

theorem answerUntaken (now : Clock) (p : Port) (c : Nat) : Answered p (Port.answerUntaken now p c) :=
  trans (q := { p with hostMem := p.hostMem.write (cellAddr c + 4) (clockBytes now) })
    ⟨rfl, rfl, rfl, rfl, rfl, rfl, rfl, rfl, fun h => Memory.wf_write _ _ _ h, fun _ => id⟩
    (answerRestarted now { p with hostMem := p.hostMem.write (cellAddr c + 4) (clockBytes now) } c)

theorem foldl (g : Port → Nat → Port) (hg : ∀ p c, Answered p (g p c)) (l : List Nat) :
    ∀ p, Answered p (l.foldl g p) := by
  induction l with
  | nil => intro p; exact refl p
  | cons c l ih => intro p; exact trans (hg p c) (ih _)

/-- R196: the answers before a soft restart, but for the emptied intake list and the request handed on. -/
theorem answerAll (p : Port) (now : Clock) :
    ∃ q, Answered p q ∧ p.answerAll now = { q with intake := [], handed := none } :=
  ⟨_, trans (foldl _ (answerRestarted now) _ p) (foldl _ (answerUntaken now) _ _), rfl⟩

end Port.Answered

/-! ### RESTARTED in every open cell -/

/-- The bytes of a cell of which an answer RESTARTED is written. -/
def Port.restartedAt (p : Port) (now : Clock) (c : Nat) : Prop :=
  p.isInFlight c = false ∧ p.hostMem.read (cellAddr c) = 3 ∧
    p.hostMem.read (cellAddr c + 2) = byte CellOutcome.restarted.code ∧
    ∀ i < 4, p.hostMem.read (cellAddr c + 8 + i) = (clockBytes now).getD i 0

theorem Port.restartedAt_answer (p : Port) (now : Clock) (c : Nat) :
    (Port.answerRestarted now p c).restartedAt now c := by
  unfold Port.answerRestarted
  refine ⟨?_, ?_, ?_, fun i hi => ?_⟩
  · rw [Port.isInFlight_writeAnswer, if_pos rfl]
  · rw [Port.read_writeAnswer, if_pos rfl]
  · rw [Port.read_writeAnswer, if_neg (by dsimp only; omega), if_pos rfl]
  · rw [Port.read_writeAnswer, if_neg (by dsimp only; omega), if_neg (by dsimp only; omega),
      if_pos (by dsimp only; omega)]
    show (clockBytes now ++ _).getD (cellAddr c + 8 + i - (cellAddr c + 8)) 0 = _
    rw [show cellAddr c + 8 + i - (cellAddr c + 8) = i by omega, List.getD_append _ _ _ _ (by simp; omega)]

theorem cellAddr_apart {c d : Nat} (h : c ≠ d) : cellAddr c + 128 ≤ cellAddr d ∨ cellAddr d + 128 ≤ cellAddr c := by
  unfold cellAddr
  rcases Nat.lt_or_gt_of_ne h with q | q
  · left; omega
  · right; omega

theorem Port.restartedAt_other (p : Port) (now : Clock) (c d : Nat) (h : p.restartedAt now c) (hd : c ≠ d) :
    (Port.answerRestarted now p d).restartedAt now c ∧ (Port.answerUntaken now p d).restartedAt now c := by
  have ap := cellAddr_apart hd
  have key : ∀ q : Port, q.restartedAt now c → (Port.answerRestarted now q d).restartedAt now c := by
    intro q h
    unfold Port.answerRestarted
    refine ⟨?_, ?_, ?_, fun i hi => ?_⟩
    · rw [Port.isInFlight_writeAnswer, if_neg hd]; exact h.1
    · rw [Port.read_writeAnswer_off _ _ _ _ (by dsimp only; omega)]; exact h.2.1
    · rw [Port.read_writeAnswer_off _ _ _ _ (by dsimp only; omega)]; exact h.2.2.1
    · rw [Port.read_writeAnswer_off _ _ _ _ (by dsimp only; omega)]; exact h.2.2.2 i hi
  refine ⟨key p h, key _ ⟨h.1, ?_, ?_, fun i hi => ?_⟩⟩
  · show (p.hostMem.write _ _).read _ = _
    rw [Memory.read_write, if_neg (by simp; omega)]; exact h.2.1
  · show (p.hostMem.write _ _).read _ = _
    rw [Memory.read_write, if_neg (by simp; omega)]; exact h.2.2.1
  · show (p.hostMem.write _ _).read _ = _
    rw [Memory.read_write, if_neg (by simp; omega)]; exact h.2.2.2 i hi

theorem Port.restartedAt_keeps (now : Clock) (c : Nat) (g : Port → Nat → Port)
    (hg : ∀ p d, p.restartedAt now c → (g p d).restartedAt now c) (l : List Nat) :
    ∀ p : Port, p.restartedAt now c → (l.foldl g p).restartedAt now c := by
  induction l with
  | nil => intro p h; exact h
  | cons d l ih => intro p h; exact ih _ (hg p d h)

theorem Port.restartedAt_again (p : Port) (now : Clock) (c d : Nat) (h : p.restartedAt now c) :
    (Port.answerRestarted now p d).restartedAt now c := by
  by_cases hd : c = d
  · subst hd; exact Port.restartedAt_answer _ _ _
  · exact (Port.restartedAt_other p now c d h hd).1

theorem Port.restartedAt_untaken (p : Port) (now : Clock) (c d : Nat) (h : p.restartedAt now c) :
    (Port.answerUntaken now p d).restartedAt now c := by
  by_cases hd : c = d
  · subst hd; exact Port.restartedAt_answer _ _ _
  · exact (Port.restartedAt_other p now c d h hd).2

/-- R196: every cell in flight is answered RESTARTED before a soft restart. -/
theorem Port.answerAll_open (p : Port) (now : Clock) (c : Nat) (hc : c < 32) (h : p.isInFlight c = true) :
    (p.answerAll now).restartedAt now c := by
  have hmem : c ∈ p.openCells := by simp [Port.openCells, hc, h]
  have key : ∀ (l : List Nat) (p : Port), c ∈ l → (l.foldl (Port.answerRestarted now) p).restartedAt now c := by
    intro l
    induction l with
    | nil => intro p h; cases h
    | cons d l ih =>
      intro p h
      by_cases hd : c ∈ l
      · exact ih _ hd
      · have : c = d := by
          rcases List.mem_cons.1 h with q | q
          · exact q
          · exact absurd q hd
        subst this
        exact Port.restartedAt_keeps now c _ (fun p d h => Port.restartedAt_again p now c d h) l _
          (Port.restartedAt_answer p now c)
  exact Port.restartedAt_keeps now c _ (fun p d h => Port.restartedAt_untaken p now c d h) _ _ (key _ p hmem)

/-- R196: no cell is in flight after the answers before a soft restart. -/
theorem Port.answerAll_closed (p : Port) (now : Clock) (h : p.inFlight.length = 32) (c : Nat) :
    (p.answerAll now).isInFlight c = false := by
  by_cases hf : p.isInFlight c = true
  · have hc : c < 32 := by
      unfold Port.isInFlight at hf
      rcases Nat.lt_or_ge c 32 with q | q
      · exact q
      · rw [List.getD_eq_getElem?_getD, List.getElem?_eq_none (by omega)] at hf; cases hf
    exact (Port.answerAll_open p now c hc hf).1
  · obtain ⟨q, ha, e⟩ := Port.Answered.answerAll p now
    have := ha.closed c (Bool.eq_false_iff.2 hf)
    rw [e]; exact this

end Sys2Proof.Machine
end

