-- ==== Sys2Proof/Laws/Rule.lean ====
section
/-! SUPPORT. Everything a command can do to the state, as one rule: a property of the next state follows from it for
each of the few ways in which a command ends. -/

namespace Sys2Proof.Machine

/-- A property of the state after an outcome that ends an event. -/
theorem EndsEvent.rule {P : State → Prop} {s t : State} {o : Host.Outcome State Fault Refusal} (h : EndsEvent s o) (e : o = .next t) (h1 : P s)
    (h2 : ∀ p b, (p = s.port ∨ p = { s.port with handed := none }) → P (s.finish p b)) : P t := by
  rcases h with h | ⟨p, b, h, hp⟩
  · rw [h] at e; cases e; exact h1
  · rw [h] at e; cases e; exact h2 p b hp

/-- A property of the next state, from the property of each thing a command can do. -/
theorem exec_rule {P : State → Prop} {c : Instr} {s t : State} (h : exec c s = .next t)
    (hs : P s)
    (hfin : ∀ p b, (p = s.port ∨ p = { s.port with handed := none }) → P (s.finish p b))
    (hhard : P s.hardRestart)
    (hpost : ∀ v, c = .post v → s.blocks.mode ≠ .halted → P t)
    (hread : P { s with port := { s.port with hostRead := .register s.port.noticeValue, notice := 0 } })
    (hmask : ∀ m, P { s with port := { s.port with mask := m } })
    (hrestart : s.asleep = false → P s.softRestart)
    (hclear : P { s with port := { s.port with strayMark := false } })
    (hhr : ∀ r, P { s with port := { s.port with hostRead := r } })
    (hhw : ∀ a bs, P { s with port := s.port.hostWrite a bs })
    (hkey : ∀ l, P { s with blocks := { s.blocks with key := l }, port := s.port.latch Notice.mode })
    (htake : ∀ c r, s.asleep = false → s.port.intake = c :: r → P (s.takeHead c r))
    (hhold : s.held = false → P s.hold) : P t := by
  rcases exec_cases c s with e | e | e | e | e | e | e | e | e | e | e | e
  · exact e.rule h hs hfin
  · subst e; cases h; exact hhard
  · obtain ⟨v, rfl⟩ := e
    by_cases hm : s.blocks.mode = .halted
    · rw [show exec (.post v) s = .next s from if_pos hm] at h; cases h; exact hs
    · exact hpost v rfl hm
  · subst e; cases h; exact hread
  · obtain ⟨v, rfl⟩ := e; cases h; exact hmask _
  · subst e
    change execRestart s = _ at h
    unfold execRestart at h
    split at h
    · cases h; exact hs
    · rename_i q; cases h; exact hrestart (Bool.eq_false_iff.2 q)
  · subst e; cases h; exact hclear
  · obtain ⟨r, v, rfl⟩ := e; cases h; exact hs
  · obtain ⟨x, rfl⟩ := e
    change execHostMemoryAccess x s = _ at h
    unfold execHostMemoryAccess at h
    split at h
    · cases h
    · split at h
      · cases h; exact hhr _
      · cases h; exact hhw _ _
  · obtain ⟨l, rfl⟩ := e
    change execKeyLevelChange l s = _ at h
    unfold execKeyLevelChange at h
    split at h
    · cases h; exact hs
    · cases h; exact hkey _
  · subst e
    change execTakeCell s = _ at h
    unfold execTakeCell at h
    split at h
    · cases h; exact hs
    · split at h
      · cases h; exact hs
      · rename_i hn _ _ _ hi
        cases h; exact htake _ _ (by simp at hn; exact hn.1) hi
  · subst e
    change execResetAsserted s = _ at h
    unfold execResetAsserted at h
    split at h
    · cases h; exact hs
    · rename_i q; cases h; exact hhold (Bool.eq_false_iff.2 q)

/-- What POST does outside HALTED. -/
theorem post_rule {P : State → Prop} {v : Word16} {s t : State} (h : exec (.post v) s = .next t)
    (hm : s.blocks.mode ≠ .halted)
    (h1 : P (s.finish (s.port.setStray .badRun (postFirst v)) s.blocks))
    (h2 : P { s with port := { s.port with
      intake := (runCells (postFirst v) (postCount v)).foldl offerCell s.port.intake } }) : P t := by
  change execPost v s = _ at h
  unfold execPost at h
  rw [if_neg hm] at h
  split at h
  · cases h; exact h1
  · cases h; exact h2

/-- What the taking of a cell does. -/
theorem take_rule {P : State → Prop} {s : State} {c : Nat} {r : List Nat}
    (h1 : ∀ x, P (s.finish ({ s.port with intake := r }.setStray x c) s.blocks))
    (h2 : ∀ a : CellOutcome × Detail, P (s.finish ({ s.port with intake := r }.takeCell s.blocks.clock c) (s.blocks.answer c a.1 a.2)))
    (h3 : ∀ k, P (s.finish { { s.port with intake := r }.takeCell s.blocks.clock c with
      handed := some (({ s.port with intake := r } : Port).copyCell s.blocks.clock c k) } s.blocks)) :
    P (s.takeHead c r) := by
  unfold State.takeHead State.dispatch
  dsimp only
  split
  · exact h1 _
  · split
    · exact h1 _
    · split
      · exact h2 (_, _)
      · split
        · exact h3 _
        · exact h2 (_, _)

/-- While held in reset no row that acts on a block does anything (R182). -/
theorem exec_held (c : Instr) (s : State) (hh : s.held = true) (h : blockRow c = true) : exec c s = .next s := by
  have hs : s.asleep = true := by simp [State.asleep, hh]
  have ev : ∀ f, s.event f = .next s := fun f => by unfold State.event; rw [hs]; rfl
  have rq : ∀ m f, s.request m f = .next s := fun m f => by unfold State.request; rw [hs]; rfl
  have bv : ∀ x f, s.busEvent x f = .next s := fun x f => by unfold State.busEvent; rw [hh]; rfl
  have sv : ∀ f, s.storeEvent f = .next s := fun f => by unfold State.storeEvent; rw [hh]; rfl
  cases c with
  | hardRestart => exact absurd (show false = true from h) Bool.false_ne_true
  | post _ => exact absurd (show false = true from h) Bool.false_ne_true
  | noticeRead => exact absurd (show false = true from h) Bool.false_ne_true
  | noticeMaskWrite _ => exact absurd (show false = true from h) Bool.false_ne_true
  | restart => exact absurd (show false = true from h) Bool.false_ne_true
  | clearStray => exact absurd (show false = true from h) Bool.false_ne_true
  | registerWriteNoEffect _ _ => exact absurd (show false = true from h) Bool.false_ne_true
  | hostMemoryAccess _ => exact absurd (show false = true from h) Bool.false_ne_true
  | keyLevelChange _ => exact absurd (show false = true from h) Bool.false_ne_true
  | takeCell => exact absurd (show false = true from h) Bool.false_ne_true
  | setRoute => unfold exec execSetRoute; exact rq _ _
  | cancelRoute => unfold exec execCancelRoute; exact rq _ _
  | callPoints => unfold exec execCallPoints; exact rq _ _
  | applyReminder => unfold exec execApplyReminder; exact rq _ _
  | removeReminder => unfold exec execRemoveReminder; exact rq _ _
  | applyStandingRestriction => unfold exec execApplyStandingRestriction; exact rq _ _
  | grantPossession => unfold exec execGrantPossession; exact rq _ _
  | liftPossession => unfold exec execLiftPossession; exact rq _ _
  | arm => unfold exec execArm; exact rq _ _
  | restoreSection => unfold exec execRestoreSection; exact rq _ _
  | emergencyRelease => unfold exec execEmergencyRelease; exact rq _ _
  | removeStanding => unfold exec execRemoveStanding; exact rq _ _
  | forceLift => unfold exec execForceLift; exact rq _ _
  | tokenRestore => unfold exec execTokenRestore; exact rq _ _
  | receptionRelease => unfold exec execReceptionRelease; exact rq _ _
  | acknowledgeAlarm => unfold exec execAcknowledgeAlarm; exact rq _ _
  | loadSegment => unfold exec execLoadSegment; exact rq _ _
  | loadReset => unfold exec execLoadReset; exact rq _ _
  | commitTables => unfold exec execCommitTables; exact rq _ _
  | leaveService => unfold exec execLeaveService; exact rq _ _
  | commandTelegramEnd _ => unfold exec execCommandTelegramEnd; exact bv _ _
  | replyComplete _ _ => unfold exec execReplyComplete; exact bv _ _
  | replyTimeout _ => unfold exec execReplyTimeout; exact bv _ _
  | confirmationTimerExpiry _ => unfold exec execConfirmationTimerExpiry; exact ev _
  | moveTimerExpiry _ => unfold exec execMoveTimerExpiry; exact ev _
  | approachTimerExpiry _ => unfold exec execApproachTimerExpiry; exact ev _
  | emergencyTimerExpiry _ => unfold exec execEmergencyTimerExpiry; exact ev _
  | entryWaitExpiry _ => unfold exec execEntryWaitExpiry; exact ev _
  | waitingEntryExpiry _ => unfold exec execWaitingEntryExpiry; exact ev _
  | tokenWaitEntryExpiry _ => unfold exec execTokenWaitEntryExpiry; exact ev _
  | overlapTimerExpiry _ => unfold exec execOverlapTimerExpiry; exact ev _
  | lineStateInterval => unfold exec execLineStateInterval; exact ev _
  | linkSilenceTimeout _ => unfold exec execLinkSilenceTimeout; exact ev _
  | tokenWaitExpiry _ => unfold exec execTokenWaitExpiry; exact ev _
  | handoverSendTime _ => unfold exec execHandoverSendTime; exact ev _
  | lineState _ _ => unfold exec execLineState; exact ev _
  | tokenAsk _ _ => unfold exec execTokenAsk; exact ev _
  | tokenGive _ _ => unfold exec execTokenGive; exact ev _
  | tokenDecline _ _ => unfold exec execTokenDecline; exact ev _
  | entryAsk _ _ _ _ => unfold exec execEntryAsk; exact ev _
  | entryGrant _ _ _ => unfold exec execEntryGrant; exact ev _
  | entryDeny _ _ _ => unfold exec execEntryDeny; exact ev _
  | entryFree _ _ _ => unfold exec execEntryFree; exact ev _
  | trainPass _ _ _ => unfold exec execTrainPass; exact ev _
  | trainTaken _ _ => unfold exec execTrainTaken; exact ev _
  | invalidBorderTelegram _ _ => unfold exec execInvalidBorderTelegram; exact ev _
  | armEntryExpiry => unfold exec execArmEntryExpiry; exact ev _
  | recordWriteEnd _ => unfold exec execRecordWriteEnd; exact sv _
  | commitWriteEnd _ => unfold exec execCommitWriteEnd; exact ev _
  | selfCheck _ => unfold exec execSelfCheck; exact ev _
  | timeLockExpiry => unfold exec execTimeLockExpiry; exact ev _
  | resetAsserted => exact absurd (show false = true from h) Bool.false_ne_true

/-- Asleep (held, or in HALTED) only the buses and the end of a record write go on (R122, R184). -/
theorem exec_asleep (c : Instr) (s : State) (hs : s.asleep = true) (h : blockRow c = true) : exec c s = .next s ∨
    (∃ x, c = .commandTelegramEnd x) ∨ (∃ x cs, c = .replyComplete x cs) ∨ (∃ x, c = .replyTimeout x) ∨
    ∃ r, c = .recordWriteEnd r := by
  have ev : ∀ f, s.event f = .next s := fun f => by unfold State.event; rw [hs]; rfl
  have rq : ∀ m f, s.request m f = .next s := fun m f => by unfold State.request; rw [hs]; rfl
  cases c with
  | hardRestart => exact absurd (show false = true from h) Bool.false_ne_true
  | post _ => exact absurd (show false = true from h) Bool.false_ne_true
  | noticeRead => exact absurd (show false = true from h) Bool.false_ne_true
  | noticeMaskWrite _ => exact absurd (show false = true from h) Bool.false_ne_true
  | restart => exact absurd (show false = true from h) Bool.false_ne_true
  | clearStray => exact absurd (show false = true from h) Bool.false_ne_true
  | registerWriteNoEffect _ _ => exact absurd (show false = true from h) Bool.false_ne_true
  | hostMemoryAccess _ => exact absurd (show false = true from h) Bool.false_ne_true
  | keyLevelChange _ => exact absurd (show false = true from h) Bool.false_ne_true
  | takeCell => exact absurd (show false = true from h) Bool.false_ne_true
  | setRoute => left; unfold exec execSetRoute; exact rq _ _
  | cancelRoute => left; unfold exec execCancelRoute; exact rq _ _
  | callPoints => left; unfold exec execCallPoints; exact rq _ _
  | applyReminder => left; unfold exec execApplyReminder; exact rq _ _
  | removeReminder => left; unfold exec execRemoveReminder; exact rq _ _
  | applyStandingRestriction => left; unfold exec execApplyStandingRestriction; exact rq _ _
  | grantPossession => left; unfold exec execGrantPossession; exact rq _ _
  | liftPossession => left; unfold exec execLiftPossession; exact rq _ _
  | arm => left; unfold exec execArm; exact rq _ _
  | restoreSection => left; unfold exec execRestoreSection; exact rq _ _
  | emergencyRelease => left; unfold exec execEmergencyRelease; exact rq _ _
  | removeStanding => left; unfold exec execRemoveStanding; exact rq _ _
  | forceLift => left; unfold exec execForceLift; exact rq _ _
  | tokenRestore => left; unfold exec execTokenRestore; exact rq _ _
  | receptionRelease => left; unfold exec execReceptionRelease; exact rq _ _
  | acknowledgeAlarm => left; unfold exec execAcknowledgeAlarm; exact rq _ _
  | loadSegment => left; unfold exec execLoadSegment; exact rq _ _
  | loadReset => left; unfold exec execLoadReset; exact rq _ _
  | commitTables => left; unfold exec execCommitTables; exact rq _ _
  | leaveService => left; unfold exec execLeaveService; exact rq _ _
  | commandTelegramEnd _ => exact .inr (.inl ⟨_, rfl⟩)
  | replyComplete _ _ => exact .inr (.inr (.inl ⟨_, _, rfl⟩))
  | replyTimeout _ => exact .inr (.inr (.inr (.inl ⟨_, rfl⟩)))
  | confirmationTimerExpiry _ => left; unfold exec execConfirmationTimerExpiry; exact ev _
  | moveTimerExpiry _ => left; unfold exec execMoveTimerExpiry; exact ev _
  | approachTimerExpiry _ => left; unfold exec execApproachTimerExpiry; exact ev _
  | emergencyTimerExpiry _ => left; unfold exec execEmergencyTimerExpiry; exact ev _
  | entryWaitExpiry _ => left; unfold exec execEntryWaitExpiry; exact ev _
  | waitingEntryExpiry _ => left; unfold exec execWaitingEntryExpiry; exact ev _
  | tokenWaitEntryExpiry _ => left; unfold exec execTokenWaitEntryExpiry; exact ev _
  | overlapTimerExpiry _ => left; unfold exec execOverlapTimerExpiry; exact ev _
  | lineStateInterval => left; unfold exec execLineStateInterval; exact ev _
  | linkSilenceTimeout _ => left; unfold exec execLinkSilenceTimeout; exact ev _
  | tokenWaitExpiry _ => left; unfold exec execTokenWaitExpiry; exact ev _
  | handoverSendTime _ => left; unfold exec execHandoverSendTime; exact ev _
  | lineState _ _ => left; unfold exec execLineState; exact ev _
  | tokenAsk _ _ => left; unfold exec execTokenAsk; exact ev _
  | tokenGive _ _ => left; unfold exec execTokenGive; exact ev _
  | tokenDecline _ _ => left; unfold exec execTokenDecline; exact ev _
  | entryAsk _ _ _ _ => left; unfold exec execEntryAsk; exact ev _
  | entryGrant _ _ _ => left; unfold exec execEntryGrant; exact ev _
  | entryDeny _ _ _ => left; unfold exec execEntryDeny; exact ev _
  | entryFree _ _ _ => left; unfold exec execEntryFree; exact ev _
  | trainPass _ _ _ => left; unfold exec execTrainPass; exact ev _
  | trainTaken _ _ => left; unfold exec execTrainTaken; exact ev _
  | invalidBorderTelegram _ _ => left; unfold exec execInvalidBorderTelegram; exact ev _
  | armEntryExpiry => left; unfold exec execArmEntryExpiry; exact ev _
  | recordWriteEnd _ => exact .inr (.inr (.inr (.inr ⟨_, rfl⟩)))
  | commitWriteEnd _ => left; unfold exec execCommitWriteEnd; exact ev _
  | selfCheck _ => left; unfold exec execSelfCheck; exact ev _
  | timeLockExpiry => left; unfold exec execTimeLockExpiry; exact ev _
  | resetAsserted => exact absurd (show false = true from h) Bool.false_ne_true

end Sys2Proof.Machine
end

