-- ==== Sys2Proof/Tests/Slice0.lean ====
section
/-! SUPPORT. Tests on small states: the refusals of WellFormed, the check sums, single commands, and for every statement
of Certificates/Slice0/Obligations.lean a state and operands that meet its hypotheses, clause by clause. -/

namespace Sys2Proof.Tests

open Sys2Proof Sys2Proof.Machine

/-! ### WellFormed: an ill-formed term for each check -/

theorem test_port_above_three : wellFormed (.linkSilenceTimeout 4) = false := by decide

theorem test_section_above_239 : wellFormed (.confirmationTimerExpiry 240) = false := by decide

theorem test_point_above_95 : wellFormed (.moveTimerExpiry 96) = false := by decide

theorem test_slot_above_47 : wellFormed (.approachTimerExpiry 48) = false ∧ wellFormed (.emergencyTimerExpiry 48) = false ∧
    wellFormed (.entryWaitExpiry 48) = false ∧ wellFormed (.overlapTimerExpiry 48) = false := by decide

theorem test_route_above_383 : wellFormed (.waitingEntryExpiry 384) = false ∧
    wellFormed (.tokenWaitEntryExpiry 384) = false := by decide

theorem test_line_above_15 : wellFormed (.tokenWaitExpiry 16) = false ∧ wellFormed (.handoverSendTime 16) = false := by
  decide

theorem test_head_port_above_three : wellFormed (.tokenAsk { port := 4, sender := 1, seq := 0 } 0) = false := by decide

theorem test_three_line_views : wellFormed (.lineState { port := 0, sender := 1, seq := 0 } []) = false := by decide

theorem test_identity_of_no_or_nine_characters :
    wellFormed (.entryAsk { port := 0, sender := 1, seq := 0 } 0 1 (.given [])) = false ∧
    wellFormed (.trainPass { port := 0, sender := 1, seq := 0 } 0 (.given (zeros 9))) = false := by decide

theorem test_overlong_identity_of_length_eight :
    wellFormed (.trainPass { port := 0, sender := 1, seq := 0 } 0 (.overlong 8 (zeros 8))) = false ∧
    wellFormed (.trainPass { port := 0, sender := 1, seq := 0 } 0 (.overlong 9 (zeros 7))) = false ∧
    wellFormed (.trainPass { port := 0, sender := 1, seq := 0 } 0 (.overlong 9 (zeros 8))) = true := by decide

theorem test_other_token_view_of_a_named_code : wellFormed (.lineState { port := 0, sender := 1, seq := 0 }
    (List.replicate 4 { token := .other 3, borderClear := false, reception := none, outgoing := false })) = false := by
  decide

theorem test_telegram_on_port_four : wellFormed (.invalidBorderTelegram 4 []) = false := by decide

theorem test_access_beyond_memory : wellFormed (.hostMemoryAccess (.read 65535 2)) = false ∧
    wellFormed (.hostMemoryAccess (.write 65536 [0])) = false := by decide

theorem test_control_write_with_a_request : wellFormed (.registerWriteNoEffect .control 1) = false ∧
    wellFormed (.registerWriteNoEffect .control 2) = false ∧ wellFormed (.registerWriteNoEffect .control 4) = true := by
  decide

/-! ### Check sums (R198) and the decoder -/

/-- The nine characters 1 to 9. -/
def nine : List Byte := [0x31, 0x32, 0x33, 0x34, 0x35, 0x36, 0x37, 0x38, 0x39]

theorem test_crc32_of_nine : crc32 nine = 0xCBF43926#32 := by decide +kernel

theorem test_crc16_of_nine : crc16 nine = 0x29B1#16 := by decide +kernel

theorem test_no_word_spells_a_command : decodeTableWord 16 0 = none := rfl

/-! ### A small installation -/

def route0 : RouteEntry :=
  { entry := 0, exit := .signal 1, path := [0], points := [{ point := 0, pos := .normal, index := 1 }]
    overlaps := [0], flanks := [], release := 60, sweepAllowed := true }

/-- Ends at border line 0. -/
def route1 : RouteEntry :=
  { entry := 1, exit := .line 0, path := [2], points := [], overlaps := [], flanks := [], release := 0
    sweepAllowed := true }

def line0 : LineEntry :=
  { mode := .bidirectional, border := 2, localFirst := true, recSections := [1], recPoints := [], endSignal := 0
    neighbour := 7 }

def line1 : LineEntry :=
  { mode := .outbound, border := 2, localFirst := true, recSections := [], recPoints := [], endSignal := 0
    neighbour := 7 }

def image : Image :=
  { head := { format := 1, length := 64, sections := 3, points := 1, signals := 2, routes := 2, overlaps := 1, units := 1
              lines := 2, areas := 2, timeLock := 0, area := 5, crc := 0 }
    sections := [{ kind := .circuit, unit := 0, slot := 0, line := none, delay := 0 },
      { kind := .counted, unit := 0, slot := 1, line := none, delay := 0 },
      { kind := .counted, unit := 0, slot := 2, line := some 0, delay := 0 }]
    points := [{ ends := [{ unit := 0, slot := 3 }], sec := 0, limit := 6 }]
    signals := [{ unit := 0, slot := 4, approach := [1] }, { unit := 0, slot := 5, approach := [] }]
    routes := [route0, route1]
    overlaps := [{ sections := [1], points := [], release := 5 }]
    units := [{ bus := .a, address := 3, slots := [.sec, .sec, .sec, .point, .signal, .signal] }]
    lines := [line0, line1]
    areas := [{ sections := [1], boundary := [0] }, { sections := [2], boundary := [] }] }

def sec0 : SectionRec :=
  { occupancy := .clear, owner := .free, reminder := false, standing := false, passage := false, identity := none
    changedAt := 0, confirm := none }

def point0 : PointRec :=
  { ref := some .normal, detection := [some .normal], state := .atRest, pathCount := 0, overlapCount := 0, flankCount := 0
    claimed := none, reminder := false, standing := false, possessed := false, pendingCall := none, moveTimer := none }

def signal0 : SignalRec :=
  { commanded := .stop, shown := .stop, proved := false, matchCount := 0, mismatchCount := 0, lampFault := false
    owningSlot := none, flankCount := 0, possessionCount := 0, reminder := false, standing := false }

def unit0 : UnitRec :=
  { state := .active, miss := 0, good := 2, nextSeq := 0, image := [.none, .none, .none, .hold, .signal .stop, .signal .stop]
    lastStatus := none, lastReply := none }

def link0 : LinkRec :=
  { state := .up, valid := 3, lastValid := some 0, transmit := 0, expected := none, gap := 0, errorReported := false
    neighbour := 7 }

def lineRec0 : LineRec :=
  { token := some .held, disagreement := false, givePending := false, tokenAsk := none, entryAsk := none
    reception := none, handover := none, handedSlot := none, view := none, deferredFree := none, outgoingNone := 0 }

/-- The small installation in SERVICE at 100 s, every section CLEAR, the link of port 0 UP. -/
def yard : Blocks :=
  { Blocks.powerOn with
    clock := 100000
    mode := .service
    inForce := some { bytes := [], image := image }
    sections := [sec0, sec0, sec0]
    points := [point0]
    signals := [signal0, signal0]
    units := [unit0]
    links := [some link0, none, none, none]
    lines := some lineRec0 :: some { lineRec0 with token := none } :: List.replicate 14 none
    areas := [PossessionRec.free, PossessionRec.free]
    routes := List.replicate 48 none }

/-- A Route Set entry of route 0 in a state. -/
def entry0 (x : RouteState) : RouteRec :=
  { route := 0, state := x, reason := none, sweep := false, identity := none, cell := none, released := 0, timer := none
    overlap := none, flank := [], border := none }

/-- The yard with an entry in slot 0. -/
def Yard.withRoute (r : RouteRec) : Blocks := { yard with routes := some r :: List.replicate 47 none }

/-- A request of cell 3 with a body. -/
def ask (k : RequestKind) (body : List Byte) : Request :=
  { cell := 3, kind := k, body := body, takenAt := 100000, segment := [] }

/-- Blocks with a request handed on. -/
def serve (b : Blocks) (q : Request) : State :=
  { pending := [], held := false, blocks := b
    port := { Port.powerOn with inFlight := List.replicate 32 true, handed := some q } }

/-- Blocks with nothing handed on. -/
def stand (b : Blocks) : State := { State.reset with blocks := b }

theorem serve_serving (b : Blocks) (k : RequestKind) (body : List Byte) (hm : b.mode ≠ .halted)
    (hw : b.work = Work.empty) : (serve b (ask k body)).serving k (ask k body) := by
  refine ⟨?_, rfl, rfl, ?_, rfl, hw⟩
  · show (false || b.mode == .halted) = false
    simpa using hm
  · show 3 < 32
    omega

/-- The yard with an entry of the arm list, armed 10 s ago. -/
def armedYard (op : Operation) (e : Element) : Blocks :=
  { yard with arms := [{ operation := op, target := e, armTime := 90000 }] }

/-! ### Single commands -/

theorem test_tick : step State.reset = .next { State.reset with blocks := { Blocks.powerOn with clock := 1 } } := rfl

theorem test_post : (goesOn (exec (.post 0x0201) State.reset) (fun t => t.port.intake = [1, 2])) := by
  show _ = _
  decide

theorem test_post_wraps : (goesOn (exec (.post 0x021F) State.reset) (fun t => t.port.intake = [31, 0])) := by
  show _ = _
  decide

theorem test_notice_read : goesOn (exec .noticeRead State.reset) (fun t =>
    t.port.hostRead = .register 18 ∧ t.port.notice = 0) :=
  ⟨rfl, rfl⟩

theorem test_key : goesOn (exec (.keyLevelChange true) State.reset) (fun t => t.blocks.key = true) := rfl

theorem test_host_write_then_read :
    goesOn (exec (.hostMemoryAccess (.write 0x200 [1, 2])) State.reset) (fun t =>
      goesOn (exec (.hostMemoryAccess (.read 0x200 3)) t) (fun u => u.port.hostRead = .memory [1, 2, 0])) := by
  show _ = _
  decide +kernel

theorem test_access_faults : exec (.hostMemoryAccess (.read 65535 2)) State.reset =
    .fault (.outsideExchangeMemory 65536) := rfl

theorem test_reset_is_held : goesOn (exec .resetAsserted State.reset) (fun t => t.held = true) := rfl

theorem test_request_not_handed : exec .setRoute State.reset = .next State.reset := rfl

/-! ### Hypotheses that are met: the machine, the port and the resets -/

theorem met_CommandsGoOnAndTimePasses : State.reset.pending = [] ∧ wellFormed .takeCell = true := ⟨rfl, rfl⟩

theorem met_StepsKeepTheMemoryCanonical : State.reset.memoryOk = true ∧ ∃ t, step State.reset = .next t :=
  ⟨by decide, _, rfl⟩

theorem met_StepsKeepThePortAndTheGeneration : (∃ t, step State.reset = .next t) ∧ State.reset.portOk = true ∧
    State.reset.settled = true ∧ State.reset.generationOk = true := ⟨⟨_, rfl⟩, by decide, by decide, by decide⟩

theorem yard_inBounds : yard.InBounds where
  arms := by decide
  targets := by decide
  alarms := by decide
  conditions := by decide
  sequences := by decide
  counter := by decide
  range := by decide
  slots := by decide
  waiting := by decide
  once := by decide
  service := fun _ => by decide
  writes := by decide
  collected := by decide

theorem met_StepsKeepTheListsInBounds : (stand yard).blocks.InBounds ∧ ∃ t, step (stand yard) = .next t :=
  ⟨yard_inBounds, _, rfl⟩

theorem image_apart : image.Apart where
  sections := by
    intro e he
    simp only [image, List.mem_cons, List.not_mem_nil, or_false] at he
    rcases he with rfl | rfl
    · refine ⟨by decide, fun n hn o ho => ?_⟩
      rw [show n = 0 from List.mem_singleton.mp hn] at ho
      cases ho
      decide
    · exact ⟨by decide, fun n hn => absurd hn (List.not_mem_nil)⟩
  points := by
    intro e he
    simp only [image, List.mem_cons, List.not_mem_nil, or_false] at he
    rcases he with rfl | rfl
    · refine ⟨by decide, fun n hn o ho => ?_⟩
      rw [show n = 0 from List.mem_singleton.mp hn] at ho
      cases ho
      decide
    · exact ⟨by decide, fun n hn => absurd hn (List.not_mem_nil)⟩
  receptions := by decide
  areas := by decide
  disjoint
    | 0, 0, _, _, _, _, h => absurd rfl h
    | 1, 1, _, _, _, _, h => absurd rfl h
    | 0, 1, _, _, he, hf, _ => by cases he; cases hf; decide
    | 1, 0, _, _, he, hf, _ => by cases he; cases hf; decide
    | _ + 2, _, _, _, he, _, _ => by cases he
    | _, _ + 2, _, _, _, hf, _ => by cases hf

theorem yard_section {n : Nat} {r : SectionRec} (h : yard.sectionRec n = some r) : r = sec0 := by
  have := List.mem_of_getElem? (show ([sec0, sec0, sec0] : List SectionRec)[n]? = some r from h)
  simpa using this

theorem yard_point {n : Nat} {p : PointRec} (h : yard.pointRec n = some p) : p = point0 :=
  List.mem_singleton.mp (List.mem_of_getElem? (show ([point0] : List PointRec)[n]? = some p from h))

theorem yard_signal {n : Nat} {r : SignalRec} (h : yard.signalRec n = some r) : r = signal0 := by
  have := List.mem_of_getElem? (show ([signal0, signal0] : List SignalRec)[n]? = some r from h)
  simpa using this

theorem yard_routes (n : Nat) : yard.routeRec n = none := by
  show ((List.replicate 48 (none : Option RouteRec))[n]?).join = none
  rw [List.getElem?_replicate]
  split <;> rfl

theorem yard_claimsShown : yard.ClaimsShown where
  owner _ _ h := by rw [yard_section h]; rfl
  path _ _ h := by rw [yard_point h]; rfl
  overlap _ _ h := by rw [yard_point h]; rfl
  flank _ _ h := by rw [yard_point h]; rfl
  claimed _ _ h := by rw [yard_point h]; decide
  position _ _ _ _ h := absurd h List.not_mem_nil
  possessed _ _ h := by rw [yard_point h]; exact ⟨(fun h => by cases h), fun ⟨_, h, _⟩ => absurd h List.not_mem_nil⟩
  signalFlank _ _ h := by rw [yard_signal h]; rfl
  signalPossession _ _ h := by rw [yard_signal h]; rfl
  entry _ _ h := by rw [yard_signal h]; rfl
  proper _ h := absurd h List.not_mem_nil
  areas
    | 0 => rfl
    | 1 => rfl
    | _ + 2 => rfl

theorem yard_signalsGuarded : yard.SignalsGuarded where
  off _ _ h hc := by rw [yard_signal h] at hc; exact absurd rfl hc
  released _ _ h := by rw [yard_routes] at h; cases h

theorem met_StepsKeepTheClaims : (∀ w, (stand yard).blocks.inForce = some w → w.image.Apart) ∧
    (stand yard).blocks.ClaimsShown ∧ (stand yard).blocks.SignalsGuarded ∧ ∃ t, step (stand yard) = .next t ∧
    ∀ w, t.blocks.inForce = some w → w.image.Apart :=
  ⟨fun w h => by cases h; exact image_apart, yard_claimsShown, yard_signalsGuarded, _, rfl,
    fun w h => by cases h; exact image_apart⟩

theorem met_HaltedAndHeldUntilAHardRestart : (stand { yard with mode := .halted }).blocks.mode = .halted ∧
    Instr.noticeRead ≠ .hardRestart ∧ (∃ t, exec .noticeRead (stand { yard with mode := .halted }) = .next t) ∧
    Instr.setRoute ≠ .hardRestart ∧ blockRow .setRoute = true ∧
    ∃ t, exec .setRoute { State.reset with held := true } = .next t :=
  ⟨rfl, by decide, ⟨_, rfl⟩, by decide, rfl, _, rfl⟩

theorem met_BlockCommandsLeaveTheHostsBytes : blockRow .setRoute = true ∧ Exchange.mirrorRange 0x220 = false ∧
    ∀ cell, State.reset.port.isInFlight cell = true → 0x220 < cellAddr cell ∨ cellAddr cell + 28 ≤ 0x220 := by
  refine ⟨rfl, by decide, fun cell h => ?_⟩
  have : State.reset.port.isInFlight cell = false := by
    show (List.replicate 32 false).getD cell false = false
    rw [List.getD_eq_getElem?_getD, List.getElem?_replicate]
    split <;> rfl
  rw [this] at h
  cases h

theorem met_EventsEndKeepsTheirEffect :
    (yard.answer 3 .done .none).freeIndex = (serve yard (ask .arm [])).blocks.freeIndex ∧
    (∀ a ∈ (yard.answer 3 .done .none).work.answers, (serve yard (ask .arm [])).port.isInFlight a.cell = true) ∧
    ((yard.answer 3 .done .none).work.answers.map (·.cell)).Nodup := by
  refine ⟨rfl, ?_, by decide⟩
  intro a ha
  rw [show (yard.answer 3 .done .none).work.answers = [{ cell := 3, outcome := .done, detail := .none }] from rfl] at ha
  rw [List.mem_singleton.mp ha]
  rfl

theorem met_RegistersActAlone : wellFormed (.registerWriteNoEffect .control 4) = true ∧
    State.reset.blocks.key = false := by decide

theorem met_PostOffersTheRun : State.reset.blocks.mode ≠ .halted ∧ (0x2000#16).toNat / 256 % 64 = 32 ∧
    (0x0100#16).toNat / 256 % 64 = 1 ∧ (0x2100#16).toNat / 256 % 64 = 33 ∧ (0x0000#16).toNat / 256 % 64 = 0 ∧
    State.reset.settled = true ∧ (stand { yard with mode := .halted }).blocks.mode = .halted := by decide

theorem met_HostAccessesReadAndWriteTheBytes : (accessSpan (.read 65535 2)).2 ≠ 0 ∧
    65536 < (accessSpan (.read 65535 2)).1 + (accessSpan (.read 65535 2)).2 ∧ 65535 + 1 ≤ 65536 ∧
    65535 + [(0 : Byte)].length ≤ 65536 := by decide

/-- Cell 0 of a state written and announced; the kind code 11 is ACKNOWLEDGE ALARM, 1 SET ROUTE, 0 none. -/
def posted (state kind : Byte) (open0 : Bool) : State :=
  { State.reset with
    port := { Port.powerOn with
      intake := [0]
      hostMem := [(0x200, state), (0x201, kind)]
      inFlight := open0 :: List.replicate 31 false } }

theorem met_TakeCellHandsTheCopyOn : (posted 1 11 false).asleep = false ∧ (posted 1 11 false).settled = true ∧
    (posted 1 11 false).port.handed = none ∧ (posted 1 11 false).port.intake = [0] ∧
    (posted 1 11 false).port.inFlight.length = 32 ∧ (posted 1 11 false).port.isInFlight 0 = false ∧
    (posted 1 11 false).port.byteAt (cellAddr 0) = 1 ∧
    RequestKind.ofCode ((posted 1 11 false).port.byteAt (cellAddr 0 + 1)).toNat = some .acknowledgeAlarm ∧
    RequestKind.acknowledgeAlarm.acceptedIn (posted 1 11 false).blocks.mode = true := by decide

theorem met_TakeCellRefusesOrStrays : (posted 1 99 false).asleep = false ∧ (posted 1 99 false).settled = true ∧
    (posted 1 99 false).port.handed = none ∧ (posted 1 99 false).port.intake = [0] ∧
    (posted 1 99 false).port.inFlight.length = 32 ∧ (posted 1 99 false).port.isInFlight 0 = false ∧
    (posted 1 99 false).port.byteAt (cellAddr 0) = 1 ∧
    RequestKind.ofCode ((posted 1 99 false).port.byteAt (cellAddr 0 + 1)).toNat = none ∧
    RequestKind.ofCode ((posted 1 1 false).port.byteAt (cellAddr 0 + 1)).toNat = some .setRoute ∧
    RequestKind.setRoute.acceptedIn (posted 1 1 false).blocks.mode = false := by decide

theorem met_TakeCellRefusesOrStrays_strays : (posted 1 1 true).asleep = false ∧ (posted 1 1 true).settled = true ∧
    (posted 1 1 true).port.handed = none ∧ (posted 1 1 true).port.intake = [0] ∧
    (posted 1 1 true).port.isInFlight 0 = true ∧ (posted 0 1 false).port.byteAt (cellAddr 0) ≠ 1 := by decide

/-- A request handed on whose cell is not in flight. -/
def closed : State := { serve yard (ask .acknowledgeAlarm []) with
  port := { Port.powerOn with handed := some (ask .acknowledgeAlarm []) } }

theorem met_AnswerToAClosedCellHalts : closed.asleep = false ∧
    closed.port.handed = some (ask .acknowledgeAlarm []) ∧ closed.port.isInFlight 3 = false ∧
    closed.blocks.work = Work.empty := by decide

/-- An image whose CRC field agrees. -/
def sound : List Byte := zeros 60 ++ bytesLE 4 (imageCrc (zeros 64)).toNat

/-- A persistent section that holds area 0. -/
def grantedArea : Persistent :=
  { Persistent.fresh image with areas := [{ state := .granted, reference := some 9, attempts := 5 }] }

theorem met_HardRestartStartsAnew : (∀ c, yard.running ≠ some (.commit c)) ∧
    ({ valid := true, bytes := sound } : StoredImage).valid = true ∧ imageCrc sound = imageCrcField sound ∧
    imageCrc (zeros 64) ≠ imageCrcField (zeros 64) ∧
    ({ yard with running := some (.commit 3) } : Blocks).running = some (.commit 3) ∧
    ({ yard with lines := [some { lineRec0 with token := some .blocked }] } : Blocks).lineRec 0 =
      some { lineRec0 with token := some .blocked } ∧
    grantedArea.holds 0 ∧ ¬ grantedArea.holds 1 ∧ image.areas[0]? = some { sections := [1], boundary := [0] } ∧
    (∀ n l, yard.lineRec n = some l → l.token ≠ some .blocked) := by
  refine ⟨(fun c h => by cases h), rfl, by decide +kernel, by decide +kernel, rfl, rfl, ⟨_, rfl, by decide⟩, ?_, rfl,
    fun n l h => ?_⟩
  · rintro ⟨q, h, -⟩
    cases h
  · match n with
    | 0 => cases h; decide
    | 1 => cases h; decide
    | n + 2 =>
      have e : yard.lineRec (n + 2) = ((List.replicate 14 (none : Option LineRec))[n]?).join := rfl
      rw [e, List.getElem?_replicate] at h
      split at h <;> cases h

theorem met_SoftRestartAnswersEveryOpenCell : (serve yard (ask .arm [])).asleep = false ∧
    (serve yard (ask .arm [])).port.inFlight.length = 32 ∧ (serve yard (ask .arm [])).port.isInFlight 31 = true ∧
    (posted 1 1 false).port.isInFlight 0 = false ∧ 0 ∈ (posted 1 1 false).port.intake ∧
    (posted 1 1 false).port.byteAt (cellAddr 0) = 1 ∧ 31 ∉ (posted 1 1 false).port.intake ∧
    (posted 0 1 false).port.byteAt (cellAddr 0) ≠ 1 ∧ (stand { yard with mode := .halted }).asleep = true ∧
    ({ State.reset with held := true } : State).asleep = true := by decide

theorem met_ResetAssertedHolds : State.reset.held = false := rfl

/-! ### The requests -/

theorem met_RemindersAreSetAndCleared :
    (serve yard (ask .applyReminder [1, 0, 2, 0])).serving .applyReminder (ask .applyReminder [1, 0, 2, 0]) ∧
    yard.elementOperand (ask .applyReminder [1, 0, 3, 0]) = .error 30 ∧
    yard.elementOperand (ask .applyReminder [4, 0, 0, 0]) = .error 28 ∧
    yard.elementOperand (ask .applyReminder [1, 0, 2, 0]) = .ok (.sec 2) ∧ yard.recorded (.sec 2) ∧
    yard.recorded (.point 0) ∧ yard.recorded (.signal 1) ∧
    (serve yard (ask .removeReminder [1, 0, 2, 0])).serving .removeReminder (ask .removeReminder [1, 0, 2, 0]) ∧
    yard.reminderOf (.sec 2) = false ∧
    ({ yard with sections := [sec0, sec0, { sec0 with reminder := true }] } : Blocks).reminderOf (.sec 2) = true :=
  ⟨serve_serving _ _ _ (by decide) rfl, rfl, rfl, rfl, by show _ ≠ _; decide, by show _ ≠ _; decide,
    by show _ ≠ _; decide, serve_serving _ _ _ (by decide) rfl, rfl, rfl⟩

theorem met_StandingRestrictionHoldsBeforeItsWrite :
    (serve yard (ask .applyStanding [2, 0, 0, 0])).serving .applyStanding (ask .applyStanding [2, 0, 0, 0]) ∧
    yard.elementOperand (ask .applyStanding [2, 0, 1, 0]) = .error 30 ∧
    yard.elementOperand (ask .applyStanding [2, 0, 0, 0]) = .ok (.point 0) ∧ yard.recorded (.point 0) ∧
    yard.standingOf (.point 0) = false ∧ yard.writes.length < 32 ∧
    ({ yard with points := [{ point0 with standing := true }] } : Blocks).standingOf (.point 0) = true ∧
    32 ≤ (List.replicate 32 (Write.commit 0)).length :=
  ⟨serve_serving _ _ _ (by decide) rfl, rfl, rfl, by show _ ≠ _; decide, rfl, by decide, rfl, by decide⟩

/-- The yard with area 0 in a state. -/
def areaYard (x : PossessionState) : Blocks :=
  { yard with areas := [{ PossessionRec.free with state := x, reference := some 9, attempts := 1 }, PossessionRec.free] }

theorem met_PossessionIsGranted :
    (serve yard (ask .grantPossession [1, 0, 9, 0])).serving .grantPossession (ask .grantPossession [1, 0, 9, 0]) ∧
    (ask .grantPossession [1, 0, 9, 0]).field 28 1 = 1 ∧ (ask .grantPossession [1, 0, 9, 0]).field 30 2 = 9 ∧
    yard.areas.length ≤ (ask .grantPossession [2]).field 28 1 ∧ (ask .grantPossession [1]).field 30 2 = 0 ∧
    yard.areas[1]? = some PossessionRec.free ∧ (areaYard .granted).areas[0]?.map (·.state) = some .granted ∧
    (areaYard .barred).areas[0]?.map (·.state) = some .barred ∧
    yard.checkClaim ((yard.possessionHolds 1).map Hold.item) = none ∧
    ({ yard with sections := [sec0, sec0, { sec0 with owner := .route 0 }] } : Blocks).checkClaim
      ((yard.possessionHolds 1).map Hold.item) = some { element := .sec 2, reason := .owned } :=
  ⟨serve_serving _ _ _ (by decide) rfl, by decide, by decide, by decide, by decide, rfl, rfl, rfl, by decide, by decide⟩

theorem met_PossessionIsLifted :
    (serve (areaYard .granted) (ask .liftPossession [0, 0, 9, 0])).serving .liftPossession
      (ask .liftPossession [0, 0, 9, 0]) ∧
    yard.areas.length ≤ (ask .liftPossession [2]).field 28 1 ∧ yard.areas[0]? = some PossessionRec.free ∧
    (areaYard .barred).areas[0]?.map (·.state) = some .barred ∧
    (areaYard .granted).areas[0]?.map (fun r => (r.state, r.reference)) = some (.granted, some 9) ∧
    (ask .liftPossession [0, 0, 9, 0]).field 30 2 = 9 ∧ (ask .liftPossession [0, 0, 8, 0]).field 30 2 ≠ 9 ∧
    (areaYard .granted).writes.length < 32 ∧ 32 ≤ (List.replicate 32 (Write.commit 0)).length ∧
    (areaYard .granted).areaEntry 0 = some { sections := [1], boundary := [0] } :=
  ⟨serve_serving _ _ _ (by decide) rfl, by decide, rfl, rfl, rfl, by decide, by decide, by decide, by decide, rfl⟩

theorem met_ArmAppendsAnEntry :
    (serve yard (ask .arm [1, 1, 2, 0])).serving .arm (ask .arm [1, 1, 2, 0]) ∧
    Operation.ofCode ((ask .arm [7, 1, 0, 0]).field 28 1) = none ∧
    yard.count .sec ≤ (ask .arm [1, 1, 3, 0]).field 30 2 ∧
    Operation.ofCode ((ask .arm [1, 1, 2, 0]).field 28 1) = some .restoreSection ∧
    Kind.ofCode ((ask .arm [1, 1, 2, 0]).field 29 1) = some .sec ∧ 2 = (ask .arm [1, 1, 2, 0]).field 30 2 ∧
    Operation.restoreSection.targetOk .sec = true ∧ 2 < yard.count .sec ∧ yard.lineEntry 1 ≠ none ∧
    yard.lineEntry 2 = none ∧
    4 ≤ (List.replicate 4 ({ operation := .forceLift, target := .area 0, armTime := 0 } : ArmRec)).length ∧
    yard.arms.length < 4 ∧ (∀ a ∈ yard.arms, a.target ≠ .sec 2) ∧
    (∃ a ∈ (armedYard .restoreSection (.sec 2)).arms, a.target = .sec 2) :=
  ⟨serve_serving _ _ _ (by decide) rfl, by decide, by decide, by decide, by decide, by decide, by decide, by decide,
    by decide, by decide, by decide, by decide, by decide, _, List.mem_singleton.mpr rfl, rfl⟩

theorem met_ExecuteMatchesAnArmedEntry :
    (serve yard (ask .execute [1, 1, 2, 0])).serving .execute (ask .execute [1, 1, 2, 0]) ∧
    Operation.ofCode ((ask .execute [0]).field 28 1) = none ∧
    Operation.ofCode ((ask .execute [1, 1, 2, 0]).field 28 1) = some .restoreSection ∧
    yard.qualifiedOperand (ask .execute [1, 1, 3, 0]) = .error 30 ∧
    yard.qualifiedOperand (ask .execute [1, 1, 2, 0]) = .ok (.restoreSection, .sec 2) ∧
    (∀ a ∈ yard.arms, ¬ (a.operation = .restoreSection ∧ a.target = .sec 2)) ∧
    (armedYard .restoreSection (.sec 2)).armed .restoreSection (.sec 2) =
      some { operation := .restoreSection, target := .sec 2, armTime := 90000 } ∧
    Clock.age 92999 90000 < 3000 ∧ 3000 ≤ Clock.age 93000 90000 ∧ Clock.age 120000 90000 ≤ 30000 :=
  ⟨serve_serving _ _ _ (by decide) rfl, by decide, by decide, rfl, rfl, by decide, rfl, by decide, by decide, by decide⟩

theorem armed_executing (b : Blocks) (op : Operation) (e : Element) (body : List Byte) (a : ArmRec) (hm : b.mode ≠ .halted)
    (hw : b.work = Work.empty) (hq : b.qualifiedOperand (ask .execute body) = .ok (op, e)) (ha : b.armed op e = some a)
    (h3 : 3000 ≤ Clock.age b.clock a.armTime) (h30 : Clock.age b.clock a.armTime ≤ 30000) :
    (serve b (ask .execute body)).executing op (ask .execute body) e a :=
  ⟨serve_serving b _ _ hm hw, hq, ha, h3, h30⟩

/-- The arm entry of armedYard. -/
def armed10 (op : Operation) (e : Element) : ArmRec := { operation := op, target := e, armTime := 90000 }

theorem met_RestoreSectionRestores :
    (serve (armedYard .restoreSection (.sec 1)) (ask .execute [1, 1, 1, 0])).executing .restoreSection
      (ask .execute [1, 1, 1, 0]) (.sec 1) (armed10 .restoreSection (.sec 1)) ∧
    yard.sectionEntry 0 = some { kind := .circuit, unit := 0, slot := 0, line := none, delay := 0 } ∧
    yard.sectionEntry 1 = some { kind := .counted, unit := 0, slot := 1, line := none, delay := 0 } ∧
    yard.sectionRec 1 = some sec0 ∧ sec0.occupancy ≠ .disturbed ∧
    ({ sec0 with occupancy := .disturbed, owner := .route 0 } : SectionRec).owner ≠ .free ∧
    ({ sec0 with occupancy := .disturbed } : SectionRec).owner = .free ∧ yard.unitTrusted 0 = true ∧
    ({ yard with units := [{ unit0 with state := .lost }] } : Blocks).unitTrusted 0 = false :=
  ⟨armed_executing _ _ _ _ _ (by decide) rfl rfl rfl (by decide) (by decide), rfl, rfl, rfl, by decide, by decide, rfl,
    by decide, by decide⟩

theorem met_EmergencyReleaseStarts :
    (serve (armedYard .emergencyRelease (.route 0)) (ask .execute [2, 8, 0, 0])).executing .emergencyRelease
      (ask .execute [2, 8, 0, 0]) (.route 0) (armed10 .emergencyRelease (.route 0)) ∧
    yard.slotOf 0 = none ∧ (Yard.withRoute (entry0 .setting)).slotOf 0 = some 0 ∧
    (Yard.withRoute (entry0 .setting)).entryAt 0 = some (route0, entry0 .setting) ∧
    (Yard.withRoute { entry0 .emergency with timer := some { kind := .emergency, expiry := 1 } }).entryAt 0 =
      some (route0, { entry0 .emergency with timer := some { kind := .emergency, expiry := 1 } }) ∧
    (Yard.withRoute (entry0 .passing)).entryAt 0 = some (route0, entry0 .passing) :=
  ⟨armed_executing _ _ _ _ _ (by decide) rfl rfl rfl (by decide) (by decide), by decide, by decide, rfl, rfl, rfl⟩

theorem met_MarksAndPossessionsAreForced :
    (serve (armedYard .removeStanding (.sec 1)) (ask .execute [3, 1, 1, 0])).executing .removeStanding
      (ask .execute [3, 1, 1, 0]) (.sec 1) (armed10 .removeStanding (.sec 1)) ∧
    yard.standingOf (.sec 1) = false ∧
    ({ yard with sections := [sec0, { sec0 with standing := true }, sec0] } : Blocks).standingOf (.sec 1) = true ∧
    yard.writes.length < 32 ∧
    (serve (armedYard .forceLift (.area 1)) (ask .execute [4, 9, 1, 0])).executing .forceLift
      (ask .execute [4, 9, 1, 0]) (.area 1) (armed10 .forceLift (.area 1)) ∧
    yard.areas[1]? = some PossessionRec.free ∧ (areaYard .barred).areas[0]?.map (·.state) = some .barred :=
  ⟨armed_executing _ _ _ _ _ (by decide) rfl rfl rfl (by decide) (by decide), rfl, rfl, by decide,
    armed_executing _ _ _ _ _ (by decide) rfl rfl rfl (by decide) (by decide), rfl, rfl⟩

theorem met_TokenRestoreRestores :
    (serve (armedYard .tokenRestore (.line 0)) (ask .execute [5, 6, 0, 0])).executing .tokenRestore
      (ask .execute [5, 6, 0, 0]) (.line 0) (armed10 .tokenRestore (.line 0)) ∧
    yard.lineEntry 0 = some line0 ∧ yard.lineRec 0 = some lineRec0 ∧ lineRec0.token ≠ some .blocked ∧
    ({ lineRec0 with token := some .blocked } : LineRec).token = some .blocked ∧ yard.linkUp 0 = true ∧
    ({ yard with links := [some { link0 with state := .down }] } : Blocks).linkUp 0 = false ∧
    (∀ v, lineRec0.view = some v → v.token ≠ .notHeld) ∧
    ({ token := .notHeld, borderClear := true, reception := none, outgoing := false } : LineView).token = .notHeld ∧
    yard.occupancy 2 = some .clear ∧
    ({ yard with sections := [sec0, sec0, { sec0 with occupancy := .occupied }] } : Blocks).occupancy 2 ≠ some .clear :=
  ⟨armed_executing _ _ _ _ _ (by decide) rfl rfl rfl (by decide) (by decide), rfl, rfl, by decide, rfl, by decide,
    by decide, (fun v h => by cases h), rfl, rfl, by decide⟩

/-- A reception with reference 5. -/
def reception5 : Reception := { reference := 5, identity := none, released := 0, grantSent := true }

theorem met_ReceptionReleaseReleases :
    (serve (armedYard .receptionRelease (.line 0)) (ask .execute [6, 6, 0, 0])).executing .receptionRelease
      (ask .execute [6, 6, 0, 0]) (.line 0) (armed10 .receptionRelease (.line 0)) ∧
    lineRec0.reception = none ∧ ({ lineRec0 with reception := some reception5 } : LineRec).reception = some reception5 ∧
    yard.linkUp (0 / 4) = true ∧ ({ yard with links := [some { link0 with state := .starting }] } : Blocks).linkUp 0 = false ∧
    ({ reception5 with released := 1 } : Reception).released ≠ 0 ∧ reception5.released = 0 ∧
    (∀ n ∈ line0.recSections, yard.isPassed n = false) ∧
    (∃ n ∈ line0.recSections, ({ yard with sections := [sec0, { sec0 with passage := true }] } : Blocks).isPassed n = true) ∧
    (∃ n ∈ line0.recSections,
      ({ yard with sections := [sec0, { sec0 with occupancy := .clearing }] } : Blocks).occupancy n = some .clearing) ∧
    (∀ n ∈ line0.recSections, yard.occupancy n ≠ some .occupied ∧ yard.occupancy n ≠ some .clearing) :=
  ⟨armed_executing _ _ _ _ _ (by decide) rfl rfl rfl (by decide) (by decide), rfl, rfl, by decide, by decide, by decide,
    rfl, by decide, by decide, by decide, by decide⟩

/-- An entry of route 1, whose exit is line 0, with its grant. -/
def entry1 (g : Grant) : RouteRec :=
  { entry0 .locked with route := 1, border := some { line := 0, grant := g, expiry := some 1 } }

/-- A claim set of two sections. -/
def twoSections : List ClaimItem :=
  [{ hold := .sec 0 (.route 0), condition := .clear, identity := none },
   { hold := .sec 1 (.route 0), condition := .clear, identity := none }]

/-- The yard with route 0's entry in slot 0, which holds these holds. -/
def claimedYard (r : RouteRec) (hs : List Hold) : Blocks :=
  { Yard.withRoute r with
    sections := [{ sec0 with owner := .route 0 }, sec0, sec0]
    holds := hs.map (fun h => { claimant := .slot 0, hold := h }) }

theorem claimedYard_hasHolds (r : RouteRec) (hs : List Hold) : (claimedYard r hs).hasHolds (.slot 0) hs := by
  intro h
  show hs.count h ≤ (hs.map (fun h => ({ claimant := .slot 0, hold := h } : HoldRec))).count _
  rw [List.count_map_of_injective _ _ (fun a b e => by cases e; rfl)]

theorem met_ClaimSetsAreAppliedWhole : (∃ d, yard.claim (.slot 0) twoSections = .ok d) ∧
    (∃ f, (claimedYard (entry0 .locked) []).claim (.slot 1) twoSections = .error f) ∧
    (∃ i ∈ twoSections, i.hold = .sec 1 (.route 0)) ∧
    (∀ i ∈ twoSections, ∀ o, i.hold = .sec 1 o → o = .route 0) ∧ (∀ i ∈ twoSections, ∀ o, i.hold ≠ .sec 2 o) ∧
    (∀ j ∈ twoSections, ∀ x, j.hold = .sec 1 x →
      j = { hold := .sec 1 (.route 0), condition := .clear, identity := none }) ∧
    yard.sectionRec 2 = some sec0 ∧ yard.pointRec 0 = some point0 ∧
    yard.pointEntry 0 = some { ends := [{ unit := 0, slot := 3 }], sec := 0, limit := 6 } ∧
    yard.signalRec 1 = some signal0 ∧
    (claimedYard (entry0 .locked) [.sec 0 (.route 0)]).hasHolds (.slot 0) [.sec 0 (.route 0)] ∧
    ¬ (claimedYard (entry0 .locked) [.sec 0 (.route 0)]).hasHolds (.slot 0) [.sec 0 (.route 0), .sec 0 (.route 0)] := by
  refine ⟨⟨_, rfl⟩, ⟨_, rfl⟩, by decide, ?_, ?_, ?_, rfl, rfl, rfl, rfl, claimedYard_hasHolds _ _,
    fun h => absurd (h (.sec 0 (.route 0))) (by decide)⟩
  all_goals
    intro i hi o ho
    simp only [twoSections, List.mem_cons, List.not_mem_nil, or_false] at hi
    rcases hi with rfl | rfl <;> simp_all

/-- A FAILED point that a path claim holds. -/
def failedYard : Blocks :=
  { yard with points := [{ point0 with state := .failed, pathCount := 1, claimed := some .normal }] }

/-- A flank claim on it drives it by the free value alone (R40, R93, log entry 39). -/
theorem test_flank_claim_on_a_claimed_point :
    ((failedYard.applyPointClaim 0 .flank .normal).pointRec 0).map (fun p => (p.state, p.flankCount)) =
      some (if Config.flankDrivesClaimed failedYard.freeIndex 0 then .moving else .failed, 1) := by
  unfold Blocks.applyPointClaim
  cases Config.flankDrivesClaimed failedYard.freeIndex 0 <;> decide

/-- An overlap claim on it drives it (R40). -/
theorem test_overlap_claim_on_a_claimed_point :
    ((failedYard.applyPointClaim 0 .overlap .normal).pointRec 0).map (fun p => (p.state, p.overlapCount)) =
      some (.moving, 1) := by decide

/-- A WAITING entry of route 0, its cell 4. -/
def waiting0 : WaitingRec :=
  { route := 0, deferred := false, sweep := false, identity := none, storeTime := 5, expiry := some 100000, cell := 4 }

theorem met_SetRouteAnswersByItsStages :
    (serve yard (ask .setRoute [1, 0])).serving .setRoute (ask .setRoute [1, 0]) ∧
    yard.routeParameter (ask .setRoute [2, 0]) = some 28 ∧ yard.routeParameter (ask .setRoute [1, 0]) = none ∧
    ({ yard with mode := .observing } : Blocks).mode ≠ .service ∧
    ({ yard with waiting := [waiting0] } : Blocks).placeOf 0 = some 0 ∧ yard.placeOf 0 = none ∧
    (ask .setRoute [1, 0]).setRoute.store = 0 ∧ 0 < (ask .setRoute [1, 0, 0, 0, 1, 0]).setRoute.store ∧
    yard.waiting.length < 16 ∧ (Yard.withRoute (entry0 .locked)).slotOf 0 = some 0 ∧
    (Yard.withRoute (entry0 .locked)).entryAt 0 = some (route0, entry0 .locked) ∧ yard.slotOf 0 = none ∧
    yard.routeEntry 0 = some route0 ∧
    ({ yard with sections := [{ sec0 with reminder := true }, sec0, sec0] } : Blocks).restrictionStage route0 =
      some (.restricted, { element := .sec 0, reason := .restricted }) :=
  ⟨serve_serving _ _ _ (by decide) rfl, by decide, by decide, by decide, by decide, by decide, by decide, by decide,
    by decide, by decide, rfl, by decide, rfl, by decide⟩

/-- The yard with point 0 in a state, possessed or not, toward section 0 in an occupancy. -/
def stuck (x : PointState) (possessed : Bool) (o : Occupancy) : Blocks :=
  { yard with points := [{ point0 with state := x, possessed := possessed }]
              sections := [{ sec0 with occupancy := o }, sec0, sec0] }

theorem met_SetRouteAnswersByItsStages_again :
    (Yard.withRoute (entry0 .held)).entryAt 0 = some (route0, entry0 .held) ∧
    (yard.unmetProof route0 (entry0 .held)).or (unmetGrant (entry0 .held)) = none ∧
    ((stuck .failed false .clear).unmetProof route0 (entry0 .held)).or (unmetGrant (entry0 .held)) =
      some { element := .point 0, reason := .pointNotProved } ∧
    (Yard.withRoute (entry0 .stalled)).entryAt 0 = some (route0, entry0 .stalled) ∧
    (stuck .failed false .occupied).unmetSection route0 (entry0 .stalled) = some 0 ∧
    (stuck .failed false .clear).unmetSection route0 (entry0 .stalled) = none ∧
    ((stuck .failed false .clear).reDrives ((stuck .failed false .clear).claimedPoints route0 (entry0 .stalled))).2 =
      [] ∧
    ((stuck .failed true .clear).reDrives ((stuck .failed true .clear).claimedPoints route0 (entry0 .stalled))).2 =
      [0] ∧
    (stuck .failed false .clear).pointRec 0 = some { point0 with state := .failed } ∧
    yard.pointRec 0 = some point0 ∧ point0.state = .atRest := by decide

theorem met_SetRouteAnswersByItsStages_restricted :
    (∀ (b : Blocks) (n : Nat), (b.sectionMarked n = true ↔ ∃ r, b.sectionRec n = some r ∧
        (r.reminder = true ∨ r.standing = true)) ∧
      (b.pointMarked n = true ↔ ∃ p, b.pointRec n = some p ∧ (p.reminder = true ∨ p.standing = true)) ∧
      (b.signalMarked n = true ↔ ∃ r, b.signalRec n = some r ∧ (r.reminder = true ∨ r.standing = true)) ∧
      (b.sectionPossessed n = true ↔ ∃ r, b.sectionRec n = some r ∧ r.owner.isPossession = true)) ∧
    ({ yard with signals := [{ signal0 with reminder := true }] } : Blocks).signalMarked 0 = true ∧
    yard.signalMarked 0 = false ∧
    route0.path.find? ({ yard with sections := [{ sec0 with standing := true }] } : Blocks).sectionMarked = some 0 ∧
    route0.path.find? yard.sectionMarked = none ∧
    (route0.points.find? (fun p => ({ yard with points := [{ point0 with reminder := true }] } : Blocks).pointMarked
      p.point)).isSome = true ∧ route0.points.find? (fun p => yard.pointMarked p.point) = none ∧
    route0.path.find? ({ yard with sections := [{ sec0 with owner := .possession 0 }] } : Blocks).sectionPossessed =
      some 0 ∧ route0.path.find? yard.sectionPossessed = none ∧ route0.overlaps = [0] ∧
    yard.overlapEntry 0 = some { sections := [1], points := [], release := 5 } ∧
    [1].find? ({ yard with sections := [sec0, { sec0 with owner := .possession 0 }] } : Blocks).sectionPossessed =
      some 1 ∧ (∀ v ∈ [1], yard.sectionPossessed v = false) ∧ route1.overlaps = [] := by
  refine ⟨fun b n => ⟨?_, ?_, ?_, ?_⟩, by decide⟩
  · unfold Blocks.sectionMarked
    cases b.sectionRec n <;> simp
  · unfold Blocks.pointMarked
    cases b.pointRec n <;> simp
  · unfold Blocks.signalMarked
    cases b.signalRec n <;> simp
  · unfold Blocks.sectionPossessed
    cases b.sectionRec n with
    | none => simp
    | some r => exact ⟨fun h => ⟨r, rfl, h⟩, fun ⟨v, h, hv⟩ => by cases h; exact hv⟩

theorem met_SetRouteClaimsOrWaits :
    (serve yard (ask .setRoute [0, 0])).serving .setRoute (ask .setRoute [0, 0]) ∧ yard.mode = .service ∧
    yard.routeParameter (ask .setRoute [0, 0]) = none ∧ yard.slotOf 0 = none ∧ yard.placeOf 0 = none ∧
    yard.routeEntry 0 = some route0 ∧ yard.restrictionStage route0 = none ∧ yard.freeSlot = some 0 ∧
    yard.tokenCondition route0 = .met ∧ (∃ p, yard.protection 0 route0 = .ok p ∧
      ∃ b, yard.claim (.slot 0) (yard.routeClaim 0 route0 false none p) = .ok b) ∧
    (∃ f, ({ yard with sections := [{ sec0 with occupancy := .occupied }, sec0, sec0] } : Blocks).availability route0 0
      false none 3 = .unavailable f) ∧
    yard.restrictionStage route1 = none ∧
    ({ yard with lines := [some { lineRec0 with token := some .notHeld }] } : Blocks).tokenCondition route1 =
      .askable 0 :=
  ⟨serve_serving _ _ _ (by decide) rfl, rfl, by decide, by decide, by decide, rfl, by decide, by decide, rfl,
    ⟨_, rfl, _, rfl⟩, ⟨_, rfl⟩, by decide, rfl⟩

/-- Route 0 with flank signal 1, and an entry that holds it. -/
def guarded : RouteEntry := { route0 with flanks := [{ index := 1, primary := .signal 1, substitute := none }] }

def guardedEntry : RouteRec := { entry0 .locked with flank := [{ substitute := false, released := false }] }

theorem met_SetRouteClaimsOrWaits_proofs :
    yard.unmetProof route0 (entry0 .locked) = none ∧ yard.signalRec 0 = some signal0 ∧
    (yard.claimedPoints route0 (entry0 .locked)).find? (fun p => !yard.restsIn p) = none ∧
    ((stuck .failed false .clear).claimedPoints route0 (entry0 .locked)).find?
      (fun p => !(stuck .failed false .clear).restsIn p) = some { point := 0, pos := .normal } ∧
    (∀ p ∈ yard.claimedPoints route0 (entry0 .locked), yard.restsIn p = true) ∧
    (flankSignals guarded guardedEntry).find? (fun n => !({ yard with signals := [] } : Blocks).showsStop n) = some 1 ∧
    (∀ n ∈ flankSignals guarded guardedEntry, yard.showsStop n = true) ∧
    (yard.routeUnits route0).find? (fun n => !({ yard with units := [] } : Blocks).unitTrusted n) = some 0 ∧
    (∀ n ∈ yard.routeUnits route0, yard.unitTrusted n = true) ∧
    (stuck .atRest false .occupied).unmetSection route0 (entry0 .locked) = some 0 ∧
    yard.unmetSection route0 (entry0 .locked) = none ∧ OverlapState.expired ≠ .locked ∧
    (Yard.withRoute (entry0 .setting)).entryAt 0 = some (route0, entry0 .setting) ∧
    (Yard.withRoute (entry0 .cleared)).entryAt 0 = some (route0, entry0 .cleared) ∧
    ({ signal0 with lampFault := true } : SignalRec).lampFault = true ∧ signal0.lampFault = false ∧
    ({ entry0 .cleared with cell := some 4 } : RouteRec).cell = some 4 ∧ (entry0 .cleared).released ≤ 0 ∧
    (∃ p ∈ yard.claimedPoints route0 (entry0 .setting), p.point = 0) ∧ (entry0 .locked).border = none ∧
    (entry1 .granted).border.map (·.grant) = some .granted ∧
    (entry1 .asked).border = some { line := 0, grant := .asked, expiry := some 1 } ∧ yard.canAskEntry 0 = true ∧
    ({ yard with lines := [some { lineRec0 with disagreement := true }] } : Blocks).canAskEntry 0 = false ∧
    signal0.owningSlot ≠ some 0 ∧ signal0.commanded ≠ .proceed ∧
    ({ signal0 with owningSlot := some 0 } : SignalRec).owningSlot = some 0 := by decide

theorem met_SetRouteClaimsOrWaits_entry :
    (∃ x : OverlapState, (x = .locked ∨ x = .claimed) ∧ ∀ o, yard.overlapEntry 0 = some o →
      (x = .locked ↔ ∀ q ∈ o.points, ∃ v, yard.pointRec q.point = some v ∧ v.state = .atRest ∧ v.ref = some q.pos)) ∧
    yard.overlapEntry 0 ≠ none ∧ ({ overlap := some 0, flanks := [] } : Assignment).overlap = some 0 := by
  refine ⟨⟨.locked, .inl rfl, fun o h => ⟨fun _ q hq => ?_, fun _ => rfl⟩⟩, by decide, rfl⟩
  cases h
  cases hq

/-- The yard with line 0's record changed. -/
def tokenYard (t : Token) : Blocks := { yard with lines := [some { lineRec0 with token := some t }] }

theorem met_AvailabilityChoosesTheProtection :
    ({ yard with routes := List.replicate 48 (some (entry0 .locked)) } : Blocks).freeSlot = none ∧
    yard.freeSlot = some 0 ∧ (tokenYard .notHeld).tokenCondition route1 = .askable 0 ∧
    (tokenYard .blocked).tokenCondition route1 = .unavailable 0 ∧ yard.tokenCondition route0 = .met ∧
    (∃ p, yard.protection 0 route0 = .ok p ∧ ∃ d, yard.claim (.slot 0) (yard.routeClaim 0 route0 false none p) = .ok d) ∧
    (∃ f, ({ yard with sections := [] } : Blocks).protection 0 route0 = .error f) ∧
    (∃ p, (stuck .atRest true .clear).protection 0 route0 = .ok p ∧
      ∃ f, (stuck .atRest true .clear).claim (.slot 0) ((stuck .atRest true .clear).routeClaim 0 route0 false none p) =
        .error f) ∧
    route0.exit = .signal 1 ∧ route1.exit = .line 0 ∧ yard.lineEntry 0 = some line0 ∧ line0.mode = .bidirectional ∧
    line1.mode = .outbound ∧ yard.lineRec 0 = some lineRec0 ∧ (∃ o, yard.chooseOverlap 0 route0.overlaps = .ok o) ∧
    (∃ f, ({ yard with sections := [] } : Blocks).chooseOverlap 0 route0.overlaps = .error f) ∧
    (∃ ps, yard.chooseFlanks guarded.flanks = .ok ps) ∧
    (∃ f, ({ yard with signals := [] } : Blocks).chooseFlanks guarded.flanks = .error f) ∧
    (∀ i ∈ yard.overlapHolds 0 0, yard.unavailable i.item = none) ∧
    (∃ i ∈ yard.overlapHolds 0 0, ({ yard with sections := [] } : Blocks).unavailable i.item ≠ none) ∧
    (guarded.flanks.map (·.substitute)) = [none] ∧ yard.pointRec 0 = some point0 ∧ point0.ref = some .normal ∧
    point0.state = .atRest ∧ ({ point0 with flankCount := 1 } : PointRec).flankCount = 1 := by
  exact ⟨by decide, by decide, rfl, rfl, rfl, ⟨_, rfl, _, rfl⟩, ⟨_, rfl⟩, ⟨_, rfl, _, rfl⟩, rfl, rfl, rfl, rfl, rfl,
    rfl, ⟨_, rfl⟩, ⟨_, rfl⟩, ⟨_, rfl⟩, ⟨_, rfl⟩, by decide, by decide, rfl, rfl, rfl, rfl, rfl⟩

theorem met_CancelRouteByState :
    (serve yard (ask .cancelRoute [0, 0])).serving .cancelRoute (ask .cancelRoute [0, 0]) ∧
    (ask .cancelRoute [0, 0]).field 28 2 = 0 ∧ yard.count .route ≤ (ask .cancelRoute [2, 0]).field 28 2 ∧
    0 < yard.count .route ∧
    ({ yard with waiting := [waiting0] } : Blocks).waiting.find? (fun w => w.route == 0) = some waiting0 ∧
    waiting0.cell ≠ 3 ∧ waiting0.cell < 32 ∧ (serve yard (ask .cancelRoute [0, 0])).port.isInFlight 4 = true ∧
    (∀ w ∈ yard.waiting, w.route ≠ 0) ∧ yard.slotOf 0 = none ∧
    (Yard.withRoute (entry0 .stalled)).slotOf 0 = some 0 ∧
    (Yard.withRoute (entry0 .stalled)).entryAt 0 = some (route0, entry0 .stalled) ∧
    (Yard.withRoute (entry0 .passing)).entryAt 0 = some (route0, entry0 .passing) ∧
    (Yard.withRoute { entry0 .cancelling with timer := some { kind := .approach, expiry := 1 } }).entryAt 0 =
      some (route0, { entry0 .cancelling with timer := some { kind := .approach, expiry := 1 } }) :=
  ⟨serve_serving _ _ _ (by decide) rfl, by decide, by decide, by decide, rfl, by decide, by decide, rfl, by decide,
    by decide, by decide, rfl, rfl, rfl⟩

theorem met_CancelRouteByState_release :
    (Yard.withRoute (entry0 .locked)).entryAt 0 = some (route0, entry0 .locked) ∧
    yard.wholeHolds 0 route0 (entry0 .locked) =
      [.sec 0 (.route 0), .point 0 .path .normal, .signalEntry 0 0] ∧
    (claimedYard (entry0 .locked) (yard.wholeHolds 0 route0 (entry0 .locked))).hasHolds (.slot 0)
      (yard.wholeHolds 0 route0 (entry0 .locked)) ∧ (entry0 .locked).border = none ∧
    (entry1 .none).border.map (·.grant) = some .none ∧ yard.linkRec (portOf 0) = some link0 ∧
    yard.image? = some image ∧ yard.mode ≠ .halted ∧ link0.state = .up ∧
    ({ link0 with state := .starting } : LinkRec).state ≠ .up ∧
    ({ yard with sections := [{ sec0 with passage := true }, sec0, sec0] } : Blocks).frontReady route0 (entry0 .passing) =
      true ∧ yard.frontReady route0 (entry0 .passing) = false ∧ route0.path[(entry0 .passing).released]? = some 0 ∧
    0 + 1 = route0.path.length ∧ 0 + 1 ≠ ({ route0 with path := [0, 1] } : RouteEntry).path.length ∧
    (((Yard.withRoute (entry1 .none)).wholeRelease 0).lineRec 0).isSome = true :=
  ⟨rfl, rfl, claimedYard_hasHolds _ _, rfl, rfl, rfl, rfl, by decide, rfl, by decide, by decide, by decide, rfl, rfl,
    by decide, by decide⟩

theorem met_CancelReadsTheApproach :
    (serve (Yard.withRoute (entry0 .held)) (ask .cancelRoute [0, 0])).serving .cancelRoute (ask .cancelRoute [0, 0]) ∧
    (ask .cancelRoute [0, 0]).field 28 2 < yard.count .route ∧ (Yard.withRoute (entry0 .held)).slotOf 0 = some 0 ∧
    (Yard.withRoute (entry0 .held)).entryAt 0 = some (route0, entry0 .held) ∧
    yard.signalEntry 0 = some { unit := 0, slot := 4, approach := [1] } ∧ (∀ n ∈ [1], yard.occupancy n = some .clear) ∧
    (∃ n ∈ [1], ({ yard with sections := [sec0, { sec0 with occupancy := .occupied }] } : Blocks).occupancy n ≠
      some .clear) ∧ route0.release ≠ 0 ∧ route1.release = 0 :=
  ⟨serve_serving _ _ _ (by decide) rfl, by decide, by decide, rfl, rfl, by decide, by decide, by decide, rfl⟩

theorem met_CallPointsByTheFirstCheck :
    (serve yard (ask .callPoints [0, 2])).serving .callPoints (ask .callPoints [0, 2]) ∧
    (ask .callPoints [0, 2]).field 28 1 = 0 ∧ yard.pointEntry 1 = none ∧
    yard.pointEntry 0 = some { ends := [{ unit := 0, slot := 3 }], sec := 0, limit := 6 } ∧ yard.pointRec 0 = some point0 ∧
    Position.ofCode ((ask .callPoints [0, 3]).field 29 1) = none ∧
    Position.ofCode ((ask .callPoints [0, 2]).field 29 1) = some .reverse ∧
    0 < ({ point0 with flankCount := 1 } : PointRec).flankCount ∧
    point0.pathCount + point0.overlapCount + point0.flankCount = 0 ∧ (point0.reminder || point0.standing) = false ∧
    ({ point0 with reminder := true } : PointRec).reminder = true ∧
    ({ point0 with possessed := true } : PointRec).possessed = true ∧ point0.possessed = false ∧
    point0.state = .atRest ∧ point0.ref = some .normal ∧ point0.ref ≠ some .reverse ∧ yard.occupancy 0 = some .clear ∧
    ({ yard with sections := [{ sec0 with occupancy := .occupied }] } : Blocks).occupancy 0 ≠ some .clear :=
  ⟨serve_serving _ _ _ (by decide) rfl, by decide, rfl, rfl, rfl, by decide, by decide, by decide, rfl, rfl, rfl, rfl,
    rfl, rfl, rfl, by decide, rfl, by decide⟩

/-- An alarm with sequence 7. -/
def alarm7 : AlarmRec :=
  { seq := 7, kind := .storeFault, element := .device, state := .standing, raisedAt := 0, changedAt := 0, repeats := 0 }

theorem met_AcknowledgeAlarmByState :
    (serve yard (ask .acknowledgeAlarm [7])).serving .acknowledgeAlarm (ask .acknowledgeAlarm [7]) ∧
    (ask .acknowledgeAlarm [7]).field 28 4 = 7 ∧ (ask .acknowledgeAlarm [0]).field 28 4 = 0 ∧
    (∀ a ∈ yard.alarms, a.seq ≠ 7) ∧
    ({ yard with alarms := [alarm7] } : Blocks).alarms.find? (fun x => x.seq == 7) = some alarm7 :=
  ⟨serve_serving _ _ _ (by decide) rfl, by decide, by decide, by decide, rfl⟩

theorem met_AlarmsAreRaisedAndEnded :
    (∀ a ∈ yard.alarms, ¬ (a.kind = .storeFault ∧ a.element = .device)) ∧ yard.alarms.length < 64 ∧
    64 ≤ (List.replicate 64 alarm7).length ∧ (∀ x ∈ List.replicate 64 alarm7, x.state ≠ .lapsed) ∧
    ({ alarm7 with state := .lapsed } :: List.replicate 63 alarm7 : List AlarmRec).length = 64 ∧
    ({ yard with alarms := [alarm7] } : Blocks).alarms = [] ++ alarm7 :: [] ∧ alarm7.state ≠ .lapsed ∧
    alarm7.kind = .storeFault ∧ alarm7.element = .device ∧
    (∀ x ∈ ([] ++ [] : List AlarmRec), ¬ (x.kind = .storeFault ∧ x.element = .device)) := by
  refine ⟨by decide, by decide, by decide, fun x hx => ?_, by decide, rfl, by decide, rfl, rfl, by decide⟩
  rw [List.eq_of_mem_replicate hx]
  decide

/-- CONFIGURING with a load record. -/
def loading (x : LoadRec) : Blocks := { yard with mode := .configuring, load := x }

theorem met_LoadingByState :
    (serve (loading LoadRec.empty) (ask .loadReset [])).serving .loadReset (ask .loadReset []) ∧
    (serve (loading LoadRec.empty) (ask .loadSegment [0, 0, 1, 0])).serving .loadSegment
      (ask .loadSegment [0, 0, 1, 0]) ∧
    (ask .loadSegment [0, 0, 1, 0]).field 28 2 = 0 ∧ (ask .loadSegment [0, 0, 0, 0]).field 30 2 = 0 ∧
    16384 < (ask .loadSegment [0, 0, 1, 64]).field 30 2 ∧ 0 < (ask .loadSegment [0, 0, 1, 0]).field 30 2 ∧
    (ask .loadSegment [0, 0, 0, 64]).field 30 2 ≤ 16384 ∧
    (loading LoadRec.empty).load.state = .idle ∧
    (loading { LoadRec.empty with state := .aborted }).load.state = .aborted ∧
    (loading { LoadRec.empty with state := .committing }).load.state = .committing ∧
    (loading { LoadRec.empty with state := .receiving, next := 1 }).load.next = 1 ∧
    crc32 (ask .loadSegment [0, 0, 1, 0]).segment = BitVec.ofNat 32 ((ask .loadSegment [0, 0, 1, 0]).field 32 4) ∧
    crc32 (ask .loadSegment [0, 0, 1, 0, 1]).segment ≠
      BitVec.ofNat 32 ((ask .loadSegment [0, 0, 1, 0, 1]).field 32 4) ∧
    fieldAt (zeros 4 ++ [64, 0, 0, 0] ++ zeros 56) 4 4 = 64 ∧ fieldAt (zeros 64) 4 4 < 64 ∧
    (zeros 4 ++ [64, 0, 0, 0] ++ zeros 56).length = 64 :=
  ⟨serve_serving _ _ _ (by decide) rfl, serve_serving _ _ _ (by decide) rfl, by decide, by decide, by decide, by decide,
    by decide, rfl, rfl, rfl, rfl, by decide, by decide, by decide, by decide, by decide⟩

theorem met_CommitTablesByItsConditions :
    (serve (loading { LoadRec.empty with state := .receiving, received := 64, length := some 64 })
      (ask .commitTables [])).serving .commitTables (ask .commitTables []) ∧
    (loading { LoadRec.empty with state := .receiving, received := 64, length := some 64 }).load.length =
      some (loading { LoadRec.empty with state := .receiving, received := 64, length := some 64 }).load.received ∧
    (loading { LoadRec.empty with state := .receiving, received := 63, length := some 64 }).load.length ≠
      some (loading { LoadRec.empty with state := .receiving, received := 63, length := some 64 }).load.received ∧
    (loading LoadRec.empty).key = false ∧ ({ yard with key := true } : Blocks).key = true ∧
    (∃ f, checkImage (zeros 64) = some f) ∧ (areaYard .granted).areas[0]?.map (·.state) = some .granted ∧
    (∀ r ∈ yard.areas, r.state = .free) ∧ 32 ≤ (List.replicate 32 (Write.commit 0)).length ∧
    yard.writes.length < 32 ∧ yard.running = none ∧ yard.writes = [] ∧
    ({ yard with running := some (.commit 0) } : Blocks).running ≠ none := by
  refine ⟨serve_serving _ _ _ (by decide) rfl, rfl, by decide, rfl, rfl, ?_, rfl, by decide, by decide, by decide, rfl,
    rfl, by decide⟩
  have h : (checkImage (zeros 64)).isSome = true := by decide +kernel
  exact Option.isSome_iff_exists.mp h

theorem met_LeaveServiceEmptyWithKey :
    (serve yard (ask .leaveService [])).serving .leaveService (ask .leaveService []) ∧ yard.key = false ∧
    ({ yard with key := true } : Blocks).key = true ∧ (∃ n, (Yard.withRoute (entry0 .setting)).routeRec n ≠ none) ∧
    (∀ n, yard.routeRec n = none) ∧ ({ yard with waiting := [waiting0] } : Blocks).waiting ≠ [] ∧ yard.waiting = [] ∧
    (∃ n l, ({ yard with lines := [some { lineRec0 with reception := some reception5 }] } : Blocks).lineRec n = some l ∧
      l.reception ≠ none) ∧ (∀ n l, yard.lineRec n = some l → l.reception = none) := by
  refine ⟨serve_serving _ _ _ (by decide) rfl, rfl, rfl, ⟨0, by decide⟩, yard_routes, by decide, rfl,
    ⟨0, _, rfl, by decide⟩, fun n l h => ?_⟩
  · match n with
    | 0 => cases h; rfl
    | 1 => cases h; rfl
    | n + 2 =>
      have e : yard.lineRec (n + 2) = ((List.replicate 14 (none : Option LineRec))[n]?).join := rfl
      rw [e, List.getElem?_replicate] at h
      split at h <;> cases h

/-! ### The buses and the timers -/

/-- An exchange with unit 0 whose command telegram ended at a time. -/
def exchange0 (t : Option Clock) : Exchange :=
  { unit := 0, seq := 0, sent := [.none, .none, .none, .hold, .signal .stop, .signal .stop], endTime := t
    spent := false }

/-- The yard with that exchange outstanding, the unit in a state with a miss and a good count. -/
def polled (t : Option Clock) (x : UnitState) (miss good : Nat) : Blocks :=
  { yard with
    busA := { BusRec.quiet with exchange := some (exchange0 t) }
    units := [{ unit0 with state := x, miss := miss, good := good }] }

/-- A character of a reply. -/
def char (v : Byte) (m : Bool) : LineChar := { data := v, marker := m, stop := true }

/-- The reply of unit 0, address 3, sequence 0, health OK: every section clear, the point normal, both signals at
stop. -/
def replyBytes : List Byte := [131, 0, 0, 0, 0, 0, 1, 0, 0]

/-- The characters of that reply, with its CRC. -/
def replyChars : List LineChar :=
  char 131 true :: ((replyBytes.drop 1) ++ bytesBE16 (crc16 replyBytes).toNat).map (fun v => char v false)

theorem met_ExchangesLastToTheirTimeoutAndMiss : (stand (polled none .active 0 2)).held = false ∧
    (stand (polled none .active 0 2)).settled = true ∧
    ((polled none .active 0 2).busRec .a).exchange = some (exchange0 none) ∧ (exchange0 none).endTime = none ∧
    (polled (some 99990) .active 0 2).mode ≠ .halted ∧ (exchange0 (some 99990)).spent = false ∧
    (exchange0 (some 99980)).inTime 100000 = true ∧ yard.unitRec 0 = some unit0 ∧
    (yard.unitEntry 0).map (fun k => k.slots.length) = some 6 := by decide

theorem met_reply_is_invalid : ∃ k r, yard.unitEntry 0 = some k ∧
    collectReply k.slots.length (List.replicate 11 (char 131 true)) = some r ∧ validReply k 0 r = none :=
  ⟨_, _, rfl, rfl, by decide +kernel⟩

theorem met_ExchangesLastToTheirTimeoutAndMiss_miss : (stand (polled (some 99980) .suspect 2 0)).asleep = false ∧
    (stand (polled (some 99980) .suspect 2 0)).settled = true ∧
    ((polled (some 99980) .suspect 2 0).busRec .a).exchange = some (exchange0 (some 99980)) ∧
    Clock.reached 100000 (Clock.after 99980 20) = true ∧
    ((polled (some 99980) .suspect 2 0).unitRec 0).map (·.state) = some .suspect ∧
    UnitState.suspect ≠ .unknown := by decide

theorem met_ValidReplyMovesTheUnitState : (stand (polled (some 99990) .syncing 0 1)).asleep = false ∧
    (stand (polled (some 99990) .syncing 0 1)).settled = true ∧
    ((polled (some 99990) .syncing 0 1).busRec .a).exchange = some (exchange0 (some 99990)) ∧
    (exchange0 (some 99990)).spent = false ∧ (exchange0 (some 99990)).inTime 100000 = true ∧
    UnitState.syncing ≠ .unknown := by decide

theorem met_reply_is_valid : ∃ k r x, yard.unitEntry 0 = some k ∧ collectReply k.slots.length replyChars = some r ∧
    validReply k 0 r = some (true, x) ∧ anyWrongAspect (exchange0 none).sent x = false :=
  ⟨_, _, [.sec .clear, .sec .clear, .sec .clear, .point (some .normal), .signal .stop, .signal .stop], rfl, rfl,
    by decide +kernel, by decide⟩

theorem met_ValidReplyMovesTheUnitState_elements :
    yard.sectionAt 0 0 = some 0 ∧ yard.pointAt 0 3 = some (0, 0) ∧ yard.signalAt 0 4 = some 0 ∧
    yard.sectionEntry 0 = some { kind := .circuit, unit := 0, slot := 0, line := none, delay := 0 } ∧
    yard.sectionRec 0 = some sec0 ∧ yard.pointRec 0 = some point0 ∧ yard.signalRec 0 = some signal0 ∧
    [some Position.normal] ≠ [] ∧ detectedPosition point0.detection = point0.ref ∧
    detectedPosition [some .normal, some .reverse] = none ∧
    (some (SlotValue.signal .stop) : Option SlotValue) = some (.signal signal0.commanded) ∧
    (none : Option SlotValue) ≠ some (.signal signal0.commanded) ∧
    (signal0.commanded, Shown.stop) ∈
      [(Aspect.stop, Shown.stop), (.proceed, .proceed), (.restricted, .restricted)] ∧
    (signal0.commanded, Shown.dark) ∉
      [(Aspect.stop, Shown.stop), (.proceed, .proceed), (.restricted, .restricted)] ∧ yard.image? = some image ∧
    image.signals[1]? = some { unit := 0, slot := 5, approach := [] } ∧
    yard.pointEntry 0 = some { ends := [{ unit := 0, slot := 3 }], sec := 0, limit := 6 } ∧
    (stuck .moving false .clear).pointRec 0 = some { point0 with state := .moving } ∧ point0.possessed = false ∧
    yard.occupancy 0 = some .clear ∧ (stuck .atRest false .clearing).occupancy 0 = some .clearing := by decide

theorem met_PollsCarryTheDerivedSlots :
    (∃ c ∈ ([{ unit := 0, slot := 3 }] : List Channel), ∃ u, (polled none .lost 3 0).unitRec c.unit = some u ∧
      u.state = .lost) ∧
    (∀ c ∈ ([{ unit := 0, slot := 3 }] : List Channel), ∀ u, yard.unitRec c.unit = some u →
      u.state ≠ .lost ∧ u.state ≠ .fault) ∧
    ({ point0 with state := .moving } : PointRec).possessed = false ∧ point0.state ≠ .moving ∧
    ({ signal0 with commanded := .proceed } : SignalRec) ≠ signal0 ∧
    ({ point0 with claimed := some .normal } : PointRec) ≠ point0 ∧ yard.unitRec 0 = some unit0 ∧
    unit0.image[4]? = some (.signal .stop) ∧ unit0.image[6]? = none ∧
    (yard.unitEntry 0).map (·.bus) = some .a ∧ 0 ∉ (yard.busRec .a).urgent ∧
    0 ∈ (({ yard with busA := { BusRec.quiet with urgent := [0] } } : Blocks).busRec .a).urgent ∧
    ((polled none .active 0 2).busRec .a).exchange ≠ none ∧ (yard.busRec .a).exchange = none ∧
    (∀ e, yard.unitEntry 0 = some e → e.bus ≠ .b ∧ e.address = 3) ∧ yard.unitEntry 1 = none ∧
    (yard.busRec .a).position = none ∧ unit0.nextSeq < 16 := by
  refine ⟨by decide, ?_, rfl, by decide, by decide, by decide, rfl, rfl, rfl, rfl, by decide, by decide, by decide, rfl,
    ?_, rfl, rfl, by decide⟩
  · intro c hc u hu
    rw [List.mem_singleton.mp hc] at hu
    cases hu
    decide
  · intro e he
    cases he
    decide

/-- The yard with section 0 CLEARING to an expiry, and with point 0 MOVING to one under a pending call. -/
def timed (t : Clock) (call : Option Nat) : Blocks :=
  { yard with
    sections := [{ sec0 with occupancy := .clearing, confirm := some t }, sec0, sec0]
    points := [{ point0 with state := .moving, moveTimer := some t, pendingCall := call }] }

theorem met_ElementTimersExpire : (stand (timed 100000 none)).asleep = false ∧
    (stand (timed 100000 none)).settled = true ∧ Clock.reached 100000 100000 = true ∧
    (timed 100000 none).sectionRec 0 = some { sec0 with occupancy := .clearing, confirm := some 100000 } ∧
    (timed 100000 (some 4)).pointRec 0 =
      some { point0 with state := .moving, moveTimer := some 100000, pendingCall := some 4 } ∧
    (serve (timed 100000 (some 4)) (ask .arm [])).port.isInFlight 4 = true := by decide

/-- An entry with a timer, an overlap in TIMING and a border part that waits for a grant. -/
def timedEntry (k : TimerKind) : RouteRec :=
  { entry0 .locked with
    timer := some { kind := k, expiry := 100000 }
    overlap := some { number := 0, state := .timing, expiry := some 100000 }
    border := some { line := 0, grant := .asked, expiry := some 100000 } }

theorem met_RouteTimersExpire : (stand (Yard.withRoute (timedEntry .approach))).asleep = false ∧
    (Yard.withRoute (timedEntry .approach)).routeRec 0 = some (timedEntry .approach) ∧
    (Yard.withRoute (timedEntry .emergency)).routeRec 0 = some (timedEntry .emergency) ∧
    Clock.reached 100000 100000 = true ∧ Clock.reached 99999 100000 = false ∧
    Clock.due 100000 (some 100000) = true ∧
    yard.overlapEntry 0 = some { sections := [1], points := [], release := 5 } ∧
    (∀ n ∈ [1], yard.occupancy n = some .clear) ∧
    (∃ n ∈ [1], ({ yard with sections := [sec0, { sec0 with occupancy := .occupied }] } : Blocks).occupancy n ≠
      some .clear) := by decide

theorem met_WaitingListIsServed : (serve { yard with waiting := [waiting0] } (ask .arm [])).asleep = false ∧
    (serve { yard with waiting := [waiting0] } (ask .arm [])).settled = true ∧
    [waiting0].find? (fun w => w.route == 0) = some waiting0 ∧ waiting0.deferred = false ∧
    Clock.due 100000 waiting0.expiry = true ∧ waiting0.cell < 32 ∧
    (serve yard (ask .arm [])).port.isInFlight waiting0.cell = true ∧ waiting0.storeTime ≠ 0 ∧
    ({ waiting0 with storeTime := 0 } : WaitingRec).storeTime = 0 := by decide

theorem met_WaitingListIsServed_pass :
    ({ yard with work := { Work.empty with freed := true } } : Blocks).work.freed = true ∧ yard.mode = .service ∧
    yard.routeEntry waiting0.route = some route0 ∧ waiting0 ∈ ({ yard with waiting := [waiting0] } : Blocks).waiting ∧
    (∃ o f, ({ yard with sections := [{ sec0 with reminder := true }] } : Blocks).restrictionStage route0 =
      some (o, f)) ∧ yard.restrictionStage route0 = none ∧ yard.freeSlot = some 0 ∧ yard.tokenCondition route0 = .met ∧
    (∃ p, yard.protection 0 route0 = .ok p ∧ ∃ d, yard.claim (.slot 0) (yard.routeClaim 0 route0 false none p) = .ok d) ∧
    (tokenYard .notHeld).tokenCondition route1 = .askable 0 ∧
    (∃ f, ({ yard with sections := [] } : Blocks).availability route0 0 false none 4 = .unavailable f) :=
  ⟨rfl, rfl, rfl, by decide, ⟨_, _, rfl⟩, by decide, by decide, rfl, ⟨_, rfl, _, rfl⟩, rfl, ⟨_, rfl⟩⟩

/-- An entry of route 0 with its overlap in a state. -/
def lapping (x : OverlapState) : RouteRec :=
  { entry0 .passing with overlap := some { number := 0, state := x, expiry := none } }

/-- The yard with section 0 passed. -/
def passedYard : Blocks := { yard with sections := [{ sec0 with passage := true }, sec0, sec0] }

theorem met_OverlapsLockTimeAndEnd :
    (Yard.withRoute (entry0 .passing)).entryAt 0 = some (route0, entry0 .passing) ∧ (entry0 .passing).overlap = none ∧
    (Yard.withRoute (lapping .locked)).entryAt 0 = some (route0, lapping .locked) ∧
    yard.overlapEntry 0 = some { sections := [1], points := [], release := 5 } ∧
    (∃ q ∈ ([{ point := 0, pos := .normal }] : List PointPos), ∀ v,
      (stuck .failed false .clear).pointRec q.point = some v → v.state ≠ .atRest) ∧
    route0.path.length = 1 ∧ route0.path[0]? = some 0 ∧ passedYard.isPassed 0 = true ∧
    yard.isPassed 0 = false ∧ (lapping .locked).released = 0 ∧ (∀ n ∈ [1], yard.occupancy n = some .clear) ∧
    (∃ n ∈ [1], ({ yard with sections := [] } : Blocks).occupancy n ≠ some .clear) := by
  refine ⟨rfl, rfl, rfl, rfl, ⟨_, List.mem_singleton.mpr rfl, fun v h => ?_⟩, rfl, rfl, rfl, rfl, rfl, by decide,
    by decide⟩
  cases h
  decide

/-! ### The border links -/

theorem met_BorderTimersExpire : (stand { yard with lineStateDue := some 100000 }).asleep = false ∧
    (stand { yard with lineStateDue := some 100000 }).settled = true ∧ Clock.reached 100000 100000 = true ∧
    yard.linkRec 0 = some link0 ∧ link0.lastValid = some 0 ∧ Clock.reached 100000 (Clock.after 98000 2000) = true ∧
    Clock.reached 100000 (Clock.after 0 2000) = true ∧
    ({ link0 with state := .starting } : LinkRec).state = .starting ∧ yard.lineRec 0 = some lineRec0 ∧
    Clock.due 100000 (some 100000) = true ∧
    ({ lineRec0 with handover := some { identity := none, sends := 2, next := 100000 } } : LineRec).handover.map
      (·.sends) = some 2 ∧ 3 ≤ ({ identity := none, sends := 3, next := 100000 } : Handover).sends := by decide

theorem met_BorderTimersExpire_lineDown :
    (∀ (n : Nat) (w : WaitingRec), ∃ q : Bool, q = true ↔ w.deferred = false ∧ w.storeTime = 0 ∧
      ∃ e, yard.routeEntry w.route = some e ∧ e.exit = .line n) ∧ yard.lineRec 0 = some lineRec0 ∧
    ({ lineRec0 with tokenAsk := some 1 } : LineRec).tokenAsk.isSome = true ∧ yard.outgoingSlot 0 = none ∧
    (Yard.withRoute (entry1 .asked)).outgoingSlot 0 = some 0 ∧
    (Yard.withRoute (entry1 .asked)).routeRec 0 = some (entry1 .asked) ∧
    (∀ g, (entry1 g).border = some { line := 0, grant := g, expiry := some 1 }) :=
  ⟨fun _ _ => Classical.byCases (fun h => ⟨true, by simpa using h⟩) (fun h => ⟨false, by simpa using h⟩), rfl, rfl,
    by decide, by decide, rfl, fun _ => rfl⟩

/-- The head of a telegram from the neighbour on port 0. -/
def head0 : TelegramHead := { port := 0, sender := 7, seq := 1 }

/-- The yard with line 0's record. -/
def lineYard (l : LineRec) : Blocks := { yard with lines := [some l, some { lineRec0 with token := none }] }

/-- An entry ask that an earlier entry left goes with the whole release of a later one whose grant is NONE (R135). -/
theorem test_whole_release_ends_an_old_entry_ask :
    (((lineYard { lineRec0 with entryAsk := some 5 }).borderReleased { line := 0, grant := .none, expiry := none }
      1).lineRec 0).map LineRec.entryAsk = some none := by decide

theorem yard_hears (l : LineRec) : (stand (lineYard l)).hears head0 (0 : Byte).toNat line0 l :=
  ⟨rfl, rfl, ⟨link0, rfl, rfl, rfl⟩, rfl, rfl, rfl⟩

/-- Line 1 is OUTBOUND. -/
theorem yard_hears_line1 : (stand yard).hears head0 (1 : Byte).toNat line1 { lineRec0 with token := none } :=
  ⟨rfl, rfl, ⟨link0, rfl, rfl, rfl⟩, rfl, rfl, rfl⟩

/-- The yard with a TOKEN ASK open on port 0: its first character. -/
def openYard : Blocks := { yard with collected := [[char 2 true], [], [], []] }

theorem met_LineStateBringsTheLinkUp : (stand yard).asleep = false ∧ (stand yard).settled = true ∧
    yard.inForce ≠ none ∧ yard.linkRec head0.port = some link0 ∧ head0.sender.toNat = link0.neighbour ∧
    yard.collectedOn 0 = [] ∧ openYard.collectedOn 0 = [char 2 true] ∧
    ({ link0 with state := .down, valid := 0 } : LinkRec).state = .down ∧
    ({ link0 with state := .starting, valid := 1 } : LinkRec).valid + 1 < 3 ∧
    3 ≤ ({ link0 with state := .starting, valid := 2 } : LinkRec).valid + 1 ∧ link0.state = .up := by decide

/-- A view that shows the token HELD too, no outgoing route, and a reception for route 1. -/
def view0 : LineView := { token := .held, borderClear := true, reception := some 1, outgoing := false }

theorem met_LineStateBringsTheLinkUp_lines :
    ([view0] : List LineView)[0]? = some view0 ∧ yard.lineRec (4 * 0 + 0) = some lineRec0 ∧
    (lineYard { lineRec0 with view := some view0 }).lineEntry 0 = some line0 ∧
    (lineYard { lineRec0 with view := some view0 }).lineRec 0 = some { lineRec0 with view := some view0 } ∧
    lineRec0.token = some .held ∧ view0.token = .held ∧ line0.mode = .bidirectional ∧ line1.mode ≠ .bidirectional ∧
    lineRec0.disagreement = false ∧ ({ lineRec0 with disagreement := true } : LineRec).disagreement = true ∧
    (Yard.withRoute (entry1 .lost)).outgoingSlot 0 = some 0 ∧
    (Yard.withRoute (entry1 .lost)).routeRec 0 = some (entry1 .lost) ∧
    (entry1 .lost).border = some { line := 0, grant := .lost, expiry := some 1 } ∧
    view0.reception = some (BitVec.ofNat 16 (entry1 .lost).route) ∧ lineRec0.view = none ∧
    (2 : Nat) = (if view0.outgoing then 0 else min 2 (1 + 1)) ∧
    ({ lineRec0 with reception := some reception5 } : LineRec).reception = some reception5 ∧ lineRec0.reception = none ∧
    (∀ y ∈ line0.recSections, yard.isPassed y = false) ∧
    (∃ y ∈ line0.recSections, ({ yard with sections := [sec0, { sec0 with passage := true }] } : Blocks).isPassed y =
      true) := by decide

theorem met_TokenTelegrams : (stand (lineYard lineRec0)).hears head0 (0 : Byte).toNat line0 lineRec0 ∧
    line1.mode ≠ .bidirectional ∧ line0.mode = .bidirectional ∧ lineRec0.token = some .held ∧
    ({ lineRec0 with givePending := true } : LineRec).givePending = true ∧ lineRec0.givePending = false ∧
    (lineYard lineRec0).mode = .service ∧ (lineYard lineRec0).occupancy 2 = some .clear ∧
    ((lineYard lineRec0).sectionRec 2).any (fun r => r.owner ≠ .free) = false ∧
    (lineYard lineRec0).hasHolding 0 = false ∧ (lineYard lineRec0).writes.length < 32 ∧
    (lineYard lineRec0).collectedOn 0 = [] ∧
    ({ lineRec0 with token := some .notHeld } : LineRec).reception = none ∧
    ({ lineRec0 with reception := some reception5 } : LineRec).reception ≠ none ∧
    ({ lineRec0 with tokenAsk := some 1 } : LineRec).tokenAsk ≠ none ∧ lineRec0.tokenAsk = none :=
  ⟨yard_hears _, by decide, rfl, rfl, rfl, rfl, rfl, rfl, by decide, by decide, by decide, by decide, rfl, by decide,
    by decide, rfl⟩

theorem met_EntryAndTrainTelegrams_entryAsk :
    (stand (lineYard { lineRec0 with token := some .notHeld })).hears head0 (0 : Byte).toNat line0
      { lineRec0 with token := some .notHeld } ∧
    (stand yard).hears head0 (1 : Byte).toNat line1 { lineRec0 with token := none } ∧ line1.mode = .outbound ∧
    (lineYard { lineRec0 with token := some .notHeld }).mode = .service ∧ line0.mode ≠ .outbound ∧
    (stand (lineYard { lineRec0 with token := some .notHeld, reception := some reception5 })).hears head0
      (0 : Byte).toNat line0 { lineRec0 with token := some .notHeld, reception := some reception5 } ∧
    (∃ c, (yard.noteSequence 0 1).claim (.line 0) (receptionClaim line0 0 none) = .ok c) ∧
    (∃ f, (({ yard with sections := [sec0, { sec0 with occupancy := .occupied }] } : Blocks).noteSequence 0 1).claim
      (.line 0) (receptionClaim line0 0 none) = .error f) :=
  ⟨yard_hears _, yard_hears_line1, rfl, rfl, by decide, yard_hears _, ⟨_, rfl⟩, ⟨_, rfl⟩⟩

theorem met_EntryAndTrainTelegrams : (stand (lineYard lineRec0)).hears head0 (0 : Byte).toNat line0 lineRec0 ∧
    yard.matchingGrant 0 1 = none ∧
    (Yard.withRoute (entry1 .asked)).matchingGrant 0 1 =
      some (0, entry1 .asked, { line := 0, grant := .asked, expiry := some 1 }) ∧
    (Yard.withRoute { entry1 .asked with state := .emergency }).matchingGrant 0 1 =
      some (0, { entry1 .asked with state := .emergency }, { line := 0, grant := .asked, expiry := some 1 }) ∧
    (∀ g, (Yard.withRoute (entry1 g)).matchingGrant 0 1 =
      some (0, entry1 g, { line := 0, grant := g, expiry := some 1 })) ∧
    (entry1 .asked).state = .locked ∧
    (stand (lineYard { lineRec0 with reception := some reception5 })).hears head0 (0 : Byte).toNat line0
      { lineRec0 with reception := some reception5 } ∧
    reception5.reference = 5 ∧ reception5.released = 0 ∧ (∀ m ∈ line0.recSections, yard.isPassed m = false) ∧
    reception5.reference ≠ 6 ∧ lineRec0.reception = none :=
  ⟨yard_hears _, by decide, by decide, by decide, (fun g => by cases g <;> decide), rfl, yard_hears _, rfl, rfl,
    by decide, by decide, rfl⟩

theorem met_EntryAndTrainTelegrams_identity :
    (match TelegramIdentity.overlong 9 (zeros 8) with
     | .absent => Config.overlongIdentity 0 9 (zeros 8) = none
     | .given i => Config.overlongIdentity 0 9 (zeros 8) = some i
     | .overlong length chars => Config.overlongIdentity 0 9 (zeros 8) = Config.overlongIdentity 0 length chars) := rfl

/-- The yard with a reception on line 0, its grant not sent, and a section 1 given. -/
def receiving (r : SectionRec) : Blocks :=
  { lineYard { lineRec0 with reception := some { reception5 with grantSent := false } } with
    sections := [sec0, r, sec0] }

theorem met_ReceptionsAndHandoversFollowTheTrain :
    (receiving sec0).lineEntry 0 = some line0 ∧ lineRec0.reception = none ∧
    (receiving sec0).lineRec 0 = some { lineRec0 with reception := some { reception5 with grantSent := false } } ∧
    (∃ ps : List PointPos, ∀ q, q ∈ ps ↔ q ∈ line0.recPoints ∧ ∃ x, (receiving sec0).pointEntry q.point = some x ∧
      x.sec ∈ line0.recSections.drop 0) ∧ reception5.grantSent = true ∧
    (∃ v, (stuck .failed false .clear).pointRec 0 = some v ∧ v.state = .failed) ∧ yard.pointRec 0 = some point0 ∧
    (receiving { sec0 with passage := true }).receptionFrontReady line0 reception5 = true ∧
    (receiving sec0).receptionFrontReady line0 reception5 = false ∧ line0.recSections[0]? = some 1 ∧
    0 + 1 = line0.recSections.length ∧ (Yard.withRoute (entry1 .granted)).outgoingSlot 0 = some 0 ∧
    (Yard.withRoute (entry1 .granted)).routeRec 0 = some (entry1 .granted) ∧ yard.outgoingSlot 0 = none ∧
    ({ yard with sections := [sec0, sec0, { sec0 with owner := .route 0 }] } : Blocks).sectionRec line0.border =
      some { sec0 with owner := .route 0 } ∧ lineRec0.handedSlot ≠ some 0 ∧
    (∃ o ∈ ([{ sec := 2, marked := false }] : List Occupation), o.sec = line0.border) := by
  refine ⟨rfl, rfl, rfl, ⟨[], fun q => ⟨fun h => absurd h List.not_mem_nil, fun h => absurd h.1 List.not_mem_nil⟩⟩, rfl,
    ⟨_, rfl, rfl⟩, rfl, by decide, by decide, rfl, rfl, by decide, rfl, by decide, rfl, by decide, by decide⟩

/-- A LINE STATE whose token views 12.6 does not name is valid, and its sequence is noted (R125, log entry 41). -/
theorem test_other_token_views_are_taken : goesOn (exec (.lineState head0 (List.replicate 4
    { token := .other 7, borderClear := true, reception := none, outgoing := false })) (stand yard)) (fun t =>
      (t.blocks.linkRec 0).map (fun l => (l.expected, l.errorReported)) = some (some 2, false) ∧
      ((t.blocks.lineRec 0).bind (·.view)).map (·.token) = some (.other 7)) := by
  show _ ∧ _
  decide +kernel

/-- The loss of the link tears an ASKED entry down in every state (R136). -/
theorem test_link_loss_ends_an_asked_emergency : ∀ e : RouteRec, e = { entry1 .asked with state := .emergency } →
    ((claimedYard e (yard.wholeHolds 0 route1 e)).lineDown 0 100000).routeRec 0 = none := by
  rintro _ rfl
  decide +kernel

/-- A whole TOKEN ASK from the neighbour of port 0 for line 0, with its CRC. -/
def wholeAsk : List LineChar :=
  (([2, 0, 7, 1, 0] : List Byte) ++ bytesBE16 (crc16 [2, 0, 7, 1, 0]).toNat).zipIdx.map (fun v => char v.1 (v.2 == 0))

/-- A second marked character breaks the open telegram off and opens another (R199). -/
theorem test_marked_character_breaks_off :
    ((openYard.onInvalidTelegram 0 [char 3 true]).map (fun b => (b.collectedOn 0, b.work.alarms))) =
      some ([char 3 true], [.raised .borderProtocolError (.port 0) 100000]) := by decide

/-- A character that no telegram is open for is lost (R199). -/
theorem test_unmarked_character_is_lost : yard.onInvalidTelegram 0 [char 3 false] = some yard := by decide

theorem met_BadTelegramsAreDiscarded : (stand yard).asleep = false ∧ (stand yard).settled = true ∧
    yard.inForce ≠ none ∧ yard.linkRec 0 = some link0 ∧ 0 < yard.collected.length ∧ yard.collectedOn 0 = [] ∧
    LineChar.marked (char 2 true) = true ∧ LineChar.marked (char 2 false) = false ∧ telegramLength 11 = none ∧
    telegramLength 2 = some (6 + 1) ∧ 5 + 1 < 7 ∧
    yard.telegramValid 0 link0 (char 2 true :: List.replicate 6 (char 0 false)) = false ∧
    openYard.collectedOn 0 = [char 2 true] ∧ telegramLength 2 ≠ some (0 + 2) ∧
    telegramLength (char 2 true).data.toNat = some (5 + 2) ∧ (8#16).toNat ≠ link0.neighbour ∧
    head0.sender.toNat = link0.neighbour ∧ portOf 4 ≠ 0 ∧ yard.lineEntry 2 = none ∧ yard.lineEntry 0 ≠ none ∧
    ({ link0 with state := .starting } : LinkRec).state ≠ .up := by decide +kernel

theorem met_a_whole_telegram : yard.telegramValid 0 link0 wholeAsk = true ∧ wholeAsk.length = 7 ∧
    (∀ c ∈ wholeAsk.tail, LineChar.marked c = false) := by decide +kernel

/-! ### The arm list, the self-check and the writes -/

/-- An end goes before its own block's raises, and behind another block's (R161, log entry 14). -/
theorem test_ends_before_the_raises_of_their_block :
    handedOrder [.raised .sectionDisturbed (.sec 0) 5, .ended .controllerLost (.unit 0) 5,
      .raised .controllerFault (.unit 0) 5, .ended .pointFailed (.point 0) 5] =
    [.ended .pointFailed (.point 0) 5, .raised .sectionDisturbed (.sec 0) 5, .ended .controllerLost (.unit 0) 5,
      .raised .controllerFault (.unit 0) 5] := by decide

theorem met_ArmAndTimeLockExpire : (stand yard).asleep = false ∧ (stand yard).settled = true ∧
    30000 ≤ Clock.age 100000 70000 ∧ Clock.age 100000 70001 < 30000 ∧
    ({ yard with sweep := { stage := .locking, seen := [], lockExpiry := some 100000 } } : Blocks).sweep.stage =
      .locking ∧ Clock.due 100000 (some 100000) = true := by decide

theorem met_SelfCheckHalts : (stand yard).asleep = false ∧ (stand yard).settled = true ∧
    (yard.inForce.map (·.bytes)) = some [] ∧ Clock.reached 100000 100000 = true ∧
    imageCrc sound = imageCrcField sound ∧ imageCrc (zeros 64) ≠ imageCrcField (zeros 64) := by decide +kernel

/-- A mark written, its end answering cell 3. -/
def markWrite : Write :=
  .record (.standing (.sec 0) true) (.answer { cell := 3, outcome := .done, detail := .none })

theorem met_RecordWriteEnds : (serve { yard with running := some markWrite } (ask .arm [])).held = false ∧
    (serve { yard with running := some markWrite } (ask .arm [])).settled = true ∧
    ({ yard with running := some markWrite } : Blocks).running = some markWrite ∧
    ({ yard with mode := .halted } : Blocks).mode = .halted ∧ yard.mode ≠ .halted ∧
    (serve yard (ask .arm [])).port.isInFlight 3 = true ∧ yard.writes.head? = none := by decide

theorem met_RecordWriteEnds_give :
    ({ yard with running := some (.record (.token 0 .notHeld) (.give 0)) } : Blocks).running =
      some (.record (.token 0 .notHeld) (.give 0)) ∧ yard.lineRec 0 = some lineRec0 ∧
    yard.linkRec (portOf 0) = some link0 ∧ yard.inForce = some { bytes := [], image := image } ∧
    (∀ c, yard.writes.head? ≠ some (.commit c)) := ⟨rfl, rfl, rfl, rfl, fun c h => by cases h⟩

/-- A commit of cell 3 running, with no image in force. -/
def unloaded : Blocks := { loading LoadRec.empty with inForce := none, running := some (.commit 3) }

theorem met_CommitWriteEnds : (serve unloaded (ask .arm [])).asleep = false ∧
    (serve unloaded (ask .arm [])).settled = true ∧ unloaded.running = some (.commit 3) ∧
    (serve unloaded (ask .arm [])).port.isInFlight 3 = true ∧ unloaded.writes = [] ∧ unloaded.inForce = none := by
  decide

theorem met_MirrorsShowTheRecords : [MirrorRec.identity, .sec 0].Nodup ∧
    (∀ r ∈ [MirrorRec.identity, .summary], r ∈ allRecords) ∧ MirrorRec.identity ∈ [MirrorRec.identity, .summary] ∧
    8 ≤ (MirrorRec.sec 0).size ∧ 1 < 4294967295 ∧ yard.sectionRec 3 = none ∧ yard.pointRec 1 = none ∧
    yard.signalRec 2 = none ∧ yard.routeRec 0 = none ∧ yard.unitRec 1 = none ∧ yard.linkRec 1 = none ∧
    yard.lineRec 2 = none ∧ yard.areas.length ≤ 2 ∧ yard.waiting.length ≤ 0 ∧ yard.sectionRec 0 = some sec0 ∧
    yard.pointRec 0 = some point0 ∧ yard.signalRec 0 = some signal0 ∧ signal0.matchCount < 4 ∧
    signal0.mismatchCount < 4 ∧ yard.areas[1]? = some PossessionRec.free ∧
    (armedYard .forceLift (.area 1)).arms[0]? = some (armed10 .forceLift (.area 1)) ∧
    ({ yard with alarms := [alarm7] } : Blocks).alarms[0]? = some alarm7 ∧ unloaded.inForce = none ∧
    yard.inForce = some { bytes := [], image := image } := by
  refine ⟨by decide, ?_, by decide, by decide, by decide, by decide, by decide, by decide, by decide, by decide,
    by decide, by decide, by decide, by decide, rfl, rfl, rfl, by decide, by decide, rfl, rfl, rfl, rfl, rfl⟩
  intro r hr
  simp only [List.mem_cons, List.not_mem_nil, or_false] at hr
  unfold allRecords
  iterate 4 apply List.mem_append_left
  rcases hr with rfl | rfl <;> decide

theorem met_MirrorsShowTheRecords_bodies :
    (Yard.withRoute (timedEntry .approach)).routeRec 0 = some (timedEntry .approach) ∧
    (timedEntry .approach).timer = some { kind := .approach, expiry := 100000 } ∧ (entry0 .locked).timer = none ∧
    (timedEntry .approach).overlap = some { number := 0, state := .timing, expiry := some 100000 } ∧
    (entry0 .locked).overlap = none ∧ guardedEntry.flank.length ≤ 8 ∧
    guardedEntry.flank[0]? = some { substitute := false, released := false } ∧ (entry0 .locked).border = none ∧
    (entry1 .asked).border = some { line := 0, grant := .asked, expiry := some 1 } ∧ (entry0 .locked).cell = none ∧
    ({ yard with waiting := [waiting0] } : Blocks).waiting[0]? = some waiting0 ∧ yard.unitRec 0 = some unit0 ∧
    unit0.nextSeq < 16 ∧ unit0.miss < 4 ∧ unit0.good < 4 ∧ unit0.image.length ≤ 8 ∧ unit0.image[4]? =
      some (.signal .stop) ∧ unit0.lastStatus = none ∧ [SlotStatus.sec .clear].length ≤ 8 ∧
    yard.linkRec 0 = some link0 ∧ yard.lineEntry 0 = some line0 ∧ yard.lineRec 0 = some lineRec0 ∧
    lineRec0.handover = none ∧ lineRec0.reception = none ∧ lineRec0.view = none ∧
    ({ lineRec0 with reception := some reception5, view := some view0 } : LineRec).view = some view0 := by decide

end Sys2Proof.Tests
end

section

namespace Sys2Proof.Machine

/-! PROOF. The end of a commit write (R178, R179): what setting up the blocks from a fresh persistent section gives, and
what the start-up sweep and the first polls change of it. -/

/-! ### What the mirrors marked, the first polls and the start of the sweep leave -/

/-- Marking mirrors changes the list of the records to write alone. -/
theorem Blocks.foldl_mark_eq (rs : List MirrorRec) : ∀ b : Blocks, ∃ d,
    rs.foldl Blocks.mark b = { b with work := { b.work with dirty := d } } := by
  induction rs with
  | nil => exact fun b => ⟨_, rfl⟩
  | cons r rs ih =>
    intro b
    obtain ⟨d, e⟩ := ih (b.mark r)
    exact ⟨d, e⟩

/-- R108: a unit that has not replied since its record was set up: unpolled, or in its first exchanges. -/
structure UnitRec.Unheard (u : UnitRec) : Prop where
  state : u.state = .unknown ∨ u.state = .syncing
  miss : u.miss = 0
  good : u.good = 0
  lastStatus : u.lastStatus = none
  lastReply : u.lastReply = none

theorem UnitRec.start_unheard (e : UnitEntry) : (UnitRec.start e).Unheard := ⟨.inl rfl, rfl, rfl, rfl, rfl⟩

/-- R110: a unit's record as the building of a command telegram leaves it. -/
def UnitRec.polled (m : Mode) (u : UnitRec) : UnitRec :=
  if u.state = .unknown ∧ m ≠ .halted then
    { u with nextSeq := (u.nextSeq + 1) % 16, state := .syncing, miss := 0, good := 0 }
  else { u with nextSeq := (u.nextSeq + 1) % 16 }

theorem UnitRec.Unheard.polled {u : UnitRec} (h : u.Unheard) (m : Mode) : (u.polled m).Unheard := by
  unfold UnitRec.polled
  split
  · exact ⟨.inr rfl, rfl, rfl, h.lastStatus, h.lastReply⟩
  · exact ⟨h.state, h.miss, h.good, h.lastStatus, h.lastReply⟩

theorem Blocks.updUnit_units (b : Blocks) (n : Nat) (f : UnitRec → UnitRec) :
    (b.updUnit n f).units = b.units.modify n f := by
  unfold Blocks.updUnit
  split
  · rename_i h
    rw [List.modify_eq_self (List.getElem?_eq_none_iff.mp h)]
  · rename_i u h
    have hset : b.units.modify n f = b.units.set n (f u) := by
      rw [List.modify_eq_set_getElem?, show b.units[n]? = some u from h]
      rfl
    rw [hset]
    dsimp only
    split <;> rfl

/-- A change that keeps a property of its items keeps it of every item of the list. -/
theorem forall_mem_modify {α : Type} {P : α → Prop} {l : List α} (n : Nat) {f : α → α} (hf : ∀ u, P u → P (f u))
    (h : ∀ u ∈ l, P u) : ∀ u ∈ l.modify n f, P u := by
  intro u hu
  obtain ⟨k, hk⟩ := List.mem_iff_getElem?.mp hu
  rw [List.getElem?_modify] at hk
  obtain ⟨v, hv, rfl⟩ := Option.map_eq_some_iff.mp hk
  have hmem := h v (List.mem_of_getElem? hv)
  split
  · exact hf v hmem
  · exact hmem

/-- Blocks d are blocks b with polls begun: units polled, buses busy, telegrams sent and mirrors marked (R110, R120). -/
structure Blocks.Polled (b d : Blocks) : Prop where
  frame : ∃ us p q ms ts, d =
    { b with units := us, busA := p, busB := q, work := { b.work with dirty := ms, sent := ts } }
  length : d.units.length = b.units.length
  unheard : (∀ u ∈ b.units, u.Unheard) → ∀ u ∈ d.units, u.Unheard

namespace Blocks.Polled

variable {a b : Blocks}

theorem refl (b : Blocks) : Polled b b := ⟨⟨_, _, _, _, _, rfl⟩, rfl, id⟩

theorem trans {c : Blocks} (g : Polled a b) (h : Polled b c) : Polled a c := by
  obtain ⟨_, _, _, _, _, rfl⟩ := g.frame
  obtain ⟨_, _, _, _, _, rfl⟩ := h.frame
  exact ⟨⟨_, _, _, _, _, rfl⟩, h.length.trans g.length, h.unheard ∘ g.unheard⟩

theorem setBus (b : Blocks) (x : Bus) (r : BusRec) : Polled b (b.setBus x r) := by
  cases x <;> exact ⟨⟨_, _, _, _, _, rfl⟩, rfl, id⟩

theorem mark (b : Blocks) (r : MirrorRec) : Polled b (b.mark r) := ⟨⟨_, _, _, _, _, rfl⟩, rfl, id⟩

theorem send (b : Blocks) (t : List Sent) : Polled b { b with work := { b.work with sent := t } } :=
  ⟨⟨_, _, _, _, _, rfl⟩, rfl, id⟩

theorem updUnit (b : Blocks) (n : Nat) (m : Mode) : Polled b (b.updUnit n (UnitRec.polled m)) := by
  have hu := b.updUnit_units n (UnitRec.polled m)
  obtain ⟨us, d, h⟩ := b.updUnit_frame n (UnitRec.polled m)
  refine ⟨⟨us, _, _, d, _, h⟩, by rw [hu, List.length_modify], fun hb => ?_⟩
  rw [hu]
  exact forall_mem_modify n (fun _ hv => hv.polled m) hb

theorem poll (b : Blocks) (x : Bus) (n : Nat) : Polled b (b.poll x n) := by
  unfold Blocks.poll
  split
  · exact ((setBus b x _).trans (updUnit _ n _)).trans (send _ _)
  · exact refl b

theorem startPoll (b : Blocks) (x : Bus) : Polled b (b.startPoll x) := by
  unfold Blocks.startPoll
  dsimp only
  split
  · exact refl b
  · split
    · exact ((setBus b x _).trans (mark _ _)).trans (poll _ x _)
    · split
      · exact refl b
      · exact (setBus b x _).trans (poll _ x _)

end Blocks.Polled

theorem Blocks.raiseBlocked_eq (b : Blocks) (h : ∀ n l, b.lineRec n = some l → l.token ≠ some .blocked) :
    b.raiseBlocked = b := by
  unfold Blocks.raiseBlocked
  have hn : ∀ n, (b.lineRec n).any (fun l => l.token = some .blocked) = false := by
    intro n
    cases hl : b.lineRec n with
    | none => rfl
    | some l => simpa using h n l hl
  exact List.foldl_fixed _ b (fun n => by rw [hn]; rfl) _

/-- Blocks d are blocks b with the start-up sweep begun, and ended where no unit is configured: the mode, the sweep, the
polls and what is handed on, but no answer, alarm or failed check (R181). -/
structure Blocks.Observed (b d : Blocks) : Prop where
  frame : ∃ m w us p q k, d = { b with mode := m, sweep := w, units := us, busA := p, busB := q, work := k } ∧
    k.answers = b.work.answers ∧ k.alarms = b.work.alarms ∧ k.halt = b.work.halt
  mode : d.mode = .observing ∨ d.mode = .service
  sweep : b.units ≠ [] → d.mode = .observing ∧
    d.sweep = { stage := .sweeping, seen := List.replicate b.units.length false, lockExpiry := none }
  length : d.units.length = b.units.length
  unheard : (∀ u ∈ b.units, u.Unheard) → ∀ u ∈ d.units, u.Unheard

theorem Blocks.Observed.polled {b c d : Blocks} (h : Blocks.Observed b c) (g : Blocks.Polled c d) :
    Blocks.Observed b d := by
  obtain ⟨⟨_, _, _, _, _, _, rfl, hans, hal, hh⟩, hm, hs, hl, hu⟩ := h
  obtain ⟨_, _, _, _, _, rfl⟩ := g.frame
  exact ⟨⟨_, _, _, _, _, _, rfl, hans, hal, hh⟩, hm, hs, g.length.trans hl, g.unheard ∘ hu⟩

/-- R181: a sweep with a unit still to be heard of is not complete. -/
theorem Blocks.completeSweep_open (b : Blocks) (h : b.sweep.seen.all id = false) : b.completeSweep = b := by
  unfold Blocks.completeSweep
  rw [if_neg (fun q => by rw [h] at q; exact Bool.false_ne_true q.2)]

theorem Blocks.wakeDeferred_nil (b : Blocks) (h : b.waiting = []) : b.wakeDeferred = b := by
  unfold Blocks.wakeDeferred
  rw [h, List.map_nil, ← h]

theorem Blocks.enterService_eq (b : Blocks) (h : b.waiting = []) : b.enterService =
    ((({ b with sweep := { b.sweep with stage := .ended, lockExpiry := none } } : Blocks).setMode .service).mark
      .summary).noticeTokenHeld :=
  congrArg Blocks.noticeTokenHeld (Blocks.wakeDeferred_nil _ h)

/-- R67, R181: with no request waiting, the end of the sweep changes the mode and the sweep, and hands on no answer, no
alarm and no failed check. -/
theorem Blocks.completeSweep_frame (b : Blocks) (hw : b.waiting = []) : ∃ m w k,
    b.completeSweep = { b with mode := m, sweep := w, work := k } ∧ (m = b.mode ∨ m = .service) ∧
      k.answers = b.work.answers ∧ k.alarms = b.work.alarms ∧ k.halt = b.work.halt := by
  unfold Blocks.completeSweep
  split
  · split
    · rw [Blocks.enterService_eq b hw]
      exact ⟨_, _, _, rfl, .inr rfl, rfl, rfl, rfl⟩
    · exact ⟨_, _, _, rfl, .inl rfl, rfl, rfl, rfl⟩
  · exact ⟨_, _, _, rfl, .inl rfl, rfl, rfl, rfl⟩

/-- R181: the mode OBSERVING shown and every unit still to be heard of. -/
def Blocks.sweepBegun (b : Blocks) : Blocks :=
  (({ b with sweep := { stage := .sweeping, seen := List.replicate b.units.length false, lockExpiry := none } } :
    Blocks).setMode .observing).mark .summary

theorem Blocks.enterObserving_eq (b : Blocks) :
    b.enterObserving = (b.sweepBegun.raiseBlocked.completeSweep.startPoll .a).startPoll .b := rfl

theorem Blocks.sweepBegun_seen (b : Blocks) (h : b.units ≠ []) : b.sweepBegun.sweep.seen.all id = false := by
  show (List.replicate b.units.length false).all id = false
  rw [List.all_replicate, if_neg (fun q => h (List.length_eq_zero_iff.mp q))]
  rfl

/-- R181: OBSERVING entered with nothing waiting and no token BLOCKED. -/
theorem Blocks.enterObserving_observed (b : Blocks) (hw : b.waiting = [])
    (hl : ∀ n l, b.lineRec n = some l → l.token ≠ some .blocked) : Blocks.Observed b b.enterObserving := by
  have key : Blocks.Observed b b.sweepBegun.completeSweep := by
    obtain ⟨m, w, k, e, hm, ha, hal, hh⟩ := Blocks.completeSweep_frame b.sweepBegun hw
    refine ⟨?_, ?_, fun hne => ?_, ?_, ?_⟩
    · exact ⟨_, _, _, _, _, _, e, ha, hal, hh⟩
    · rw [e]; exact hm
    · rw [Blocks.completeSweep_open _ (b.sweepBegun_seen hne)]
      exact ⟨rfl, rfl⟩
    · rw [e]; rfl
    · rw [e]; exact id
  rw [Blocks.enterObserving_eq, Blocks.raiseBlocked_eq b.sweepBegun hl]
  exact (key.polled (.startPoll _ _)).polled (.startPoll _ _)

/-! ### The records set up from an image and its fresh persistent section -/

theorem Persistent.fresh_sections (i : Image) :
    (Persistent.fresh i).sections = List.replicate i.sections.length false := rfl

theorem Persistent.fresh_points (i : Image) :
    (Persistent.fresh i).points = List.replicate i.points.length false := rfl

theorem Persistent.fresh_signals (i : Image) :
    (Persistent.fresh i).signals = List.replicate i.signals.length false := rfl

theorem Persistent.fresh_areas (i : Image) : (Persistent.fresh i).areas =
    List.replicate i.areas.length { state := .free, reference := none, attempts := 0 } := rfl

/-- R177: a reset persistent section holds no possession. -/
theorem heldAreas_fresh (i : Image) : heldAreas i (Persistent.fresh i) = [] := by
  refine List.filter_eq_nil_iff.mpr fun a _ => ?_
  unfold Persistent.holdsArea
  rw [Persistent.fresh_areas, List.getElem?_replicate]
  split <;> simp

theorem getD_replicate_false (n k : Nat) : ((List.replicate n false)[k]?).getD false = false := by
  rw [List.getElem?_replicate]
  split <;> rfl

/-- R19, R177: the record of a section after a commit. -/
def SectionRec.fresh : SectionRec :=
  { occupancy := .disturbed, owner := .free, reminder := false, standing := false, passage := false
    identity := none, changedAt := 0, confirm := none }

theorem SectionRec.start_fresh (i : Image) (n : Nat) :
    SectionRec.start i (Persistent.fresh i) n = SectionRec.fresh := by
  unfold SectionRec.start
  rw [heldAreas_fresh, Persistent.fresh_sections, getD_replicate_false]
  rfl

/-- R27, R177: the record of a point after a commit. -/
def PointRec.fresh (e : PointEntry) : PointRec :=
  { ref := none, detection := e.ends.map (fun _ => none), state := .unknown, pathCount := 0, overlapCount := 0
    flankCount := 0, claimed := none, reminder := false, standing := false, possessed := false
    pendingCall := none, moveTimer := none }

theorem PointRec.start_fresh (i : Image) (n : Nat) (e : PointEntry) :
    PointRec.start i (Persistent.fresh i) n e = PointRec.fresh e := by
  unfold PointRec.start
  rw [heldAreas_fresh, Persistent.fresh_points, getD_replicate_false]
  rfl

/-- R32, R177: the record of a signal after a commit. -/
def SignalRec.fresh : SignalRec :=
  { commanded := .stop, shown := .dark, proved := false, matchCount := 0, mismatchCount := 0, lampFault := false
    owningSlot := none, flankCount := 0, possessionCount := 0, reminder := false, standing := false }

theorem SignalRec.start_fresh (i : Image) (n : Nat) :
    SignalRec.start i (Persistent.fresh i) n = SignalRec.fresh := by
  unfold SignalRec.start
  rw [heldAreas_fresh, Persistent.fresh_signals, getD_replicate_false]
  rfl

/-- R147, R177. -/
theorem PossessionRec.start_fresh (i : Image) (n : Nat) :
    PossessionRec.start (Persistent.fresh i) n = PossessionRec.free := by
  unfold PossessionRec.start
  rw [Persistent.fresh_areas, List.getElem?_replicate]
  split
  · rfl
  · rename_i q
    split at q
    · cases q; rfl
    · cases q

/-- R129, R177: the record of a fitted line after a commit. -/
def LineRec.fresh (e : LineEntry) : LineRec :=
  { token := if e.mode = .bidirectional then some (if e.localFirst then .held else .notHeld) else none
    disagreement := false, givePending := false, tokenAsk := none, entryAsk := none, reception := none
    handover := none, handedSlot := none, view := none, deferredFree := none, outgoingNone := 0 }

theorem LineRec.start_fresh (i : Image) (n : Nat) (l : LineRec) : LineRec.start i (Persistent.fresh i) n = some l ↔
    ∃ e, i.lines[n]? = some e ∧ e.mode ≠ .unfitted ∧ l = LineRec.fresh e := by
  unfold LineRec.start
  cases he : i.lines[n]? with
  | none => simp
  | some e =>
    have ht : ((Persistent.fresh i).tokens[n]?).join =
        if e.mode = .bidirectional then some (if e.localFirst then .held else .notHeld) else none := by
      simp only [Persistent.fresh, List.getElem?_map, he, Option.map_some, Option.join_some]
    dsimp only
    by_cases hm : e.mode = .unfitted
    · simp [hm]
    · have hstart : ∀ t : Option Token, (if e.mode = .bidirectional then if e.mode = .bidirectional then t else none
          else none) = if e.mode = .bidirectional then t else none := fun t => by split <;> rfl
      rw [if_neg hm, ht, hstart]
      constructor
      · intro h
        cases h
        exact ⟨e, rfl, hm, rfl⟩
      · rintro ⟨_, h, _, rfl⟩
        cases h
        rfl

theorem LineRec.fresh_token (e : LineEntry) : (LineRec.fresh e).token ≠ some .blocked := by
  unfold LineRec.fresh
  dsimp only
  split
  · split <;> simp
  · simp

/-- R124: a link record as it is set up. -/
theorem LinkRec.start_some {i : Image} {port : Nat} {l : LinkRec} (h : LinkRec.start i port = some l) :
    l = { state := .down, valid := 0, lastValid := none, transmit := 0, expected := none, gap := 0
          errorReported := false, neighbour := l.neighbour } := by
  unfold LinkRec.start at h
  split at h
  · cases h
  · cases h; rfl

/-! ### The blocks a completed commit sets up -/

/-- A list read place by place. -/
theorem filterMap_range_getElem? {α β : Type} (g : α → β) (l : List α) :
    (List.range l.length).filterMap (fun n => (l[n]?).map g) = l.map g := by
  induction l with
  | nil => rfl
  | cons x l ih =>
    rw [List.length_cons, List.range_succ_eq_map, List.filterMap_cons, List.filterMap_map, List.map_cons, ← ih]
    rfl

/-- R178: the blocks set up from the loaded image, before the start-up sweep. -/
def Blocks.committed (b : Blocks) : Blocks :=
  let w := WorkingCopy.ofBytes b.load.buffer
  ({ b with
    running := none
    stored := { valid := true, bytes := b.load.buffer }
    persistent := Persistent.fresh w.image
    load := LoadRec.empty } : Blocks).setUp w

/-- The loaded image (R3). -/
def Blocks.loaded (b : Blocks) : Image := (WorkingCopy.ofBytes b.load.buffer).image

theorem Blocks.commitCompleted_eq (b : Blocks) (cell : Nat) :
    b.commitCompleted cell = b.committed.enterObserving.answer cell .done .none := rfl

section
variable (b : Blocks)

theorem Blocks.committed_sections :
    b.committed.sections = List.replicate b.loaded.sections.length SectionRec.fresh := by
  show (List.range _).map (SectionRec.start b.loaded (Persistent.fresh b.loaded)) = _
  rw [List.map_congr_left (fun n _ => SectionRec.start_fresh _ n), List.map_const', List.length_range]
  rfl

theorem Blocks.committed_points : b.committed.points = b.loaded.points.map PointRec.fresh := by
  show (List.range _).filterMap (fun n =>
    (b.loaded.points[n]?).map (PointRec.start b.loaded (Persistent.fresh b.loaded) n)) = _
  simp only [funext (PointRec.start_fresh b.loaded _)]
  exact filterMap_range_getElem? _ _

theorem Blocks.committed_signals :
    b.committed.signals = List.replicate b.loaded.signals.length SignalRec.fresh := by
  show (List.range _).map (SignalRec.start b.loaded (Persistent.fresh b.loaded)) = _
  rw [List.map_congr_left (fun n _ => SignalRec.start_fresh _ n), List.map_const', List.length_range]
  rfl

theorem Blocks.committed_areas : b.committed.areas = List.replicate b.loaded.areas.length PossessionRec.free := by
  show (List.range _).map (PossessionRec.start (Persistent.fresh b.loaded)) = _
  rw [List.map_congr_left (fun n _ => PossessionRec.start_fresh _ n), List.map_const', List.length_range]
  rfl

theorem Blocks.committed_holds : b.committed.holds = [] := by
  show (heldAreas b.loaded (Persistent.fresh b.loaded)).flatMap _ = []
  rw [heldAreas_fresh]
  rfl

theorem Blocks.committed_units : b.committed.units = b.loaded.units.map UnitRec.start := rfl

theorem Blocks.committed_units_length : b.committed.units.length = b.loaded.units.length := List.length_map _

theorem Blocks.committed_units_ne (h : b.loaded.units ≠ []) : b.committed.units ≠ [] :=
  fun q => h (List.map_eq_nil_iff.mp q)

theorem Blocks.committed_unheard : ∀ u ∈ b.committed.units, u.Unheard := by
  intro u h
  obtain ⟨e, _, rfl⟩ := List.mem_map.mp h
  exact UnitRec.start_unheard e

theorem Blocks.committed_routeRec (n : Nat) : b.committed.routeRec n = none := by
  show ((List.replicate 48 none)[n]?).join = none
  rw [List.getElem?_replicate]
  split <;> rfl

theorem Blocks.committed_linkRec {n : Nat} {l : LinkRec} (h : b.committed.linkRec n = some l) :
    LinkRec.start b.loaded n = some l := by
  change (((List.range 4).map (LinkRec.start b.loaded))[n]?).join = some l at h
  rw [List.getElem?_map] at h
  by_cases hn : n < 4
  · rwa [List.getElem?_range hn] at h
  · rw [List.getElem?_eq_none (by simpa using hn)] at h
    cases h

theorem Blocks.committed_lineRec (n : Nat) (l : LineRec) : b.committed.lineRec n = some l ↔
    n < 16 ∧ ∃ e, b.loaded.lines[n]? = some e ∧ e.mode ≠ .unfitted ∧ l = LineRec.fresh e := by
  rw [← LineRec.start_fresh]
  show (((List.range 16).map (LineRec.start b.loaded (Persistent.fresh b.loaded)))[n]?).join = some l ↔ _
  rw [List.getElem?_map]
  by_cases hn : n < 16
  · rw [List.getElem?_range hn]
    simp [hn]
  · rw [List.getElem?_eq_none (by simpa using hn)]
    simp [hn]

theorem Blocks.committed_lineRec_isSome {n : Nat} (hn : n < 16) : (b.committed.lineRec n).isSome = true ↔
    ∃ e, b.loaded.lines[n]? = some e ∧ e.mode ≠ .unfitted := by
  rw [Option.isSome_iff_exists]
  constructor
  · rintro ⟨l, hl⟩
    obtain ⟨-, e, he, hmode, -⟩ := (b.committed_lineRec n l).mp hl
    exact ⟨e, he, hmode⟩
  · rintro ⟨e, he, hmode⟩
    exact ⟨_, (b.committed_lineRec n _).mpr ⟨hn, e, he, hmode, rfl⟩⟩

theorem Blocks.eq_fresh_of_mem_sections {r : SectionRec} (h : r ∈ b.committed.sections) : r = SectionRec.fresh := by
  rw [b.committed_sections] at h
  exact List.eq_of_mem_replicate h

theorem Blocks.eq_fresh_of_mem_points {v : PointRec} (h : v ∈ b.committed.points) : ∃ e, v = PointRec.fresh e := by
  rw [b.committed_points] at h
  obtain ⟨e, -, rfl⟩ := List.mem_map.mp h
  exact ⟨e, rfl⟩

theorem Blocks.eq_fresh_of_mem_signals {r : SignalRec} (h : r ∈ b.committed.signals) : r = SignalRec.fresh := by
  rw [b.committed_signals] at h
  exact List.eq_of_mem_replicate h

theorem PointRec.fresh_detection (e : PointEntry) : ∀ x ∈ (PointRec.fresh e).detection, x = none := by
  intro x hx
  obtain ⟨_, -, rfl⟩ := List.mem_map.mp hx
  rfl

end

/-! ### Events that answer one cell -/

/-- The one answer of an event finds its cell in flight. -/
theorem Port.writeAnswers_one (p : Port) (now : Clock) (a : Answer) (h : p.isInFlight a.cell = true) :
    (Port.writeAnswers now p [a]).2 = false :=
  Port.writeAnswers_fine _ _ _ (fun x hx => by rw [List.mem_singleton.mp hx]; exact h) (by simp)

/-- R189: an event whose one answer names a cell in flight. -/
theorem State.ended_answered (s : State) (b : Blocks) (a : Answer) (hb : b.work.answers = [a])
    (hf : s.port.isInFlight a.cell = true) (hc : a.cell < 32) : (s.ended b).answered a.cell a.outcome a.detail :=
  State.finish_settle_answered s s.port b a [] [] hb (by simp) hf hc

/-! ### The end of a commit write (R178, R179) -/

theorem Blocks.beginNext_nil (b : Blocks) (h : b.writes = []) : b.beginNext = b := by
  unfold Blocks.beginNext
  rw [h]

/-- R178: the blocks after a commit write that reads back equal, its mirrors handed over. -/
def Blocks.commitDone (b : Blocks) (cell : Nat) : Blocks :=
  ((b.commitCompleted cell).presentRecords ++ [MirrorRec.identity]).foldl Blocks.mark (b.commitCompleted cell)

/-- R179: the blocks after a commit write that failed. -/
def Blocks.commitLost (b : Blocks) (cell : Nat) : Blocks :=
  (({ b.spoilStore with running := none } : Blocks).commitFailed cell).mark .identity

/-- R179: the blocks a failed commit write leaves, but for STORE_FAULT in the alarm list and what is handed on. -/
def Blocks.commitUndone (b : Blocks) : Blocks :=
  { b.spoilStore with running := none, load := { b.load with state := .receiving } }

theorem Blocks.commitLost_answers (b : Blocks) (cell : Nat) (hb : b.work = Work.empty) :
    (b.commitLost cell).work.answers = [{ cell := cell, outcome := .storeFault, detail := .none }] := by
  show b.work.answers ++ _ = _
  rw [hb]
  rfl

theorem Blocks.commitLost_alarms (b : Blocks) (cell : Nat) (hb : b.work = Work.empty) :
    (b.commitLost cell).work.alarms = [.raised .storeFault .device b.clock] := by
  show b.work.alarms ++ _ = _
  rw [hb]
  rfl

theorem Blocks.committed_observed (b : Blocks) : Blocks.Observed b.committed b.committed.enterObserving := by
  refine Blocks.enterObserving_observed _ rfl fun n l h => ?_
  obtain ⟨_, e, _, _, rfl⟩ := (b.committed_lineRec n l).mp h
  exact LineRec.fresh_token e

/-- The blocks of a completed commit, but for what they hand on: those set up, with the sweep and the polls begun. -/
theorem Blocks.commitDone_eq (b : Blocks) (cell : Nat) (hb : b.work = Work.empty) : ∃ k,
    b.commitDone cell = { b.committed.enterObserving with work := k } ∧
      k.answers = [{ cell := cell, outcome := .done, detail := .none }] ∧ k.alarms = [] ∧ k.halt = false := by
  have hw : b.committed.work = Work.empty := hb
  obtain ⟨⟨m, w, us, p, q, k, e, hans, hal, hh⟩, -⟩ := b.committed_observed
  unfold Blocks.commitDone
  obtain ⟨d, hd⟩ := Blocks.foldl_mark_eq ((b.commitCompleted cell).presentRecords ++ [MirrorRec.identity])
    (b.commitCompleted cell)
  rw [hd, Blocks.commitCompleted_eq, e]
  rw [hw] at hans hal hh
  refine ⟨_, rfl, ?_, hal, hh⟩
  show k.answers ++ _ = _
  rw [hans]
  rfl

/-- The blocks at the end of the event: with no route and no reception there is nothing to follow up. -/
theorem State.ended_commitDone (s : State) (cell : Nat) (hs : s.blocks.work = Work.empty)
    (hf : s.port.isInFlight cell = true) : (s.ended (s.blocks.commitDone cell)).blocks =
      { s.blocks.committed.enterObserving with work := Work.empty, freeIndex := s.blocks.freeIndex + 1 } := by
  obtain ⟨k, hk, hans, hal, hh⟩ := s.blocks.commitDone_eq cell hs
  obtain ⟨⟨m, w, us, p, q, _, e, -⟩, -⟩ := s.blocks.committed_observed
  have hquiet : (s.blocks.commitDone cell).quiet := by
    rw [hk, e]
    refine ⟨s.blocks.committed_routeRec, fun n => ?_, .inl rfl, hh⟩
    show (s.blocks.committed.lineRec n).bind (·.reception) = none
    cases hr : s.blocks.committed.lineRec n with
    | none => rfl
    | some l =>
      obtain ⟨_, _, _, _, rfl⟩ := (s.blocks.committed_lineRec n l).mp hr
      rfl
  have hfree : (s.blocks.commitDone cell).freeIndex = s.blocks.freeIndex := by rw [hk, e]; rfl
  have hfine : (Port.writeAnswers (s.blocks.commitDone cell).clock s.port (s.blocks.commitDone cell).work.answers).2 =
      false := by
    rw [hk]
    show (Port.writeAnswers _ _ k.answers).2 = false
    rw [hans]
    exact Port.writeAnswers_one _ _ _ hf
  have hend := (Blocks.After.of_silent s s.port _ hfree hfine (by rw [hk]; exact hal)).quiet hquiet
  rw [hfree] at hend
  unfold State.ended
  rw [hend, hk]

theorem exec_commitWriteEnd_done (s : State) (cell : Nat) (hs : s.asleep = false) (hk : s.blocks.work = Work.empty)
    (hr : s.blocks.running = some (.commit cell)) (hw : s.blocks.writes = []) :
    exec (.commitWriteEnd true) s = .next (s.ended (s.blocks.commitDone cell)) := by
  refine State.event_next s (fun b => b.commitWriteEnd true) _ hs ?_
  have hwrites : (s.blocks.commitDone cell).writes = [] := by
    obtain ⟨_, hdone, -⟩ := s.blocks.commitDone_eq cell hk
    obtain ⟨⟨_, _, _, _, _, _, e, -⟩, -⟩ := s.blocks.committed_observed
    rw [hdone, e]
    exact hw
  unfold Blocks.commitWriteEnd
  rw [hr]
  exact congrArg some (Blocks.beginNext_nil _ hwrites)

theorem exec_commitWriteEnd_lost (s : State) (cell : Nat) (hs : s.asleep = false)
    (hr : s.blocks.running = some (.commit cell)) (hw : s.blocks.writes = []) :
    exec (.commitWriteEnd false) s = .next (s.ended (s.blocks.commitLost cell)) := by
  refine State.event_next s (fun b => b.commitWriteEnd false) _ hs ?_
  unfold Blocks.commitWriteEnd
  rw [hr]
  exact congrArg some (Blocks.beginNext_nil _ hw)

/-- R179: a failed commit write is an event with one raise. -/
theorem State.ended_commitLost (s : State) (cell : Nat) (hs : s.blocks.work = Work.empty)
    (hf : s.port.isInFlight cell = true) :
    (s.blocks.commitUndone.enterRaise .storeFault .device s.blocks.clock).After
      (s.ended (s.blocks.commitLost cell)).blocks := by
  refine Blocks.After.of_op s s.port _ _ (.raised .storeFault .device s.blocks.clock) rfl rfl ?_
    (s.blocks.commitLost_alarms cell hs) rfl rfl rfl
  rw [s.blocks.commitLost_answers cell hs]
  exact Port.writeAnswers_one _ _ _ hf

/-- A raise changes the alarm list, its mark and its counter alone. -/
theorem Blocks.enterRaise_eq (b : Blocks) (k : AlarmKind) (e : Element) (t : Clock) : ∃ xs m n,
    b.enterRaise k e t = { b with alarms := xs, overflow := m, alarmCounter := n } :=
  b.enterOp_eq (.raised k e t)

/-- Settles O59: a completed commit leaves Blocks.committed with the sweep and the first polls begun, and an event's
follow-ups have nothing to act on there; a failed one is an event with one raise. -/
theorem commitWriteEnds : Obligations.CommitWriteEnds := by
  unfold Obligations.CommitWriteEnds
  rintro cell s i hawake hset hr hc hf hw hforce rfl
  have hwork : s.blocks.work = Work.empty := eq_of_beq hset
  have hdone := exec_commitWriteEnd_done s cell hawake hwork hr hw
  have hlost := exec_commitWriteEnd_lost s cell hawake hr hw
  refine ⟨hdone, ?_, hlost, ?_⟩
  · rw [hdone]
    refine ⟨State.ended_answered s _ { cell := cell, outcome := .done, detail := .none } ?_ hf hc, ?_⟩
    · obtain ⟨k, hk, hans, -⟩ := s.blocks.commitDone_eq cell hwork
      rw [hk]
      exact hans
    obtain ⟨⟨m, w, us, p, q, _, e, -⟩, hm, hsweep, hlen, hunheard⟩ := s.blocks.committed_observed
    rw [s.blocks.committed_units_length] at hsweep hlen
    rw [e] at hm hsweep hlen hunheard
    rw [s.ended_commitDone cell hwork hf, e]
    refine ⟨rfl, rfl, rfl, hm, rfl, rfl, rfl, rfl, rfl, fun h => hsweep (s.blocks.committed_units_ne h), ?_, ?_, ?_,
      ?_, ?_, ?_, s.blocks.committed_areas, s.blocks.committed_holds, s.blocks.committed_routeRec, rfl, hlen,
      ?_, ?_, ?_, ?_⟩
    · exact (congrArg List.length s.blocks.committed_sections).trans List.length_replicate
    · intro r hmem
      rw [s.blocks.eq_fresh_of_mem_sections hmem]
      exact ⟨rfl, rfl, rfl, rfl, rfl, rfl, rfl⟩
    · exact (congrArg List.length s.blocks.committed_points).trans (List.length_map _)
    · intro v hmem
      obtain ⟨e, rfl⟩ := s.blocks.eq_fresh_of_mem_points hmem
      exact ⟨rfl, PointRec.fresh_detection e, rfl, rfl, rfl, rfl, rfl, rfl, rfl, rfl, rfl, rfl⟩
    · exact (congrArg List.length s.blocks.committed_signals).trans List.length_replicate
    · intro r hmem
      rw [s.blocks.eq_fresh_of_mem_signals hmem]
      exact ⟨rfl, rfl, rfl, rfl, rfl, rfl, rfl, rfl, rfl, rfl, rfl⟩
    · intro u hmem
      obtain ⟨hstate, hmiss, hgood, hstatus, hreply⟩ := hunheard s.blocks.committed_unheard u hmem
      exact ⟨hstate, hmiss, hgood, hstatus, hreply⟩
    · intro n l hl
      rw [LinkRec.start_some (s.blocks.committed_linkRec hl)]
      exact ⟨rfl, rfl, rfl, rfl, rfl, rfl, rfl⟩
    · exact fun n hn => s.blocks.committed_lineRec_isSome hn
    · intro n l hl
      obtain ⟨-, e, he, -, rfl⟩ := (s.blocks.committed_lineRec n l).mp hl
      exact ⟨e, he, rfl, rfl, rfl, rfl, rfl, rfl, rfl, rfl, rfl, rfl, rfl⟩
  · rw [hlost]
    have hafter := s.ended_commitLost cell hwork hf
    refine ⟨State.ended_answered s _ { cell := cell, outcome := .storeFault, detail := .none }
      (s.blocks.commitLost_answers cell hwork) hf hc, ?_, ?_, ?_, hafter⟩
    all_goals
      obtain ⟨xs, m, n, e⟩ := s.blocks.commitUndone.enterRaise_eq .storeFault .device s.blocks.clock
      rw [e] at hafter
    · exact hafter.kept.load
    · exact hafter.kept.inForce.trans hforce
    · intro hmode
      obtain ⟨-, hstored, -, hrunning, -⟩ := hafter.steady hmode
      exact ⟨by rw [hstored]; rfl, hrunning⟩

end Sys2Proof.Machine
end

section

namespace Sys2Proof.Machine

/-- Settles O10: one lemma for every event of a block (Blocks.After.of_event), whose answers are all written. -/
theorem eventsEndKeepsTheirEffect : Obligations.EventsEndKeepsTheirEffect := by
  unfold Obligations.EventsEndKeepsTheirEffect
  intro s p c hfree hflight hcells
  exact Blocks.After.of_event s p c hfree (Port.writeAnswers_fine _ _ _ hflight hcells)

/-! ### The timers of the element table -/

theorem Blocks.setOccupancy_of_rec (b : Blocks) (n : Nat) (o : Occupancy) (t : Clock) (c : Option Clock)
    (r : SectionRec) (h : b.sectionRec n = some r) (ho : r.occupancy ≠ o) :
    (b.setOccupancy n o t c).sections = b.sections.set n (r.withOccupancy o t c) := by
  obtain ⟨_, _, _, e⟩ := b.setOccupancy_eq n o t c r h ho
  rw [e]

theorem State.confirmationExpiry_next (s : State) (n : Nat) (t : Clock) (r : SectionRec) (hs : s.asleep = false)
    (hr : s.blocks.sectionRec n = some r) (ho : r.occupancy = .clearing) (hc : r.confirm = some t)
    (ht : Clock.reached s.blocks.clock t = true) :
    exec (.confirmationTimerExpiry n) s = .next (s.ended (s.blocks.setOccupancy n .clear t none)) := by
  refine State.event_next s (fun b => b.confirmationExpiry n) _ hs ?_
  unfold Blocks.confirmationExpiry
  rw [hr]
  dsimp only
  rw [hc]
  exact if_pos ⟨ho, ht⟩

theorem State.moveExpiry_next (s : State) (n : Nat) (t : Clock) (p : PointRec) (hs : s.asleep = false)
    (hp : s.blocks.pointRec n = some p) (hm : p.state = .moving) (hc : p.moveTimer = some t)
    (ht : Clock.reached s.blocks.clock t = true) :
    exec (.moveTimerExpiry n) s = .next (s.ended (s.blocks.moveTimeout n t)) := by
  refine State.event_next s (fun b => b.moveExpiry n) _ hs ?_
  unfold Blocks.moveExpiry
  rw [hp]
  dsimp only
  rw [hc]
  exact if_pos ⟨hm, ht⟩

end Sys2Proof.Machine
end

section

namespace Sys2Proof.Machine

/-- A change of a point leaves the draw counter and, but for the mirrors marked, the hand-offs. -/
theorem Blocks.updPoint_work (b : Blocks) (n : Nat) (f : PointRec → PointRec) :
    (∃ d, (b.updPoint n f).work = { b.work with dirty := d }) ∧ (b.updPoint n f).freeIndex = b.freeIndex := by
  obtain ⟨_, _, _, _, d, e⟩ := b.updPoint_frame n f
  rw [e]
  exact ⟨⟨d, rfl⟩, rfl⟩

/-- An answer to a cell that may be open. -/
theorem Blocks.answerOpt_eq (b : Blocks) (c : Option Nat) (o : CellOutcome) (d : Detail) : b.answerOpt c o d =
    { b with work := { b.work with
      answers := b.work.answers ++ c.toList.map (fun c => { cell := c, outcome := o, detail := d }) } } := by
  cases c with
  | none => simp [Blocks.answerOpt]
  | some c => rfl

/-- R31: the record of a point whose move limit has run out. -/
def PointRec.timedOut (p : PointRec) : PointRec := { p with state := .failed, moveTimer := none, pendingCall := none }

/-- R21: the record of a section that its confirmation timer makes CLEAR. -/
def SectionRec.confirmed (r : SectionRec) (t : Clock) : SectionRec :=
  { r with occupancy := .clear, identity := none, changedAt := t, confirm := none }

/-- R21: the blocks after a confirmation timer's expiry, but for what the event hands on. -/
theorem Blocks.setOccupancy_confirmed (b : Blocks) (n : Nat) (t : Clock) (r : SectionRec)
    (hr : b.sectionRec n = some r) (ho : r.occupancy = .clearing) : ∃ w,
    b.setOccupancy n .clear t none = { (b.withSection n (r.confirmed t)).markFreed with work := w } ∧
      w.answers = b.work.answers ∧ w.alarms = b.work.alarms ∧ w.freed = true ∧ w.tokenHeld = b.work.tokenHeld ∧
      w.halt = b.work.halt := by
  obtain ⟨d, ts, os, e⟩ := b.setOccupancy_eq n .clear t none r hr (by rw [ho]; decide)
  have hrec : r.withOccupancy .clear t none = r.confirmed t := by
    simp [SectionRec.withOccupancy, SectionRec.confirmed]
  rw [e, hrec, ho, if_neg (by decide), if_pos rfl]
  exact ⟨_, rfl, rfl, rfl, rfl, rfl, rfl⟩

/-- R31: the blocks after a move timer's expiry are those with the point FAILED, but for what the event hands on. -/
theorem Blocks.moveTimeout_eq (b : Blocks) (n : Nat) (t : Clock) (p : PointRec) (hp : b.pointRec n = some p) : ∃ w,
    b.moveTimeout n t = { b.updPoint n PointRec.timedOut with work := w } ∧
      w.answers = b.work.answers ++ p.pendingCall.toList.map (fun c =>
        { cell := c, outcome := .failed, detail := .element (.point n) .pointFailed 0 }) ∧
      w.alarms = b.work.alarms ++ [.raised .pointFailed (.point n) t] ∧ w.freed = b.work.freed ∧
      w.tokenHeld = b.work.tokenHeld ∧ w.halt = b.work.halt := by
  obtain ⟨⟨d, hd⟩, -⟩ := b.updPoint_work n PointRec.timedOut
  unfold Blocks.moveTimeout
  rw [hp]
  dsimp only
  rw [Blocks.answerOpt_eq]
  exact ⟨_, rfl, congrArg (·.answers ++ _) hd, congrArg (·.alarms ++ _) hd, congrArg (·.freed) hd,
    congrArg (·.tokenHeld) hd, congrArg (·.halt) hd⟩

/-- R21: a confirmation timer's expiry as an event. -/
theorem State.confirmationExpiry_ended (s : State) (n : Nat) (t : Clock) (r : SectionRec) (hs : s.blocks.work = Work.empty)
    (hr : s.blocks.sectionRec n = some r) (ho : r.occupancy = .clearing) :
    (s.ended (s.blocks.setOccupancy n .clear t none)).blocks.occupancy n = some .clear ∧
      (s.blocks.withSection n (r.confirmed t)).markFreed.After (s.ended (s.blocks.setOccupancy n .clear t none)).blocks := by
  obtain ⟨w, e, hans, hal, hfreed, htok, hhalt⟩ := s.blocks.setOccupancy_confirmed n t r hr ho
  have hafter : (s.blocks.withSection n (r.confirmed t)).markFreed.After
      (s.ended (s.blocks.setOccupancy n .clear t none)).blocks := by
    have key := State.ended_silent s (s.blocks.setOccupancy n .clear t none) (by rw [e]; rfl)
      (by rw [e]; exact hans.trans (by rw [hs]; rfl)) (by rw [e]; exact hal.trans (by rw [hs]; rfl))
    rw [e] at key ⊢
    exact key.of_work _ rfl (Blocks.quiet_congr rfl rfl rfl rfl hfreed.symm htok.symm hhalt.symm)
  refine ⟨?_, hafter⟩
  rw [hafter.kept.occupancy n]
  show ((s.blocks.sections.set n (r.confirmed t))[n]?).map _ = _
  rw [getElem?_set_map, if_pos rfl, show s.blocks.sections[n]? = some r from hr]
  rfl

/-- R31: a move timer's expiry as an event. -/
theorem State.moveExpiry_ended (s : State) (n : Nat) (t : Clock) (p : PointRec) (hs : s.blocks.work = Work.empty)
    (hp : s.blocks.pointRec n = some p) (hf : ∀ c, p.pendingCall = some c → s.port.isInFlight c = true) :
    ((s.blocks.updPoint n PointRec.timedOut).enterRaise .pointFailed (.point n) t).After
      (s.ended (s.blocks.moveTimeout n t)).blocks := by
  obtain ⟨w, e, hans, hal, hfreed, htok, hhalt⟩ := s.blocks.moveTimeout_eq n t p hp
  obtain ⟨⟨d, hd⟩, hfree⟩ := s.blocks.updPoint_work n PointRec.timedOut
  rw [hs] at hans hal hfreed htok hhalt hd
  refine Blocks.After.of_op s s.port _ _ (.raised .pointFailed (.point n) t) (by rw [e]) hfree ?_ (by rw [e]; exact hal)
    (by rw [e, hd]; exact hfreed) (by rw [e, hd]; exact htok) (by rw [e, hd]; exact hhalt)
  rw [e]
  show (Port.writeAnswers _ _ w.answers).2 = false
  rw [hans]
  cases hc : p.pendingCall with
  | none => rfl
  | some c => exact Port.writeAnswers_one _ _ _ (hf c hc)

/-- Settles O46: the timers are enabled at their expiry, and what they make of the blocks stands after the event. -/
theorem elementTimersExpire : Obligations.ElementTimersExpire := by
  unfold Obligations.ElementTimersExpire
  intro n t s hawake hset ht
  have hs : s.blocks.work = Work.empty := eq_of_beq hset
  refine ⟨fun r hr ho hc => ?_, fun p hp hm hc => ?_⟩
  · have hexec := s.confirmationExpiry_next n t r hawake hr ho hc ht
    refine ⟨hexec, ?_⟩
    rw [hexec]
    exact s.confirmationExpiry_ended n t r hs hr ho
  · have hexec := s.moveExpiry_next n t p hawake hp hm hc ht
    refine ⟨hexec, fun hcall => ?_, fun c hcall hc32 hflight => ?_⟩
    · rw [hexec]
      exact s.moveExpiry_ended n t p hs hp (fun c h => by rw [hcall] at h; cases h)
    · rw [hexec]
      refine ⟨State.ended_answered s _ { cell := c, outcome := .failed, detail := _ } ?_ hflight hc32,
        s.moveExpiry_ended n t p hs hp (fun d h => by rw [hcall] at h; cases h; exact hflight)⟩
      obtain ⟨w, e, hans, -⟩ := s.blocks.moveTimeout_eq n t p hp
      rw [e]
      show w.answers = _
      rw [hans, hs, hcall]
      rfl

end Sys2Proof.Machine
end

section

namespace Sys2Proof.Machine

/-! ### RESTORE SECTION (R156) -/

/-- R154: an operand that names an operation is of its code. -/
theorem Blocks.qualifiedOperand_code {b : Blocks} {q : Request} {op : Operation} {e : Element}
    (h : b.qualifiedOperand q = .ok (op, e)) : Operation.ofCode (q.field 28 1) = some op := by
  unfold Blocks.qualifiedOperand at h
  split at h
  · cases h
  · rename_i o ho
    rw [ho]
    (repeat' split at h) <;> cases h
    rfl

/-- R155: an EXECUTE that finds its entry armed runs its operation on the arm list without the entry. -/
theorem State.executing_next {s : State} {op : Operation} {q : Request} {e : Element} {a : ArmRec}
    (h : s.executing op q e a) (f : Blocks → Element → Nat → Blocks) :
    s.request (Request.executes op) (fun b q => b.execute q f) =
      .next (s.served (f (s.blocks.disarm a) e q.cell)) := by
  obtain ⟨⟨hawake, hq, hkind, -⟩, hop, ha, hearly, hlate⟩ := h
  have hmine : Request.executes op q = true := by
    simp [Request.executes, hkind, Blocks.qualifiedOperand_code hop]
  rw [State.request_next s _ _ q hawake hq hmine]
  have hrun : s.blocks.execute q f = f (s.blocks.disarm a) e q.cell := by
    unfold Blocks.execute
    rw [hop]
    dsimp only
    rw [show s.blocks.arms.find? (fun a => a.operation == op && a.target == e) = some a from ha]
    dsimp only
    rw [if_neg (Nat.not_lt.mpr hearly), if_pos hlate]
    rfl
  rw [hrun]
  rfl

/-- R24: the record of a section that is RESTORING from a time on. -/
def SectionRec.restoringFrom (r : SectionRec) (t : Clock) : SectionRec :=
  { r with occupancy := .restoring, changedAt := t, confirm := none }

/-- R24, R26: a DISTURBED section becomes RESTORING: the blocks, but for what is handed on. -/
theorem Blocks.setOccupancy_restoring (b : Blocks) (n : Nat) (t : Clock) (r : SectionRec)
    (hr : b.sectionRec n = some r) (ho : r.occupancy = .disturbed) : ∃ w,
    b.setOccupancy n .restoring t none = { b.withSection n (r.restoringFrom t) with work := w } ∧
      w.answers = b.work.answers ∧ w.alarms = b.work.alarms ++ [.ended .sectionDisturbed (.sec n) t] ∧
      w.freed = b.work.freed ∧ w.tokenHeld = b.work.tokenHeld ∧ w.halt = b.work.halt := by
  obtain ⟨d, ts, os, e⟩ := b.setOccupancy_eq n .restoring t none r hr (by rw [ho]; decide)
  have hrec : r.withOccupancy .restoring t none = r.restoringFrom t := by
    simp [SectionRec.withOccupancy, SectionRec.restoringFrom]
  rw [e, hrec, ho, if_pos rfl, if_neg (by decide)]
  exact ⟨_, rfl, rfl, rfl, rfl, rfl, rfl⟩

section

variable (b : Blocks) (e : Element) (cell : Nat) (k : SectionEntry) (r : SectionRec)
  (hk : b.sectionEntry e.number = some k) (hr : b.sectionRec e.number = some r)

include hk hr

/-- R156, precondition 1. -/
theorem Blocks.restoreSection_notCounted (h : k.kind ≠ .counted) :
    b.restoreSection e cell = b.answer cell .conflict (.precondition .notCounted) := by
  unfold Blocks.restoreSection
  rw [hk, hr]
  exact if_pos h

/-- R156, precondition 2. -/
theorem Blocks.restoreSection_notDisturbed (h : k.kind = .counted) (ho : r.occupancy ≠ .disturbed) :
    b.restoreSection e cell = b.answer cell .conflict (.precondition .notDisturbed) := by
  unfold Blocks.restoreSection
  rw [hk, hr]
  dsimp only
  rw [if_neg (not_not.mpr h), if_pos ho]
  rfl

/-- R156, precondition 3. -/
theorem Blocks.restoreSection_owned (h : k.kind = .counted) (ho : r.occupancy = .disturbed) (hfree : r.owner ≠ .free)
    (hrec : ∀ n, r.owner ≠ .reception n) :
    b.restoreSection e cell = b.answer cell .conflict (.element e .owned r.owner.code) := by
  unfold Blocks.restoreSection
  rw [hk, hr]
  dsimp only
  rw [if_neg (not_not.mpr h), if_neg (not_not.mpr ho)]
  cases how : r.owner with
  | free => exact absurd how hfree
  | reception n => exact absurd how (hrec n)
  | route n => rfl
  | overlap n => rfl
  | possession n => rfl

/-- R156, precondition 4 and the restoring. -/
theorem Blocks.restoreSection_free (h : k.kind = .counted) (ho : r.occupancy = .disturbed)
    (hfree : r.owner = .free ∨ ∃ n, r.owner = .reception n) : b.restoreSection e cell =
      if b.unitTrusted k.unit then (b.setOccupancy e.number .restoring b.clock none).answer cell .done .none
      else b.answer cell .conflict (.precondition .unitNotActive) := by
  unfold Blocks.restoreSection
  rw [hk, hr]
  dsimp only
  rw [if_neg (not_not.mpr h), if_neg (not_not.mpr ho)]
  obtain how | ⟨n, how⟩ := hfree
  all_goals
    rw [how]
    cases b.unitTrusted k.unit <;> rfl

end

/-- An EXECUTE answered in its event, its entry gone from the arm list. -/
theorem State.executing_answers {s : State} {op : Operation} {q : Request} {e : Element} {a : ArmRec}
    (h : s.executing op q e a) (o : CellOutcome) (d : Detail)
    (hrun : exec (executeRow op) s = .next (s.served ((s.blocks.disarm a).answer q.cell o d))) :
    s.serves (executeRow op) q (s.blocks.disarm a) o d := by
  have hwork := h.1.2.2.2.2.2
  refine ⟨hrun, ?_⟩
  rw [hrun]
  exact State.served_answer h.1 (s.blocks.disarm a) rfl (congrArg Work.answers hwork) (congrArg Work.alarms hwork) o d

/-- Settles O26: the preconditions one by one, each answered in its event; then the one end of a condition. -/
theorem restoreSectionRestores : Obligations.RestoreSectionRestores := by
  unfold Obligations.RestoreSectionRestores
  intro q s e a k r h hk hr
  have hwork : s.blocks.work = Work.empty := h.1.2.2.2.2.2
  change (s.blocks.disarm a).sectionEntry e.number = some k at hk
  change (s.blocks.disarm a).sectionRec e.number = some r at hr
  have hexec : exec .restoreSection s = .next (s.served ((s.blocks.disarm a).restoreSection e q.cell)) :=
    State.executing_next h Blocks.restoreSection
  refine ⟨fun hc => ?_, fun hc ho => ?_, fun hc ho hfree hrec => ?_, fun hc ho hfree => ?_⟩
  · exact State.executing_answers h _ _ (hexec.trans (by rw [Blocks.restoreSection_notCounted _ e _ k r hk hr hc]))
  · exact State.executing_answers h _ _ (hexec.trans (by rw [Blocks.restoreSection_notDisturbed _ e _ k r hk hr hc ho]))
  · exact State.executing_answers h _ _
      (hexec.trans (by rw [Blocks.restoreSection_owned _ e _ k r hk hr hc ho hfree hrec]))
  rw [Blocks.restoreSection_free _ e _ k r hk hr hc ho hfree] at hexec
  change exec .restoreSection s = .next (s.served (if s.blocks.unitTrusted k.unit then
    ((s.blocks.disarm a).setOccupancy e.number .restoring s.blocks.clock none).answer q.cell .done .none
    else (s.blocks.disarm a).answer q.cell .conflict (.precondition .unitNotActive))) at hexec
  refine ⟨fun ht => ?_, fun ht => ?_⟩
  · exact State.executing_answers h _ _ (hexec.trans (by rw [ht]; rfl))
  · rw [if_pos ht] at hexec
    refine ⟨hexec, ?_⟩
    rw [hexec]
    obtain ⟨w, hw, hans, hal, hfreed, htok, hhalt⟩ :=
      (s.blocks.disarm a).setOccupancy_restoring e.number s.blocks.clock r hr ho
    have key := State.served_op h.1 ((s.blocks.disarm a).withSection e.number (r.restoringFrom s.blocks.clock))
      (((s.blocks.disarm a).setOccupancy e.number .restoring s.blocks.clock none).answer q.cell .done .none)
      .done .none (.ended .sectionDisturbed (.sec e.number) s.blocks.clock) (by rw [hw]; rfl) rfl
      (by rw [hw]; show w.answers ++ _ = _; rw [hans]; show s.blocks.work.answers ++ _ = _; rw [hwork]; rfl)
      (by rw [hw]; show w.alarms = _; rw [hal]; show s.blocks.work.alarms ++ _ = _; rw [hwork]; rfl)
      (by rw [hw]; exact hfreed) (by rw [hw]; exact htok) (by rw [hw]; exact hhalt)
    refine ⟨key.1, ?_, key.2⟩
    rw [key.2.kept.occupancy]
    obtain ⟨xs, m, n, hend⟩ := Blocks.enterOp_eq ((s.blocks.disarm a).withSection e.number
      (r.restoringFrom s.blocks.clock)) (.ended .sectionDisturbed (.sec e.number) s.blocks.clock)
    rw [hend]
    show ((s.blocks.sections.set e.number (r.restoringFrom s.blocks.clock))[e.number]?).map _ = _
    rw [getElem?_set_map, if_pos rfl, show s.blocks.sections[e.number]? = some r from hr]
    rfl

end Sys2Proof.Machine
end

section

namespace Sys2Proof.Machine

/-! PROOF. Claim sets and release sets (R39 to R41): what an item makes of each record, and what a whole set makes of
it. -/

/-! ### Folds over the items of a set -/

/-- A record of the blocks that each step changes by itself is changed by a fold item by item. -/
theorem foldl_get {α ρ : Type} (get : Blocks → Option ρ) (g : Blocks → α → Blocks) (on : ρ → α → ρ)
    (h : ∀ b x, get (g b x) = (get b).map (on · x)) (l : List α) : ∀ b,
    get (l.foldl g b) = (get b).map (fun r => l.foldl on r) := by
  induction l with
  | nil => intro b; simp
  | cons x l ih =>
    intro b
    rw [List.foldl_cons, ih, h, Option.map_map]
    rfl

/-- A count that rises by one with each item that meets a condition. -/
theorem foldl_rise {α ρ : Type} (on : ρ → α → ρ) (f : ρ → Nat) (q : α → Bool)
    (h : ∀ r x, f (on r x) = f r + if q x then 1 else 0) (l : List α) : ∀ r, f (l.foldl on r) = f r + l.countP q := by
  induction l with
  | nil => intro r; rfl
  | cons x l ih =>
    intro r
    rw [List.foldl_cons, ih, h, List.countP_cons]
    omega

/-- A count that falls by one with each item that meets a condition. -/
theorem foldl_fall {α ρ : Type} (on : ρ → α → ρ) (f : ρ → Nat) (q : α → Bool)
    (h : ∀ r x, f (on r x) = f r - if q x then 1 else 0) (l : List α) : ∀ r, f (l.foldl on r) = f r - l.countP q := by
  induction l with
  | nil => intro r; rfl
  | cons x l ih =>
    intro r
    rw [List.foldl_cons, ih, h, List.countP_cons]
    omega

/-- A part of a record that each item that meets a condition sets to one value. -/
theorem foldl_const {α ρ β : Type} (on : ρ → α → ρ) (f : ρ → β) (q : α → Bool) (c : β) (l : List α)
    (h : ∀ x ∈ l, ∀ r, f (on r x) = if q x then c else f r) : ∀ r, f (l.foldl on r) = if l.any q then c else f r := by
  induction l with
  | nil => intro r; rfl
  | cons x l ih =>
    intro r
    rw [List.foldl_cons, ih (fun y hy => h y (List.mem_cons_of_mem x hy)), h x List.mem_cons_self, List.any_cons]
    cases q x <;> simp

/-- A record that each item that meets a condition changes by one idempotent function. -/
theorem foldl_idem {α ρ : Type} (on : ρ → α → ρ) (g : ρ → ρ) (q : α → Bool) (l : List α) (hg : ∀ r, g (g r) = g r)
    (h : ∀ x ∈ l, ∀ r, on r x = if q x then g r else r) : ∀ r, l.foldl on r = if l.any q then g r else r := by
  induction l with
  | nil => intro r; rfl
  | cons x l ih =>
    intro r
    rw [List.foldl_cons, ih (fun y hy => h y (List.mem_cons_of_mem x hy)), h x List.mem_cons_self, List.any_cons]
    cases q x <;> simp [hg]

/-! ### What an item does to each record -/

/-- R40: what a claim item makes of section n. -/
def ClaimItem.onSection (n : Nat) (r : SectionRec) (i : ClaimItem) : SectionRec :=
  match i.hold with
  | .sec m owner => if m = n then { r with owner := owner, passage := false, identity := i.identity.or r.identity } else r
  | _ => r

/-- R40: a point's record with one claim of a kind more. -/
def PointRec.withClaim (p : PointRec) (k : ClaimKind) (pos : Position) : PointRec :=
  { p.withCount k (· + 1) with claimed := some pos }

/-- R40: what a claim item makes of point n, but for the drive it may start. -/
def ClaimItem.onPoint (n : Nat) (p : PointRec) (i : ClaimItem) : PointRec :=
  match i.hold with
  | .point m k pos => if m = n then p.withClaim k pos else p
  | .pointPossession m => if m = n then { p with possessed := true } else p
  | _ => p

/-- R40: what a claim item makes of signal n. -/
def ClaimItem.onSignal (n : Nat) (r : SignalRec) (i : ClaimItem) : SignalRec :=
  match i.hold with
  | .signalEntry m slot => if m = n then { r with owningSlot := some slot } else r
  | .signalFlank m => if m = n then { r with flankCount := r.flankCount + 1 } else r
  | .signalPossession m => if m = n then { r with possessionCount := r.possessionCount + 1 } else r
  | _ => r

/-- R41: what a release item makes of section n. -/
def Hold.offSection (n : Nat) (r : SectionRec) (h : Hold) : SectionRec :=
  match h with
  | .sec m _ =>
    if m = n then
      { r with owner := .free, passage := false, identity := if r.occupancy = .clear then none else r.identity }
    else r
  | _ => r

/-- R41: what a release item makes of point n. -/
def Hold.offPoint (n : Nat) (p : PointRec) (h : Hold) : PointRec :=
  match h with
  | .point m k _ => if m = n then p.withoutClaim k else p
  | .pointPossession m => if m = n then { p with possessed := false } else p
  | _ => p

/-- R33: the record of a signal commanded to an aspect. -/
def SignalRec.commandedTo (r : SignalRec) (x : Aspect) : SignalRec :=
  if r.commanded = x then r
  else { r with commanded := x, proved := false, matchCount := 0, mismatchCount := 0, lampFault := false }

/-- R41: what a release item makes of signal n. -/
def Hold.offSignal (n : Nat) (r : SignalRec) (h : Hold) : SignalRec :=
  match h with
  | .signalEntry m _ => if m = n then { r.commandedTo .stop with owningSlot := none } else r
  | .signalFlank m => if m = n then { r with flankCount := r.flankCount - 1 } else r
  | .signalPossession m => if m = n then { r with possessionCount := r.possessionCount - 1 } else r
  | _ => r

/-- A point's record without what a drive and an overtaken call change of it. -/
def PointRec.still (p : PointRec) : PointRec :=
  { p with ref := none, state := .unknown, moveTimer := none, pendingCall := none }

/-! ### What touches only the element table -/

/-- Blocks d are blocks b but for the element records, the slots derived from them and what is handed on, and a failed
check stands. -/
structure Blocks.TableOnly (b d : Blocks) : Prop where
  frame : ∃ ss ps gs us x y w,
    d = { b with sections := ss, points := ps, signals := gs, units := us, busA := x, busB := y, work := w }
  halt : d.work.halt = b.work.halt

namespace Blocks.TableOnly

variable {a b c : Blocks}

theorem refl (b : Blocks) : TableOnly b b := ⟨⟨_, _, _, _, _, _, _, rfl⟩, rfl⟩

theorem trans (g : TableOnly a b) (h : TableOnly b c) : TableOnly a c := by
  obtain ⟨⟨_, _, _, _, _, _, _, rfl⟩, hg⟩ := g
  obtain ⟨⟨_, _, _, _, _, _, _, rfl⟩, hh⟩ := h
  exact ⟨⟨_, _, _, _, _, _, _, rfl⟩, hh.trans hg⟩

theorem foldl {α : Type} (g : Blocks → α → Blocks) (hg : ∀ b x, TableOnly b (g b x)) (l : List α) :
    ∀ b, TableOnly b (l.foldl g b) := by
  induction l with
  | nil => exact refl
  | cons x l ih => exact fun b => (hg b x).trans (ih _)

theorem updSection (b : Blocks) (n : Nat) (f : SectionRec → SectionRec) : TableOnly b (b.updSection n f) := by
  obtain ⟨_, _, e⟩ := b.updSection_frame n f
  rw [e]
  exact ⟨⟨_, _, _, _, _, _, _, rfl⟩, rfl⟩

theorem updPoint (b : Blocks) (n : Nat) (f : PointRec → PointRec) : TableOnly b (b.updPoint n f) := by
  obtain ⟨_, _, _, _, _, e⟩ := b.updPoint_frame n f
  rw [e]
  exact ⟨⟨_, _, _, _, _, _, _, rfl⟩, rfl⟩

theorem updSignal (b : Blocks) (n : Nat) (f : SignalRec → SignalRec) : TableOnly b (b.updSignal n f) := by
  obtain ⟨_, _, _, _, _, e⟩ := b.updSignal_frame n f
  rw [e]
  exact ⟨⟨_, _, _, _, _, _, _, rfl⟩, rfl⟩

theorem answerOpt (b : Blocks) (c : Option Nat) (o : CellOutcome) (d : Detail) : TableOnly b (b.answerOpt c o d) := by
  rw [Blocks.answerOpt_eq]
  exact ⟨⟨_, _, _, _, _, _, _, rfl⟩, rfl⟩

theorem endAlarm (b : Blocks) (k : AlarmKind) (e : Element) (t : Clock) : TableOnly b (b.endAlarm k e t) :=
  ⟨⟨_, _, _, _, _, _, _, rfl⟩, rfl⟩

theorem overtakeCall (b : Blocks) (n : Nat) : TableOnly b (b.overtakeCall n) := by
  unfold Blocks.overtakeCall
  split
  · exact refl b
  · exact (updPoint b n _).trans (answerOpt _ _ _ _)

theorem drive (b : Blocks) (n : Nat) (pos : Position) : TableOnly b (b.drive n pos).1 := by
  unfold Blocks.drive
  split
  · split
    · exact refl b
    · split
      · dsimp only
        split <;> split
        · exact ((updPoint b n _).trans (endAlarm _ _ _ _)).trans (endAlarm _ _ _ _)
        · exact (updPoint b n _).trans (endAlarm _ _ _ _)
        · exact (updPoint b n _).trans (endAlarm _ _ _ _)
        · exact updPoint b n _
      · exact refl b
  · exact refl b

theorem setCommanded (b : Blocks) (n : Nat) (x : Aspect) : TableOnly b (b.setCommanded n x) := by
  unfold Blocks.setCommanded
  split
  · exact refl b
  · split
    · exact refl b
    · dsimp only
      split
      · exact (updSignal b n _).trans (endAlarm _ _ _ _)
      · exact updSignal b n _

theorem applyPointClaim (b : Blocks) (n : Nat) (k : ClaimKind) (pos : Position) :
    TableOnly b (b.applyPointClaim n k pos) := by
  unfold Blocks.applyPointClaim
  split
  · exact refl b
  · dsimp only
    have step : ∀ c, TableOnly b c → TableOnly b
        (c.updPoint n (fun p => p.withClaim k pos)) :=
      fun c h => h.trans (updPoint c n _)
    split <;> split
    · exact (step _ (overtakeCall b n)).trans (drive _ _ _)
    · exact (step _ (refl b)).trans (drive _ _ _)
    · exact step _ (overtakeCall b n)
    · exact step _ (refl b)

theorem applyItem (b : Blocks) (i : ClaimItem) : TableOnly b (b.applyItem i) := by
  unfold Blocks.applyItem
  split
  · exact updSection b _ _
  · exact applyPointClaim b _ _ _
  · exact (overtakeCall b _).trans (updPoint _ _ _)
  · exact updSignal b _ _
  · exact updSignal b _ _
  · exact updSignal b _ _

theorem releaseItem (b : Blocks) (h : Hold) : TableOnly b (b.releaseItem h) := by
  unfold Blocks.releaseItem
  split
  · exact updSection b _ _
  · exact updPoint b _ _
  · exact updPoint b _ _
  · exact (setCommanded b _ _).trans (updSignal _ _ _)
  · exact updSignal b _ _
  · exact updSignal b _ _

end Blocks.TableOnly

/-! ### A change of one kind of record leaves the others -/

@[simp] theorem Blocks.updSection_points (b : Blocks) (n : Nat) (f : SectionRec → SectionRec) :
    (b.updSection n f).points = b.points := by
  obtain ⟨_, _, e⟩ := b.updSection_frame n f
  rw [e]

@[simp] theorem Blocks.updSection_signals (b : Blocks) (n : Nat) (f : SectionRec → SectionRec) :
    (b.updSection n f).signals = b.signals := by
  obtain ⟨_, _, e⟩ := b.updSection_frame n f
  rw [e]

@[simp] theorem Blocks.updPoint_sections (b : Blocks) (n : Nat) (f : PointRec → PointRec) :
    (b.updPoint n f).sections = b.sections := by
  obtain ⟨_, _, _, _, _, e⟩ := b.updPoint_frame n f
  rw [e]

@[simp] theorem Blocks.updPoint_signals (b : Blocks) (n : Nat) (f : PointRec → PointRec) :
    (b.updPoint n f).signals = b.signals := by
  obtain ⟨_, _, _, _, _, e⟩ := b.updPoint_frame n f
  rw [e]

@[simp] theorem Blocks.updSignal_sections (b : Blocks) (n : Nat) (f : SignalRec → SignalRec) :
    (b.updSignal n f).sections = b.sections := by
  obtain ⟨_, _, _, _, _, e⟩ := b.updSignal_frame n f
  rw [e]

@[simp] theorem Blocks.updSignal_points (b : Blocks) (n : Nat) (f : SignalRec → SignalRec) :
    (b.updSignal n f).points = b.points := by
  obtain ⟨_, _, _, _, _, e⟩ := b.updSignal_frame n f
  rw [e]

@[simp] theorem Blocks.answerOpt_sections (b : Blocks) (c : Option Nat) (o : CellOutcome) (d : Detail) :
    (b.answerOpt c o d).sections = b.sections := by rw [Blocks.answerOpt_eq]

@[simp] theorem Blocks.answerOpt_points (b : Blocks) (c : Option Nat) (o : CellOutcome) (d : Detail) :
    (b.answerOpt c o d).points = b.points := by rw [Blocks.answerOpt_eq]

@[simp] theorem Blocks.answerOpt_signals (b : Blocks) (c : Option Nat) (o : CellOutcome) (d : Detail) :
    (b.answerOpt c o d).signals = b.signals := by rw [Blocks.answerOpt_eq]

@[simp] theorem Blocks.overtakeCall_sections (b : Blocks) (n : Nat) : (b.overtakeCall n).sections = b.sections := by
  unfold Blocks.overtakeCall
  split <;> simp

@[simp] theorem Blocks.overtakeCall_signals (b : Blocks) (n : Nat) : (b.overtakeCall n).signals = b.signals := by
  unfold Blocks.overtakeCall
  split <;> simp

@[simp] theorem Blocks.drive_sections (b : Blocks) (n : Nat) (pos : Position) :
    (b.drive n pos).1.sections = b.sections := by
  unfold Blocks.drive
  (repeat' split) <;> simp [Blocks.endAlarm]

@[simp] theorem Blocks.drive_signals (b : Blocks) (n : Nat) (pos : Position) :
    (b.drive n pos).1.signals = b.signals := by
  unfold Blocks.drive
  (repeat' split) <;> simp [Blocks.endAlarm]

@[simp] theorem Blocks.setCommanded_sections (b : Blocks) (n : Nat) (x : Aspect) :
    (b.setCommanded n x).sections = b.sections := by
  unfold Blocks.setCommanded
  (repeat' split) <;> simp [Blocks.endAlarm]

@[simp] theorem Blocks.setCommanded_points (b : Blocks) (n : Nat) (x : Aspect) :
    (b.setCommanded n x).points = b.points := by
  unfold Blocks.setCommanded
  (repeat' split) <;> simp [Blocks.endAlarm]

theorem Blocks.sectionRec_congr {b d : Blocks} (h : d.sections = b.sections) (n : Nat) :
    d.sectionRec n = b.sectionRec n := by unfold Blocks.sectionRec; rw [h]

theorem Blocks.pointRec_congr {b d : Blocks} (h : d.points = b.points) (n : Nat) : d.pointRec n = b.pointRec n := by
  unfold Blocks.pointRec; rw [h]

theorem Blocks.signalRec_congr {b d : Blocks} (h : d.signals = b.signals) (n : Nat) :
    d.signalRec n = b.signalRec n := by unfold Blocks.signalRec; rw [h]

@[simp] theorem Blocks.applyPointClaim_sections (b : Blocks) (n : Nat) (k : ClaimKind) (pos : Position) :
    (b.applyPointClaim n k pos).sections = b.sections := by
  unfold Blocks.applyPointClaim
  split
  · rfl
  · dsimp only
    split <;> split <;> simp

@[simp] theorem Blocks.applyPointClaim_signals (b : Blocks) (n : Nat) (k : ClaimKind) (pos : Position) :
    (b.applyPointClaim n k pos).signals = b.signals := by
  unfold Blocks.applyPointClaim
  split
  · rfl
  · dsimp only
    split <;> split <;> simp

/-! ### Each record after an item -/

theorem Blocks.applyItem_sectionRec (n : Nat) (b : Blocks) (i : ClaimItem) :
    (b.applyItem i).sectionRec n = (b.sectionRec n).map (ClaimItem.onSection n · i) := by
  unfold Blocks.applyItem ClaimItem.onSection
  cases i.hold with
  | sec m owner =>
    dsimp only
    rw [Blocks.updSection_rec]
    by_cases e : m = n <;> simp [e]
  | point m k pos => simpa using Blocks.sectionRec_congr (by simp) n
  | pointPossession m => simpa using Blocks.sectionRec_congr (by simp) n
  | signalEntry m slot => simpa using Blocks.sectionRec_congr (by simp) n
  | signalFlank m => simpa using Blocks.sectionRec_congr (by simp) n
  | signalPossession m => simpa using Blocks.sectionRec_congr (by simp) n

theorem Blocks.applyItem_signalRec (n : Nat) (b : Blocks) (i : ClaimItem) :
    (b.applyItem i).signalRec n = (b.signalRec n).map (ClaimItem.onSignal n · i) := by
  unfold Blocks.applyItem ClaimItem.onSignal
  cases i.hold with
  | sec m owner => simpa using Blocks.signalRec_congr (by simp) n
  | point m k pos => simpa using Blocks.signalRec_congr (by simp) n
  | pointPossession m => simpa using Blocks.signalRec_congr (by simp) n
  | signalEntry m slot =>
    dsimp only
    rw [Blocks.updSignal_rec]
    by_cases e : m = n <;> simp [e]
  | signalFlank m =>
    dsimp only
    rw [Blocks.updSignal_rec]
    by_cases e : m = n <;> simp [e]
  | signalPossession m =>
    dsimp only
    rw [Blocks.updSignal_rec]
    by_cases e : m = n <;> simp [e]

theorem Blocks.setCommanded_rec (b : Blocks) (n m : Nat) (x : Aspect) :
    (b.setCommanded n x).signalRec m = (b.signalRec m).map (fun r => if n = m then r.commandedTo x else r) := by
  have hsame : ∀ c : Blocks, c.signals = b.signals → (∀ r, b.signalRec n = some r → r.commanded = x) →
      c.signalRec m = (b.signalRec m).map (fun r => if n = m then r.commandedTo x else r) := by
    intro c hc h
    rw [Blocks.signalRec_congr hc]
    cases hr : b.signalRec m with
    | none => rfl
    | some r =>
      by_cases e : n = m
      · subst e
        simp [SignalRec.commandedTo, h r hr]
      · simp [e]
  unfold Blocks.setCommanded
  split
  · rename_i hn
    exact hsame b rfl (fun r hr => by rw [hn] at hr; cases hr)
  · rename_i r hr
    split
    · rename_i hx
      exact hsame b rfl (fun r' hr' => by rw [hr] at hr'; cases hr'; exact hx)
    · rename_i hx
      have key : (b.updSignal n (fun r => { r with
          commanded := x, proved := false, matchCount := 0, mismatchCount := 0, lampFault := false })).signalRec m =
          (b.signalRec m).map (fun r => if n = m then r.commandedTo x else r) := by
        rw [Blocks.updSignal_rec]
        by_cases e : n = m
        · subst e
          simp [hr, SignalRec.commandedTo, hx]
        · simp [e]
      dsimp only
      split <;> exact key

theorem Blocks.releaseItem_sectionRec (n : Nat) (b : Blocks) (h : Hold) :
    (b.releaseItem h).sectionRec n = (b.sectionRec n).map (Hold.offSection n · h) := by
  unfold Blocks.releaseItem Hold.offSection
  cases h with
  | sec m owner =>
    dsimp only
    rw [Blocks.updSection_rec]
    by_cases e : m = n <;> simp [e]
  | point m k pos => simpa using Blocks.sectionRec_congr (by simp) n
  | pointPossession m => simpa using Blocks.sectionRec_congr (by simp) n
  | signalEntry m slot => simpa using Blocks.sectionRec_congr (by simp) n
  | signalFlank m => simpa using Blocks.sectionRec_congr (by simp) n
  | signalPossession m => simpa using Blocks.sectionRec_congr (by simp) n

theorem Blocks.releaseItem_pointRec (n : Nat) (b : Blocks) (h : Hold) :
    (b.releaseItem h).pointRec n = (b.pointRec n).map (Hold.offPoint n · h) := by
  unfold Blocks.releaseItem Hold.offPoint
  cases h with
  | sec m owner => simpa using Blocks.pointRec_congr (by simp) n
  | point m k pos =>
    dsimp only
    rw [Blocks.updPoint_rec]
    by_cases e : m = n <;> simp [e]
  | pointPossession m =>
    dsimp only
    rw [Blocks.updPoint_rec]
    by_cases e : m = n <;> simp [e]
  | signalEntry m slot => simpa using Blocks.pointRec_congr (by simp) n
  | signalFlank m => simpa using Blocks.pointRec_congr (by simp) n
  | signalPossession m => simpa using Blocks.pointRec_congr (by simp) n

theorem Blocks.releaseItem_signalRec (n : Nat) (b : Blocks) (h : Hold) :
    (b.releaseItem h).signalRec n = (b.signalRec n).map (Hold.offSignal n · h) := by
  unfold Blocks.releaseItem Hold.offSignal
  cases h with
  | sec m owner => simpa using Blocks.signalRec_congr (by simp) n
  | point m k pos => simpa using Blocks.signalRec_congr (by simp) n
  | pointPossession m => simpa using Blocks.signalRec_congr (by simp) n
  | signalEntry m slot =>
    dsimp only
    rw [Blocks.updSignal_rec, Blocks.setCommanded_rec]
    by_cases e : m = n <;> simp [e, Option.map_map, Function.comp_def]
  | signalFlank m =>
    dsimp only
    rw [Blocks.updSignal_rec]
    by_cases e : m = n <;> simp [e]
  | signalPossession m =>
    dsimp only
    rw [Blocks.updSignal_rec]
    by_cases e : m = n <;> simp [e]

/-- A change of a point's motion and of its pending call alone. -/
theorem Blocks.updPoint_still (b : Blocks) (n m : Nat) (f : PointRec → PointRec) (hf : ∀ p, (f p).still = p.still) :
    ((b.updPoint n f).pointRec m).map PointRec.still = (b.pointRec m).map PointRec.still := by
  rw [Blocks.updPoint_rec]
  by_cases e : n = m <;> simp [e, Option.map_map, Function.comp_def, hf]

theorem Blocks.overtakeCall_still (b : Blocks) (n m : Nat) :
    ((b.overtakeCall n).pointRec m).map PointRec.still = (b.pointRec m).map PointRec.still := by
  unfold Blocks.overtakeCall
  split
  · rfl
  · rw [Blocks.pointRec_congr (Blocks.answerOpt_points _ _ _ _)]
    exact Blocks.updPoint_still _ _ _ _ (fun _ => rfl)

theorem Blocks.drive_still (b : Blocks) (n m : Nat) (pos : Position) :
    ((b.drive n pos).1.pointRec m).map PointRec.still = (b.pointRec m).map PointRec.still := by
  unfold Blocks.drive
  split
  · rename_i e p _ _
    split
    · rfl
    · split
      · have key := Blocks.updPoint_still b n m (fun p => { p with
          ref := some pos, state := .moving, moveTimer := some (Clock.after b.clock (1000 * e.limit)) }) (fun _ => rfl)
        dsimp only
        split <;> split <;> exact key
      · rfl
  · rfl

theorem Blocks.applyPointClaim_still (b : Blocks) (n m : Nat) (k : ClaimKind) (pos : Position) :
    ((b.applyPointClaim n k pos).pointRec m).map PointRec.still = ((b.pointRec m).map PointRec.still).map
      (fun p => if n = m then p.withClaim k pos else p) := by
  have count : ∀ c : Blocks, (c.pointRec m).map PointRec.still = (b.pointRec m).map PointRec.still →
      ((c.updPoint n (fun p => p.withClaim k pos)).pointRec m).map PointRec.still =
        ((b.pointRec m).map PointRec.still).map
          (fun p => if n = m then p.withClaim k pos else p) := by
    intro c hc
    rw [Blocks.updPoint_rec, ← hc]
    have hk : ∀ p : PointRec, (p.withClaim k pos).still = p.still.withClaim k pos := by
      intro p
      cases k <;> rfl
    by_cases e : n = m <;> simp [e, Option.map_map, Function.comp_def, hk]
  unfold Blocks.applyPointClaim
  split
  · rename_i hn
    by_cases e : n = m
    · subst e; rw [hn]; rfl
    · simp [e, Function.comp_def]
  · dsimp only
    split <;> split
    · rw [Blocks.drive_still]; exact count _ (b.overtakeCall_still n m)
    · rw [Blocks.drive_still]; exact count _ rfl
    · exact count _ (b.overtakeCall_still n m)
    · exact count _ rfl

theorem Blocks.applyItem_pointRec (n : Nat) (b : Blocks) (i : ClaimItem) :
    ((b.applyItem i).pointRec n).map PointRec.still =
      ((b.pointRec n).map PointRec.still).map (ClaimItem.onPoint n · i) := by
  have same : ∀ d : Blocks, d.points = b.points →
      (d.pointRec n).map PointRec.still = ((b.pointRec n).map PointRec.still).map (fun p => p) := by
    intro d hd
    rw [Blocks.pointRec_congr hd, Option.map_id']
  unfold Blocks.applyItem ClaimItem.onPoint
  cases i.hold with
  | sec m owner => exact same _ (by simp)
  | point m k pos => exact b.applyPointClaim_still m n k pos
  | pointPossession m =>
    dsimp only
    rw [← b.overtakeCall_still m n, Blocks.updPoint_rec]
    by_cases e : m = n
    · simp only [e, if_true, Option.map_map, Function.comp_def]
      rfl
    · simp only [e, if_false, Option.map_map, Function.comp_def]
  | signalEntry m slot => exact same _ (by simp)
  | signalFlank m => exact same _ (by simp)
  | signalPossession m => exact same _ (by simp)

end Sys2Proof.Machine
end

section

namespace Sys2Proof.Machine

/-! ### One item and the parts of a record -/

/-- The count of a kind of claim on a point. -/
def PointRec.count (p : PointRec) : ClaimKind → Nat
  | .path => p.pathCount
  | .overlap => p.overlapCount
  | .flank => p.flankCount

theorem PointRec.withCount_count (p : PointRec) (j k : ClaimKind) (f : Nat → Nat) :
    (p.withCount j f).count k = if j = k then f (p.count k) else p.count k := by
  cases j <;> cases k <;> rfl

theorem PointRec.withClaim_count (p : PointRec) (j k : ClaimKind) (pos : Position) :
    (p.withClaim j pos).count k = p.count k + if j = k then 1 else 0 := by
  refine (p.withCount_count j k (· + 1)).trans ?_
  split <;> rfl

theorem PointRec.withoutClaim_count (p : PointRec) (j k : ClaimKind) :
    (p.withoutClaim j).count k = p.count k - if j = k then 1 else 0 := by
  have h : (p.withoutClaim j).count k = (p.withCount j (· - 1)).count k := by
    unfold PointRec.withoutClaim
    dsimp only
    split
    · cases k <;> rfl
    · rfl
  rw [h, p.withCount_count]
  split <;> rfl

theorem ClaimItem.onPoint_count (n : Nat) (k : ClaimKind) (p : PointRec) (i : ClaimItem) :
    (i.onPoint n p).count k = p.count k + if i.hold.ofPoint n k then 1 else 0 := by
  unfold ClaimItem.onPoint Hold.ofPoint
  cases i.hold with
  | point m j pos =>
    dsimp only
    by_cases e : m = n
    · simp [e, p.withClaim_count]
    · simp [e]
  | pointPossession m =>
    by_cases e : m = n
    · cases k <;> simp [e, PointRec.count]
    · simp [e]
  | _ => rfl

theorem Hold.offPoint_count (n : Nat) (k : ClaimKind) (p : PointRec) (h : Hold) :
    (h.offPoint n p).count k = p.count k - if h.ofPoint n k then 1 else 0 := by
  unfold Hold.offPoint Hold.ofPoint
  cases h with
  | point m j pos =>
    dsimp only
    by_cases e : m = n
    · simp [e, p.withoutClaim_count]
    · simp [e]
  | pointPossession m =>
    by_cases e : m = n
    · cases k <;> simp [e, PointRec.count]
    · simp [e]
  | _ => rfl

/-- A claim of any kind on a point. -/
def Hold.onPoint (n : Nat) : Hold → Bool
  | .point m _ _ => m = n
  | _ => false

theorem Hold.onPoint_eq (n : Nat) (h : Hold) :
    h.onPoint n = (h.ofPoint n .path || h.ofPoint n .overlap || h.ofPoint n .flank) := by
  cases h with
  | point m k pos => cases k <;> simp [Hold.onPoint, Hold.ofPoint]
  | _ => rfl

theorem Hold.onPoint_iff (n : Nat) (h : Hold) : h.onPoint n = true ↔ ∃ k x, h = .point n k x := by
  cases h <;> simp [Hold.onPoint]

theorem Hold.ofSection_iff (n : Nat) (h : Hold) : h.ofSection n = true ↔ ∃ o, h = .sec n o := by
  cases h <;> simp [Hold.ofSection]

theorem Hold.ofEntry_iff (n : Nat) (h : Hold) : h.ofEntry n = true ↔ ∃ k, h = .signalEntry n k := by
  cases h <;> simp [Hold.ofEntry]

theorem Hold.ofPoint_iff (n : Nat) (k : ClaimKind) (h : Hold) : h.ofPoint n k = true ↔ ∃ x, h = .point n k x := by
  cases h <;> simp [Hold.ofPoint]

theorem ClaimItem.onPoint_claimed (n : Nat) (p : PointRec) (i : ClaimItem) (x : Position)
    (h : ∀ k y, i.hold = .point n k y → y = x) :
    (i.onPoint n p).claimed = if i.hold.onPoint n then some x else p.claimed := by
  unfold ClaimItem.onPoint Hold.onPoint
  cases hi : i.hold with
  | point m k pos =>
    by_cases e : m = n
    · subst e
      simp [PointRec.withClaim, h k pos hi]
    · simp [e]
  | pointPossession m => by_cases e : m = n <;> simp [e]
  | _ => rfl

theorem ClaimItem.onPoint_possessed (n : Nat) (p : PointRec) (i : ClaimItem) :
    (i.onPoint n p).possessed = if i.hold = .pointPossession n then true else p.possessed := by
  unfold ClaimItem.onPoint
  cases i.hold with
  | point m k pos => by_cases e : m = n <;> cases k <;> simp [e, PointRec.withClaim, PointRec.withCount]
  | pointPossession m => by_cases e : m = n <;> simp [e]
  | _ => simp

/-- R40: a claim leaves a point's marks and its detection. -/
theorem ClaimItem.onPoint_marks (n : Nat) (p : PointRec) (i : ClaimItem) :
    ((i.onPoint n p).reminder, (i.onPoint n p).standing, (i.onPoint n p).detection) =
      (p.reminder, p.standing, p.detection) := by
  unfold ClaimItem.onPoint
  cases i.hold with
  | point m k pos => by_cases e : m = n <;> cases k <;> simp [e, PointRec.withClaim, PointRec.withCount]
  | pointPossession m => by_cases e : m = n <;> simp [e]
  | _ => rfl

theorem ClaimItem.onSignal_flankCount (n : Nat) (r : SignalRec) (i : ClaimItem) :
    (i.onSignal n r).flankCount = r.flankCount + if i.hold = .signalFlank n then 1 else 0 := by
  unfold ClaimItem.onSignal
  cases i.hold with
  | signalEntry m k => by_cases e : m = n <;> simp [e]
  | signalFlank m => by_cases e : m = n <;> simp [e]
  | signalPossession m => by_cases e : m = n <;> simp [e]
  | _ => simp

theorem ClaimItem.onSignal_possessionCount (n : Nat) (r : SignalRec) (i : ClaimItem) :
    (i.onSignal n r).possessionCount = r.possessionCount + if i.hold = .signalPossession n then 1 else 0 := by
  unfold ClaimItem.onSignal
  cases i.hold with
  | signalEntry m k => by_cases e : m = n <;> simp [e]
  | signalFlank m => by_cases e : m = n <;> simp [e]
  | signalPossession m => by_cases e : m = n <;> simp [e]
  | _ => simp

theorem ClaimItem.onSignal_owningSlot (n x : Nat) (r : SignalRec) (i : ClaimItem)
    (h : ∀ y, i.hold = .signalEntry n y → y = x) :
    (i.onSignal n r).owningSlot = if i.hold.ofEntry n then some x else r.owningSlot := by
  unfold ClaimItem.onSignal Hold.ofEntry
  cases hi : i.hold with
  | signalEntry m k =>
    by_cases e : m = n
    · subst e
      simp [h k hi]
    · simp [e]
  | signalFlank m => by_cases e : m = n <;> simp [e]
  | signalPossession m => by_cases e : m = n <;> simp [e]
  | _ => rfl

/-- R40: a claim leaves a signal's commanded and shown aspect and its proof. -/
theorem ClaimItem.onSignal_aspects (n : Nat) (r : SignalRec) (i : ClaimItem) :
    ((i.onSignal n r).commanded, (i.onSignal n r).shown, (i.onSignal n r).proved) =
      (r.commanded, r.shown, r.proved) := by
  unfold ClaimItem.onSignal
  cases i.hold with
  | signalEntry m k => by_cases e : m = n <;> simp [e]
  | signalFlank m => by_cases e : m = n <;> simp [e]
  | signalPossession m => by_cases e : m = n <;> simp [e]
  | _ => rfl

theorem ClaimItem.onSection_of_not (n : Nat) (r : SectionRec) (i : ClaimItem) (h : i.hold.ofSection n = false) :
    i.onSection n r = r := by
  unfold ClaimItem.onSection
  cases hi : i.hold with
  | sec m o =>
    rw [hi] at h
    exact if_neg (by simpa [Hold.ofSection] using h)
  | _ => rfl

theorem ClaimItem.onSection_sec (n : Nat) (o : Owner) (r : SectionRec) (i : ClaimItem) (h : i.hold = .sec n o) :
    i.onSection n r = { r with owner := o, passage := false, identity := i.identity.or r.identity } := by
  unfold ClaimItem.onSection
  rw [h]
  exact if_pos rfl

/-- R41: a section given back. -/
def SectionRec.freed (r : SectionRec) : SectionRec :=
  { r with owner := .free, passage := false, identity := if r.occupancy = .clear then none else r.identity }

theorem SectionRec.freed_freed (r : SectionRec) : r.freed.freed = r.freed := by
  simp only [SectionRec.freed, SectionRec.mk.injEq, true_and, and_true]
  split <;> rfl

theorem Hold.offSection_eq (n : Nat) (r : SectionRec) (h : Hold) :
    h.offSection n r = if h.ofSection n then r.freed else r := by
  unfold Hold.offSection Hold.ofSection
  cases h with
  | sec m o => by_cases e : m = n <;> simp [e, SectionRec.freed]
  | _ => rfl

theorem Hold.offPoint_possessed (n : Nat) (p : PointRec) (h : Hold) :
    (h.offPoint n p).possessed = if h = .pointPossession n then false else p.possessed := by
  unfold Hold.offPoint
  cases h with
  | point m k pos =>
    by_cases e : m = n
    · simp only [e, if_true, reduceCtorEq, if_false]
      unfold PointRec.withoutClaim
      cases k <;> dsimp only <;> split <;> rfl
    · simp [e]
  | pointPossession m => by_cases e : m = n <;> simp [e]
  | _ => simp

/-- R41: a release leaves a point's motion and its pending call. -/
theorem Hold.offPoint_motion (n : Nat) (p : PointRec) (h : Hold) :
    ((h.offPoint n p).state, (h.offPoint n p).ref, (h.offPoint n p).moveTimer, (h.offPoint n p).pendingCall) =
      (p.state, p.ref, p.moveTimer, p.pendingCall) := by
  unfold Hold.offPoint
  cases h with
  | point m k pos =>
    by_cases e : m = n
    · simp only [e, if_true]
      unfold PointRec.withoutClaim
      cases k <;> dsimp only <;> split <;> rfl
    · simp [e]
  | pointPossession m => by_cases e : m = n <;> simp [e]
  | _ => rfl

/-- The claims on a point, of every kind. -/
def PointRec.claims (p : PointRec) : Nat := p.pathCount + p.overlapCount + p.flankCount

theorem Hold.offPoint_claimed (n : Nat) (p : PointRec) (h : Hold) : (h.offPoint n p).claimed =
    if h.onPoint n ∧ (h.offPoint n p).claims = 0 then none else p.claimed := by
  unfold Hold.offPoint Hold.onPoint
  cases h with
  | point m k pos =>
    by_cases e : m = n
    · simp only [e, if_true, decide_true, true_and]
      unfold PointRec.withoutClaim PointRec.claims
      dsimp only
      split
      · rename_i hz
        rw [if_pos (by dsimp only; omega)]
      · rename_i hz
        rw [if_neg (by omega)]
        cases k <;> rfl
    · simp [e]
  | pointPossession m => by_cases e : m = n <;> simp [e]
  | _ => simp

theorem Hold.offSignal_flankCount (n : Nat) (r : SignalRec) (h : Hold) :
    (h.offSignal n r).flankCount = r.flankCount - if h = .signalFlank n then 1 else 0 := by
  unfold Hold.offSignal
  cases h with
  | signalEntry m k =>
    by_cases e : m = n
    · simp only [e, if_true]
      unfold SignalRec.commandedTo
      split <;> simp
    · simp [e]
  | signalFlank m => by_cases e : m = n <;> simp [e]
  | signalPossession m => by_cases e : m = n <;> simp [e]
  | _ => simp

theorem Hold.offSignal_possessionCount (n : Nat) (r : SignalRec) (h : Hold) :
    (h.offSignal n r).possessionCount = r.possessionCount - if h = .signalPossession n then 1 else 0 := by
  unfold Hold.offSignal
  cases h with
  | signalEntry m k =>
    by_cases e : m = n
    · simp only [e, if_true]
      unfold SignalRec.commandedTo
      split <;> simp
    · simp [e]
  | signalFlank m => by_cases e : m = n <;> simp [e]
  | signalPossession m => by_cases e : m = n <;> simp [e]
  | _ => simp

theorem Hold.offSignal_owningSlot (n : Nat) (r : SignalRec) (h : Hold) :
    (h.offSignal n r).owningSlot = if h.ofEntry n then none else r.owningSlot := by
  unfold Hold.offSignal Hold.ofEntry
  cases h with
  | signalEntry m k => by_cases e : m = n <;> simp [e]
  | signalFlank m => by_cases e : m = n <;> simp [e]
  | signalPossession m => by_cases e : m = n <;> simp [e]
  | _ => rfl

/-- What a change of a signal's commanded aspect sets back with it (R33). -/
def SignalRec.proof (r : SignalRec) : Aspect × Bool × Nat × Nat × Bool :=
  (r.commanded, r.proved, r.matchCount, r.mismatchCount, r.lampFault)

theorem Hold.offSignal_proof (n : Nat) (r : SignalRec) (h : Hold) :
    (h.offSignal n r).proof = if h.ofEntry n then (r.commandedTo .stop).proof else r.proof := by
  unfold Hold.offSignal Hold.ofEntry
  cases h with
  | signalEntry m k => by_cases e : m = n <;> simp [e, SignalRec.proof]
  | signalFlank m => by_cases e : m = n <;> simp [e, SignalRec.proof]
  | signalPossession m => by_cases e : m = n <;> simp [e, SignalRec.proof]
  | _ => rfl

end Sys2Proof.Machine
end

section

namespace Sys2Proof.Machine

/-! ### A whole claim set (R39, R40) -/

/-- R39, R40: a claim set is applied exactly when every item is available. -/
theorem Blocks.claim_ok_iff (b d : Blocks) (c : Claimant) (items : List ClaimItem) :
    b.claim c items = .ok d ↔ (∀ i ∈ items, b.unavailable i = none) ∧ d = b.applyClaim c items := by
  unfold Blocks.claim Blocks.checkClaim
  rw [← List.findSome?_eq_none_iff]
  split
  · rename_i f hf
    simp [hf]
  · rename_i hf
    simp [hf, eq_comm]

/-- R39: the first unavailable item of a claim set that is refused. -/
theorem Blocks.claim_error_iff (b : Blocks) (c : Claimant) (items : List ClaimItem) (f : Finding) :
    b.claim c items = .error f ↔ ∃ before i after, items = before ++ i :: after ∧
      (∀ x ∈ before, b.unavailable x = none) ∧ b.unavailable i = some f := by
  have h : b.claim c items = .error f ↔ items.findSome? b.unavailable = some f := by
    unfold Blocks.claim Blocks.checkClaim
    split <;> rename_i hf <;> simp [hf]
  rw [h, List.findSome?_eq_some_iff]
  exact ⟨fun ⟨x, i, y, e, hi, hx⟩ => ⟨x, i, y, e, hx, hi⟩, fun ⟨x, i, y, e, hx, hi⟩ => ⟨x, i, y, e, hi, hx⟩⟩

section

variable (b : Blocks) (c : Claimant) (items : List ClaimItem)

theorem Blocks.applyClaim_holds :
    (b.applyClaim c items).holds = b.holds ++ items.map (fun i => { claimant := c, hold := i.hold }) := by
  obtain ⟨⟨_, _, _, _, _, _, _, e⟩, -⟩ := Blocks.TableOnly.foldl Blocks.applyItem Blocks.TableOnly.applyItem items b
  unfold Blocks.applyClaim
  rw [e]

theorem Blocks.applyClaim_sectionRec (n : Nat) : (b.applyClaim c items).sectionRec n =
    (b.sectionRec n).map (fun r => items.foldl (ClaimItem.onSection n) r) :=
  foldl_get (Blocks.sectionRec · n) Blocks.applyItem (ClaimItem.onSection n) (Blocks.applyItem_sectionRec n) items b

theorem Blocks.applyClaim_signalRec (n : Nat) : (b.applyClaim c items).signalRec n =
    (b.signalRec n).map (fun r => items.foldl (ClaimItem.onSignal n) r) :=
  foldl_get (Blocks.signalRec · n) Blocks.applyItem (ClaimItem.onSignal n) (Blocks.applyItem_signalRec n) items b

theorem Blocks.applyClaim_pointRec (n : Nat) : ((b.applyClaim c items).pointRec n).map PointRec.still =
    ((b.pointRec n).map PointRec.still).map (fun p => items.foldl (ClaimItem.onPoint n) p) :=
  foldl_get (fun b => (Blocks.pointRec b n).map PointRec.still) Blocks.applyItem (ClaimItem.onPoint n)
    (Blocks.applyItem_pointRec n) items b

/-- R40: what a claim set applied makes of a section. -/
theorem Blocks.applyClaim_section {n : Nat} {r : SectionRec} {i : ClaimItem} {o : Owner} (hr : b.sectionRec n = some r)
    (hi : i ∈ items) (ho : i.hold = .sec n o) (hone : ∀ j ∈ items, ∀ x, j.hold = .sec n x → j = i) :
    (b.applyClaim c items).sectionRec n =
      some { r with owner := o, passage := false, identity := i.identity.or r.identity } := by
  rw [b.applyClaim_sectionRec, hr, Option.map_some,
    foldl_idem (ClaimItem.onSection n)
      (fun r => { r with owner := o, passage := false, identity := i.identity.or r.identity })
      (fun j => j.hold.ofSection n) items (fun r => by cases i.identity <;> rfl)]
  · rw [if_pos (List.any_eq_true.mpr ⟨i, hi, by rw [ho]; exact decide_eq_true rfl⟩)]
  · intro j hj r
    split
    · rename_i hs
      obtain ⟨x, hx⟩ := (Hold.ofSection_iff n j.hold).mp hs
      rw [hone j hj x hx]
      exact ClaimItem.onSection_sec n o r i ho
    · rename_i hs
      exact ClaimItem.onSection_of_not n r j (by simpa using hs)

/-- R40: the owner that a claim set gives a section. -/
theorem Blocks.applyClaim_owner {n : Nat} {r : SectionRec} {o : Owner} (hr : b.sectionRec n = some r)
    (hex : ∃ i ∈ items, i.hold = .sec n o) (hone : ∀ i ∈ items, ∀ x, i.hold = .sec n x → x = o) :
    ∃ v, (b.applyClaim c items).sectionRec n = some v ∧ v.owner = o ∧ v.passage = false ∧
      v.occupancy = r.occupancy := by
  have hon : ∀ i ∈ items, ∀ r : SectionRec,
      ((i.onSection n r).owner, (i.onSection n r).passage) =
        if i.hold.ofSection n then (o, false) else (r.owner, r.passage) := by
    intro i hi r
    split
    · rename_i hs
      obtain ⟨x, hx⟩ := (Hold.ofSection_iff n i.hold).mp hs
      rw [i.onSection_sec n x r hx, hone i hi x hx]
    · rename_i hs
      rw [i.onSection_of_not n r (by simpa using hs)]
  have hocc : ∀ i ∈ items, ∀ r : SectionRec, (i.onSection n r).occupancy = if false then .clear else r.occupancy := by
    intro i _ r
    unfold ClaimItem.onSection
    cases i.hold with
    | sec m o => by_cases e : m = n <;> simp [e]
    | _ => rfl
  have hany : items.any (fun i => i.hold.ofSection n) = true := by
    obtain ⟨i, hi, ho⟩ := hex
    exact List.any_eq_true.mpr ⟨i, hi, by rw [ho]; exact decide_eq_true rfl⟩
  have hfold := foldl_const (ClaimItem.onSection n) (fun r => (r.owner, r.passage)) (fun i => i.hold.ofSection n)
    (o, false) items hon r
  have hkeep := foldl_const (ClaimItem.onSection n) (·.occupancy) (fun _ => false) .clear items hocc r
  rw [if_pos hany, Prod.mk.injEq] at hfold
  refine ⟨_, ?_, hfold.1, hfold.2, ?_⟩
  · rw [b.applyClaim_sectionRec, hr]
    rfl
  · rw [hkeep, if_neg (by simp)]

theorem Blocks.applyClaim_section_unnamed {n : Nat} (h : ∀ i ∈ items, ∀ o, i.hold ≠ .sec n o) :
    (b.applyClaim c items).sectionRec n = b.sectionRec n := by
  rw [b.applyClaim_sectionRec]
  cases b.sectionRec n with
  | none => rfl
  | some r =>
    rw [Option.map_some, foldl_idem (ClaimItem.onSection n) id (fun _ => false) items (fun _ => rfl)]
    · rw [if_neg (by simp)]
    · intro i hi r
      refine i.onSection_of_not n r ?_
      rw [Bool.eq_false_iff]
      intro hs
      obtain ⟨o, ho⟩ := (Hold.ofSection_iff n i.hold).mp hs
      exact h i hi o ho

/-- R40: what a claim set applied makes of a point, but for the drives it starts. -/
theorem Blocks.applyClaim_point {n : Nat} {p : PointRec} (hp : b.pointRec n = some p) :
    ∃ v, (b.applyClaim c items).pointRec n = some v ∧
      (∀ k, v.count k = p.count k + items.countP (fun i => i.hold.ofPoint n k)) ∧
      (∀ x, (∀ i ∈ items, ∀ k y, i.hold = .point n k y → y = x) →
        v.claimed = if items.any (fun i => i.hold.onPoint n) then some x else p.claimed) ∧
      v.possessed = (if items.any (fun i => i.hold = .pointPossession n) then true else p.possessed) ∧
      v.reminder = p.reminder ∧ v.standing = p.standing ∧ v.detection = p.detection := by
  have h := b.applyClaim_pointRec c items n
  rw [hp, Option.map_some, Option.map_some] at h
  obtain ⟨v, hv, hs⟩ := Option.map_eq_some_iff.mp h
  refine ⟨v, hv, ?_, ?_, ?_, ?_⟩
  · intro k
    have := foldl_rise (ClaimItem.onPoint n) (·.count k) _ (ClaimItem.onPoint_count n k) items p.still
    rw [← hs] at this
    cases k <;> exact this
  · intro x hx
    have := foldl_const (ClaimItem.onPoint n) (·.claimed) (fun i => i.hold.onPoint n) (some x) items
      (fun i hi r => i.onPoint_claimed n r x (hx i hi)) p.still
    rwa [← hs] at this
  · have := foldl_const (ClaimItem.onPoint n) (·.possessed) (fun i => i.hold = .pointPossession n) true items
      (fun i hi r => (i.onPoint_possessed n r).trans (by simp)) p.still
    rwa [← hs] at this
  · have := foldl_const (ClaimItem.onPoint n) (fun p => (p.reminder, p.standing, p.detection)) (fun _ => false)
      (true, true, []) items (fun i _ r => i.onPoint_marks n r) p.still
    rw [← hs, if_neg (by simp), Prod.mk.injEq, Prod.mk.injEq] at this
    exact this

/-- R40: what a claim set applied makes of a signal. -/
theorem Blocks.applyClaim_signal {n : Nat} {r : SignalRec} (hr : b.signalRec n = some r) :
    ∃ v, (b.applyClaim c items).signalRec n = some v ∧
      v.flankCount = r.flankCount + items.countP (fun i => i.hold = .signalFlank n) ∧
      v.possessionCount = r.possessionCount + items.countP (fun i => i.hold = .signalPossession n) ∧
      (∀ x, (∀ i ∈ items, ∀ y, i.hold = .signalEntry n y → y = x) →
        v.owningSlot = if items.any (fun i => i.hold.ofEntry n) then some x else r.owningSlot) ∧
      v.commanded = r.commanded ∧ v.shown = r.shown ∧ v.proved = r.proved := by
  refine ⟨_, by rw [b.applyClaim_signalRec, hr]; rfl, ?_, ?_, ?_, ?_⟩
  · exact foldl_rise _ _ _ (fun r i => (i.onSignal_flankCount n r).trans (by simp)) items r
  · exact foldl_rise _ _ _ (fun r i => (i.onSignal_possessionCount n r).trans (by simp)) items r
  · intro x hx
    exact foldl_const _ (·.owningSlot) _ _ items (fun i hi r => i.onSignal_owningSlot n x r (hx i hi)) r
  · have := foldl_const (ClaimItem.onSignal n) (fun r => (r.commanded, r.shown, r.proved)) (fun _ => false)
      (.stop, .dark, false) items (fun i _ r => i.onSignal_aspects n r) r
    rw [if_neg (by simp), Prod.mk.injEq, Prod.mk.injEq] at this
    exact this

end

/-! ### A whole release set (R41) -/

section

variable (b : Blocks) (items : List Hold) (n : Nat)

theorem Blocks.releaseItems_section : (items.foldl Blocks.releaseItem b).sectionRec n =
    (b.sectionRec n).map (fun r => if items.any (Hold.ofSection n) then r.freed else r) := by
  rw [foldl_get (Blocks.sectionRec · n) Blocks.releaseItem (Hold.offSection n) (Blocks.releaseItem_sectionRec n)]
  refine congrArg (Option.map · (b.sectionRec n)) (funext fun r => ?_)
  exact foldl_idem (Hold.offSection n) SectionRec.freed (Hold.ofSection n) items SectionRec.freed_freed
    (fun h _ r => h.offSection_eq n r) r

theorem Blocks.releaseItems_pointRec : (items.foldl Blocks.releaseItem b).pointRec n =
    (b.pointRec n).map (fun p => items.foldl (Hold.offPoint n) p) :=
  foldl_get (Blocks.pointRec · n) Blocks.releaseItem (Hold.offPoint n) (Blocks.releaseItem_pointRec n) items b

theorem Blocks.releaseItems_signalRec : (items.foldl Blocks.releaseItem b).signalRec n =
    (b.signalRec n).map (fun r => items.foldl (Hold.offSignal n) r) :=
  foldl_get (Blocks.signalRec · n) Blocks.releaseItem (Hold.offSignal n) (Blocks.releaseItem_signalRec n) items b

end

theorem PointRec.claims_eq (p : PointRec) : p.claims = p.count .path + p.count .overlap + p.count .flank := rfl

/-- R41: the counts of a point after a release set. -/
theorem Hold.offPoints_count (n : Nat) (k : ClaimKind) (items : List Hold) (p : PointRec) :
    (items.foldl (Hold.offPoint n) p).count k = p.count k - items.countP (Hold.ofPoint n k) :=
  foldl_fall (Hold.offPoint n) (·.count k) _ (Hold.offPoint_count n k) items p

theorem Hold.offPoints_claims_le (n : Nat) (items : List Hold) (p : PointRec) :
    (items.foldl (Hold.offPoint n) p).claims ≤ p.claims := by
  simp only [PointRec.claims_eq, Hold.offPoints_count]
  omega

theorem Hold.offPoints_claims_same (n : Nat) (items : List Hold) (p : PointRec) (h : items.any (Hold.onPoint n) = false) :
    (items.foldl (Hold.offPoint n) p).claims = p.claims := by
  have hk : ∀ k, items.countP (Hold.ofPoint n k) = 0 := by
    intro k
    refine List.countP_eq_zero.mpr fun x hx hof => ?_
    obtain ⟨pos, rfl⟩ := (Hold.ofPoint_iff n k x).mp hof
    exact List.any_eq_false.mp h _ hx (decide_eq_true rfl)
  simp only [PointRec.claims_eq, Hold.offPoints_count, hk, Nat.sub_zero]

/-- R41: the claimed position after a release set: none once no claim is left. -/
theorem Hold.offPoints_claimed (n : Nat) (items : List Hold) : ∀ p : PointRec,
    (items.foldl (Hold.offPoint n) p).claimed =
      if items.any (Hold.onPoint n) ∧ (items.foldl (Hold.offPoint n) p).claims = 0 then none else p.claimed := by
  induction items with
  | nil => intro p; simp
  | cons h items ih =>
    intro p
    rw [List.foldl_cons, ih, h.offPoint_claimed, List.any_cons]
    have hle := Hold.offPoints_claims_le n items (h.offPoint n p)
    have hsame := Hold.offPoints_claims_same n items (h.offPoint n p)
    cases hany : items.any (Hold.onPoint n) with
    | true =>
      by_cases hz : (items.foldl (Hold.offPoint n) (h.offPoint n p)).claims = 0
      · simp [hz]
      · simp [hz, show (h.offPoint n p).claims ≠ 0 by omega]
    | false => simp [hsame hany]

/-- R41: what a release set makes of a point. -/
theorem Blocks.releaseItems_point (b : Blocks) (items : List Hold) {n : Nat} {p : PointRec} (hp : b.pointRec n = some p) :
    ∃ v, (items.foldl Blocks.releaseItem b).pointRec n = some v ∧
      (∀ k, v.count k = p.count k - items.countP (Hold.ofPoint n k)) ∧
      v.claimed = (if items.any (Hold.onPoint n) ∧ v.claims = 0 then none else p.claimed) ∧
      v.possessed = (if .pointPossession n ∈ items then false else p.possessed) ∧
      v.state = p.state ∧ v.ref = p.ref ∧ v.moveTimer = p.moveTimer ∧ v.pendingCall = p.pendingCall := by
  refine ⟨_, by rw [b.releaseItems_pointRec, hp]; rfl, fun k => Hold.offPoints_count n k items p,
    Hold.offPoints_claimed n items p, ?_, ?_⟩
  · have := foldl_const (Hold.offPoint n) (·.possessed) (fun h => h = .pointPossession n) false items
      (fun h _ r => (h.offPoint_possessed n r).trans (by simp)) p
    rw [this]
    simp
  · have := foldl_const (Hold.offPoint n) (fun p => (p.state, p.ref, p.moveTimer, p.pendingCall)) (fun _ => false)
      (.unknown, none, none, none) items (fun h _ r => h.offPoint_motion n r) p
    rw [if_neg (by simp), Prod.mk.injEq, Prod.mk.injEq, Prod.mk.injEq] at this
    exact this

theorem SignalRec.commandedTo_commanded (r : SignalRec) (x : Aspect) : (r.commandedTo x).commanded = x := by
  unfold SignalRec.commandedTo
  split
  · assumption
  · rfl

/-- R41: what a release set makes of a signal's aspect and of what goes with it. -/
theorem Hold.offSignals_proof (n : Nat) (items : List Hold) : ∀ r : SignalRec,
    (items.foldl (Hold.offSignal n) r).proof =
      if items.any (Hold.ofEntry n) then (r.commandedTo .stop).proof else r.proof := by
  have congr : ∀ r v : SignalRec, r.proof = v.proof → (r.commandedTo .stop).proof = (v.commandedTo .stop).proof := by
    intro r v h
    have hc : r.commanded = v.commanded := congrArg Prod.fst h
    unfold SignalRec.commandedTo
    rw [hc]
    split
    · exact h
    · rfl
  have idem : ∀ r : SignalRec, (r.commandedTo .stop).commandedTo .stop = r.commandedTo .stop := by
    intro r
    rw [SignalRec.commandedTo, if_pos (r.commandedTo_commanded .stop)]
  induction items with
  | nil => intro r; rfl
  | cons h items ih =>
    intro r
    have hstep := h.offSignal_proof n r
    rw [List.foldl_cons, ih, List.any_cons]
    cases hh : h.ofEntry n with
    | true =>
      rw [hh, if_pos rfl] at hstep
      rw [congr _ _ hstep, idem, hstep]
      simp
    | false =>
      rw [hh, if_neg (by simp)] at hstep
      rw [congr _ _ hstep, hstep]
      simp

/-- R41: what a release set makes of a signal. -/
theorem Blocks.releaseItems_signal (b : Blocks) (items : List Hold) {n : Nat} {r : SignalRec}
    (hr : b.signalRec n = some r) :
    ∃ v, (items.foldl Blocks.releaseItem b).signalRec n = some v ∧
      v.flankCount = r.flankCount - items.countP (fun h => h = .signalFlank n) ∧
      v.possessionCount = r.possessionCount - items.countP (fun h => h = .signalPossession n) ∧
      v.owningSlot = (if items.any (Hold.ofEntry n) then none else r.owningSlot) ∧
      v.proof = (if items.any (Hold.ofEntry n) then (r.commandedTo .stop).proof else r.proof) := by
  refine ⟨_, by rw [b.releaseItems_signalRec, hr]; rfl, ?_, ?_, ?_, Hold.offSignals_proof n items r⟩
  · exact foldl_fall _ _ _ (fun r h => (h.offSignal_flankCount n r).trans (by simp)) items r
  · exact foldl_fall _ _ _ (fun r h => (h.offSignal_possessionCount n r).trans (by simp)) items r
  · exact foldl_const _ (·.owningSlot) _ none items (fun h _ r => h.offSignal_owningSlot n r) r

/-! ### What makes an item unavailable (R39) -/

theorem SectionRec.unavailable_eq (r : SectionRec) (o : Owner) (c : OccupancyCondition) : r.unavailable o c =
    if o.isPossession then (if r.owner = .free then none else some .owned)
    else if r.owner.isPossession then some .possessed
    else if r.owner ≠ .free then some .owned
    else if (r.reminder || r.standing) && !o.isOverlap then some .restricted
    else if c = .any ∨ r.occupancy = .clear ∨ (c = .sweep ∧ r.occupancy = .restoring) then none
    else if r.occupancy = .occupied ∨ r.occupancy = .clearing then some .occupied
    else some .disturbed := by
  have hmet : (if c.metBy r.occupancy then none else some r.occupancy.reason) =
      if c = .any ∨ r.occupancy = .clear ∨ (c = .sweep ∧ r.occupancy = .restoring) then none
      else if r.occupancy = .occupied ∨ r.occupancy = .clearing then some Reason.occupied
      else some .disturbed := by
    cases c <;> cases r.occupancy <;> rfl
  unfold SectionRec.unavailable
  rw [hmet]
  cases o <;> cases r.owner <;> simp [Owner.isPossession, Owner.isOverlap]

theorem PointRec.unavailable_eq (p : PointRec) (k : ClaimKind) (pos : Position) (o : Option Occupancy) :
    p.unavailable k pos o =
    if p.possessed = true then some .possessed
    else if p.claimed ≠ none ∧ p.claimed ≠ some pos then some .oppositePosition
    else if k = .flank ∧ 8 ≤ p.flankCount then some .owned
    else if p.ref = some pos ∧ (p.state = .atRest ∨ p.state = .moving) then none
    else if p.reminder = true ∨ p.standing = true then some .restricted
    else if o = some .occupied ∨ o = some .clearing then some .occupied
    else if o = some .disturbed then some .disturbed
    else none := by
  have hneeds : p.needsMove pos = true ↔ ¬ (p.ref = some pos ∧ (p.state = .atRest ∨ p.state = .moving)) := by
    simp [PointRec.needsMove, imp_iff_not_or]
  unfold PointRec.unavailable
  simp only [hneeds, ite_not, Bool.and_eq_true, Bool.or_eq_true, bne_iff_ne, Option.isSome_iff_ne_none]

theorem SignalRec.unavailableAsEntry_eq (r : SignalRec) : r.unavailableAsEntry =
    if 0 < r.possessionCount then some .possessed
    else if r.owningSlot ≠ none ∨ 0 < r.flankCount then some .owned
    else if r.reminder = true ∨ r.standing = true then some .restricted
    else none := by
  unfold SignalRec.unavailableAsEntry
  simp only [gt_iff_lt, Option.isSome_iff_ne_none, Bool.or_eq_true]

end Sys2Proof.Machine
end

section

namespace Sys2Proof.Machine

/-! ### Claim sets and release sets, whole or not at all -/

/-- R40: a claim set applied. -/
theorem Blocks.claim_applied (b : Blocks) (c : Claimant) (items : List ClaimItem) (d : Blocks)
    (h : b.claim c items = .ok d) : (∀ i ∈ items, b.unavailable i = none) ∧ d = b.applyClaim c items :=
  (b.claim_ok_iff d c items).mp h

/-- R39: an available section has its record. -/
theorem Blocks.sectionRec_of_available {b : Blocks} {i : ClaimItem} {n : Nat} {o : Owner}
    (h : b.unavailable i = none) (hi : i.hold = .sec n o) : ∃ r, b.sectionRec n = some r := by
  unfold Blocks.unavailable at h
  rw [hi] at h
  cases hr : b.sectionRec n with
  | none => simp [hr] at h
  | some r => exact ⟨r, rfl⟩

/-- R41: a release set of its owner's holds, applied. -/
theorem Blocks.release_applied (b : Blocks) (c : Claimant) (items : List Hold) (h : b.hasHolds c items) :
    ∃ ks, b.release c items = { items.foldl Blocks.releaseItem b with holds := ks }.markFreed ∧
      b.GivesBack (b.release c items) c items := by
  obtain ⟨ks, e, hks⟩ := Blocks.release_of_hasHolds h
  exact ⟨ks, e, by rw [e]; exact hks⟩

/-- R41: a release set with an item that is no hold of its owner is not applied. -/
theorem Blocks.release_refused (b : Blocks) (c : Claimant) (items : List Hold) (h : ¬ b.hasHolds c items) :
    b.release c items = b.failCheck := by
  unfold Blocks.release
  split
  · rename_i ks hk
    exact absurd ((takeHolds_isSome c items b.holds).mp (by rw [hk]; rfl)) h
  · rfl

/-- Settles O31: the table of R39 item by item, and what a whole set makes of every record. -/
theorem claimSetsAreAppliedWhole : Obligations.ClaimSetsAreAppliedWhole := by
  unfold Obligations.ClaimSetsAreAppliedWhole
  refine ⟨fun b c items => ⟨fun f => b.claim_error_iff c items f, fun d hd => ?_⟩, fun b n c x => ?_,
    fun b c items => ⟨fun h => ?_, fun h d hd => ?_⟩⟩
  · obtain ⟨hav, rfl⟩ := b.claim_applied c items d hd
    refine ⟨hav, b.applyClaim_holds c items, fun n o hex hone => ?_, fun n h => b.applyClaim_section_unnamed c items h,
      fun n r hr i hi o ho hone => b.applyClaim_section c items hr hi ho hone, fun n p hp => ?_, fun n r hr => ?_⟩
    · obtain ⟨i, hi, ho⟩ := hex
      obtain ⟨r, hr⟩ := Blocks.sectionRec_of_available (hav i hi) ho
      obtain ⟨v, hv, howner, hpass, hocc⟩ := b.applyClaim_owner c items hr ⟨i, hi, ho⟩ hone
      exact ⟨v, hv, howner, hpass, by rw [hr, hocc]; rfl⟩
    · obtain ⟨v, hv, hcount, hclaimed, hposs, hmarks⟩ := b.applyClaim_point c items hp
      refine ⟨v, hv, hcount .path, hcount .overlap, hcount .flank, fun x hex hone => ?_, fun hno => ?_, ?_, hmarks⟩
      · rw [hclaimed x hone, if_pos]
        obtain ⟨i, hi, k, hk⟩ := hex
        exact List.any_eq_true.mpr ⟨i, hi, (Hold.onPoint_iff n i.hold).mpr ⟨k, x, hk⟩⟩
      · rw [hclaimed .normal (fun i hi k y hk => absurd hk (hno i hi k y)), if_neg]
        rw [Bool.not_eq_true, List.any_eq_false]
        intro i hi hon
        obtain ⟨k, y, hk⟩ := (Hold.onPoint_iff n i.hold).mp hon
        exact hno i hi k y hk
      · rw [hposs]
        simp only [List.any_eq_true, decide_eq_true_eq]
        split
        · exact iff_of_true rfl (.inr ‹_›)
        · exact ⟨.inl, fun h => h.resolve_right ‹_›⟩
    · obtain ⟨v, hv, hflank, hposs, hslot, haspects⟩ := b.applyClaim_signal c items hr
      refine ⟨v, hv, hflank, hposs, fun x hex hone => ?_, fun hno => ?_, haspects⟩
      · rw [hslot x hone, if_pos]
        obtain ⟨i, hi, hk⟩ := hex
        exact List.any_eq_true.mpr ⟨i, hi, (Hold.ofEntry_iff n i.hold).mpr ⟨x, hk⟩⟩
      · rw [hslot 0 (fun i hi y hk => absurd hk (hno i hi y)), if_neg]
        rw [Bool.not_eq_true, List.any_eq_false]
        intro i hi hon
        obtain ⟨k, hk⟩ := (Hold.ofEntry_iff n i.hold).mp hon
        exact hno i hi k hk
  · refine ⟨fun r o hr => ?_, fun p e k pos hp he => ?_, fun p hp => ?_, fun r hr => ⟨fun k => ?_, ?_, ?_⟩⟩
    · simp only [Blocks.unavailable, hr, r.unavailable_eq]
      rfl
    · simp only [Blocks.unavailable, hp, he, Option.bind_some, p.unavailable_eq]
      rfl
    · simp only [Blocks.unavailable, hp]
      congr 1
      unfold PointRec.unavailableToPossession
      split
      · rw [if_neg (by omega)]
      · rw [if_pos (by omega)]
    · simp only [Blocks.unavailable, hr, r.unavailableAsEntry_eq]
      rfl
    · simp only [Blocks.unavailable, hr, SignalRec.unavailableAsFlank, Option.isSome_iff_ne_none]
      rfl
    · simp only [Blocks.unavailable, hr, SignalRec.unavailableToPossession, Option.isSome_iff_ne_none]
      rfl
  · rw [b.release_refused c items h]
    exact ⟨rfl, fun s => State.ended_halt s _ rfl⟩
  · obtain ⟨ks, e, hgives⟩ := b.release_applied c items h
    subst hd
    have hsec : ∀ n, (b.release c items).sectionRec n =
        (b.sectionRec n).map (fun r => if items.any (Hold.ofSection n) then r.freed else r) := by
      intro n
      rw [e]
      exact b.releaseItems_section items n
    refine ⟨hgives, by rw [e]; rfl, fun n => ?_, fun n r hr => ?_, fun n p hp => ?_, fun n r hr => ?_⟩
    · unfold Blocks.occupancy
      rw [hsec, Option.map_map]
      refine congrArg (Option.map · (b.sectionRec n)) (funext fun r => ?_)
      show (if items.any (Hold.ofSection n) then r.freed else r).occupancy = r.occupancy
      split <;> rfl
    · rw [hsec, hr]
      rfl
    · obtain ⟨v, hv, hcount, hclaimed, hposs, hmotion⟩ := b.releaseItems_point items hp
      refine ⟨v, by rw [e]; exact hv, hcount .path, hcount .overlap, hcount .flank, ?_, hposs, hmotion⟩
      rw [hclaimed]
      simp only [funext (Hold.onPoint_eq n)]
      rfl
    · obtain ⟨v, hv, hflank, hposs, hslot, hproof⟩ := b.releaseItems_signal items hr
      refine ⟨v, by rw [e]; exact hv, hflank, hposs, hslot, ?_, fun hne => ?_⟩
      · have hc : v.commanded = v.proof.1 := rfl
        rw [hc, hproof]
        split
        · exact r.commandedTo_commanded .stop
        · rfl
      · cases hany : items.any (Hold.ofEntry n) with
        | false =>
          rw [hany] at hproof
          exact absurd (congrArg Prod.fst hproof) hne
        | true =>
          rw [hany, if_pos rfl] at hproof
          have hcmd : r.commanded ≠ .stop := by
            intro hs
            apply hne
            rw [show v.commanded = v.proof.1 from rfl, hproof, hs]
            exact r.commandedTo_commanded .stop
          rw [SignalRec.commandedTo, if_neg hcmd] at hproof
          simp only [SignalRec.proof, Prod.mk.injEq] at hproof
          exact hproof.2

end Sys2Proof.Machine
end

section

namespace Sys2Proof.Machine

/-! PROOF. Every step keeps the claims shown and the signals guarded (R38 to R41, R56). First: the operations that touch
neither a claim nor what guards a signal. -/

/-! ### What the claims and the guard of the signals are read from -/

/-- What the holds of R41 show of a point. -/
def PointRec.claimView (p : PointRec) : Nat × Nat × Nat × Option Position × Bool :=
  (p.pathCount, p.overlapCount, p.flankCount, p.claimed, p.possessed)

/-- What the holds of R41 show of a signal, and its commanded aspect. -/
def SignalRec.claimView (r : SignalRec) : Aspect × Option Nat × Nat × Nat :=
  (r.commanded, r.owningSlot, r.flankCount, r.possessionCount)

/-- What R56 and R73 read of a Route Set entry. -/
def RouteRec.claimView (r : RouteRec) : Nat × RouteState × Nat := (r.route, r.state, r.released)

/-- Blocks d show the same claims as blocks b, and the same of the Route Set entries that guard a signal. -/
structure Blocks.SameClaims (b d : Blocks) : Prop where
  inForce : d.inForce = b.inForce
  areas : d.areas = b.areas
  holds : d.holds = b.holds
  sections : d.sections.map SectionRec.owner = b.sections.map SectionRec.owner
  points : d.points.map PointRec.claimView = b.points.map PointRec.claimView
  signals : d.signals.map SignalRec.claimView = b.signals.map SignalRec.claimView
  routes : d.routes.map (Option.map RouteRec.claimView) = b.routes.map (Option.map RouteRec.claimView)

/-- Blocks d follow from blocks b by operations that change no claim: the same claims, not in HALTED where b is not, and
a failed check stands. -/
structure Blocks.Neutral (b d : Blocks) : Prop extends Blocks.SameClaims b d where
  awake : b.mode ≠ .halted → d.mode ≠ .halted
  halt : b.work.halt = true → d.work.halt = true

theorem Blocks.SameClaims.trans {a b c : Blocks} (g : Blocks.SameClaims a b) (h : Blocks.SameClaims b c) :
    Blocks.SameClaims a c :=
  ⟨h.inForce.trans g.inForce, h.areas.trans g.areas, h.holds.trans g.holds, h.sections.trans g.sections,
    h.points.trans g.points, h.signals.trans g.signals, h.routes.trans g.routes⟩

namespace Blocks.Neutral

variable {a b c : Blocks}

theorem refl (b : Blocks) : Neutral b b := ⟨⟨rfl, rfl, rfl, rfl, rfl, rfl, rfl⟩, id, id⟩

theorem trans (g : Neutral a b) (h : Neutral b c) : Neutral a c :=
  ⟨g.toSameClaims.trans h.toSameClaims, h.awake ∘ g.awake, h.halt ∘ g.halt⟩

theorem foldl {α : Type} (g : Blocks → α → Blocks) (hg : ∀ b x, Neutral a b → Neutral a (g b x)) (l : List α) :
    ∀ b, Neutral a b → Neutral a (l.foldl g b) := by
  induction l with
  | nil => exact fun _ h => h
  | cons x l ih => exact fun _ h => ih _ (hg _ _ h)

/-- Blocks that differ from neutral ones in nothing that matters. -/
theorem of_eq (h : Neutral a b) (d : Blocks) (hw : d.work.halt = b.work.halt)
    (hd : d = { d with
      inForce := b.inForce, areas := b.areas, holds := b.holds, sections := b.sections, points := b.points
      signals := b.signals, routes := b.routes, mode := b.mode }) : Neutral a d := by
  rw [hd]
  exact { h with halt := fun q => hw.trans (h.halt q) }

/-! ### Hand-offs -/

@[simp] theorem mark (r : MirrorRec) (h : Neutral a b) : Neutral a (b.mark r) := h.of_eq _ rfl rfl

@[simp] theorem raiseAlarm (k : AlarmKind) (e : Element) (t : Clock) (h : Neutral a b) :
    Neutral a (b.raiseAlarm k e t) := h.of_eq _ rfl rfl

@[simp] theorem endAlarm (k : AlarmKind) (e : Element) (t : Clock) (h : Neutral a b) :
    Neutral a (b.endAlarm k e t) := h.of_eq _ rfl rfl

@[simp] theorem markFreed (h : Neutral a b) : Neutral a b.markFreed := h.of_eq _ rfl rfl

@[simp] theorem failCheck (h : Neutral a b) : Neutral a b.failCheck := { h with halt := fun _ => rfl }

@[simp] theorem answer (c : Nat) (o : CellOutcome) (d : Detail) (h : Neutral a b) : Neutral a (b.answer c o d) :=
  h.of_eq _ rfl rfl

@[simp] theorem answerOpt (c : Option Nat) (o : CellOutcome) (d : Detail) (h : Neutral a b) :
    Neutral a (b.answerOpt c o d) := by
  rw [Blocks.answerOpt_eq]
  exact h.of_eq _ rfl rfl

@[simp] theorem clearNotices (h : Neutral a b) : Neutral a b.clearNotices := h.of_eq _ rfl rfl

@[simp] theorem clearFreed (h : Neutral a b) : Neutral a b.clearFreed := h.of_eq _ rfl rfl

@[simp] theorem noticeTokenHeld (h : Neutral a b) : Neutral a b.noticeTokenHeld := h.of_eq _ rfl rfl

@[simp] theorem setWaiting (x : List WaitingRec) (h : Neutral a b) : Neutral a { b with waiting := x } :=
  h.of_eq _ rfl rfl

@[simp] theorem setFailures (x : List Nat) (h : Neutral a b) :
    Neutral a { b with work := { b.work with failures := x } } := h.of_eq _ rfl rfl

@[simp] theorem setSent (x : List Sent) (h : Neutral a b) : Neutral a { b with work := { b.work with sent := x } } :=
  h.of_eq _ rfl rfl

/-! ### Records -/

theorem setSection (n : Nat) (r v : SectionRec) (hr : b.sectionRec n = some r) (hv : v.owner = r.owner)
    (h : Neutral a b) : Neutral a { b with sections := b.sections.set n v } :=
  { h with sections := (Blocks.Follows.map_set_of_eq SectionRec.owner _ _ _ v hr hv).trans h.sections }

@[simp] theorem updSection (n : Nat) (f : SectionRec → SectionRec) (hf : ∀ r, (f r).owner = r.owner)
    (h : Neutral a b) : Neutral a (b.updSection n f) := by
  unfold Blocks.updSection
  split
  · exact h
  · rename_i r hr
    split
    · exact h
    · exact mark _ (h.setSection n r (f r) hr (hf r))

@[simp] theorem setBus (x : Bus) (r : BusRec) (h : Neutral a b) : Neutral a (b.setBus x r) := by
  cases x <;> exact h.of_eq _ rfl rfl

/-- The slots that follow from the element records. -/
theorem slots {d : Blocks} (h : Neutral a b) (hd : ∃ us x y ms,
    d = { b with units := us, busA := x, busB := y, work := { b.work with dirty := ms } }) : Neutral a d := by
  obtain ⟨_, _, _, _, rfl⟩ := hd
  exact h.of_eq _ rfl rfl

@[simp] theorem setSlot (n slot : Nat) (v : SlotValue) (u : Bool) (h : Neutral a b) :
    Neutral a (b.setSlot n slot v u) := h.slots (b.setSlot_frame n slot v u)

@[simp] theorem refreshSignal (n : Nat) (h : Neutral a b) : Neutral a (b.refreshSignal n) :=
  h.slots (b.refreshSignal_frame n)

@[simp] theorem refreshPoint (n : Nat) (h : Neutral a b) : Neutral a (b.refreshPoint n) :=
  h.slots (b.refreshPoint_frame n)

@[simp] theorem updPoint (n : Nat) (f : PointRec → PointRec) (hf : ∀ r, (f r).claimView = r.claimView)
    (h : Neutral a b) : Neutral a (b.updPoint n f) := by
  unfold Blocks.updPoint Blocks.pointRec
  split
  · exact h
  · rename_i r hr
    split
    · exact h
    · refine refreshPoint _ (mark _ { h with points := ?_ })
      exact (Blocks.Follows.map_set_of_eq PointRec.claimView _ _ _ (f r) hr (hf r)).trans h.points

@[simp] theorem updSignal (n : Nat) (f : SignalRec → SignalRec) (hf : ∀ r, (f r).claimView = r.claimView)
    (h : Neutral a b) : Neutral a (b.updSignal n f) := by
  unfold Blocks.updSignal Blocks.signalRec
  split
  · exact h
  · rename_i r hr
    split
    · exact h
    · refine refreshSignal _ (mark _ { h with signals := ?_ })
      exact (Blocks.Follows.map_set_of_eq SignalRec.claimView _ _ _ (f r) hr (hf r)).trans h.signals

@[simp] theorem updRoute (n : Nat) (f : RouteRec → RouteRec) (hf : ∀ r, (f r).claimView = r.claimView)
    (h : Neutral a b) : Neutral a (b.updRoute n f) := by
  unfold Blocks.updRoute Blocks.routeRec
  split
  · exact h
  · rename_i r hr
    split
    · exact h
    · refine mark _ { h with routes := ?_ }
      exact (Blocks.Follows.map_set_of_eq (Option.map RouteRec.claimView) _ _ _ (some (f r))
        (Blocks.Follows.getElem?_of_join hr) (by simp [hf r])).trans h.routes

@[simp] theorem updLine (n : Nat) (f : LineRec → LineRec) (h : Neutral a b) : Neutral a (b.updLine n f) := by
  obtain ⟨_, _, e⟩ := b.updLine_frame n f
  rw [e]
  exact h.of_eq _ rfl rfl

@[simp] theorem updLink (n : Nat) (f : LinkRec → LinkRec) (h : Neutral a b) : Neutral a (b.updLink n f) := by
  obtain ⟨_, _, e⟩ := b.updLink_frame n f
  rw [e]
  exact h.of_eq _ rfl rfl

@[simp] theorem updUnit (n : Nat) (f : UnitRec → UnitRec) (h : Neutral a b) : Neutral a (b.updUnit n f) := by
  obtain ⟨_, _, e⟩ := b.updUnit_frame n f
  rw [e]
  exact h.of_eq _ rfl rfl

/-! ### The element table (02) -/

@[simp] theorem setOccupancy (n : Nat) (o : Occupancy) (t : Clock) (c : Option Clock) (h : Neutral a b) :
    Neutral a (b.setOccupancy n o t c) := by
  by_cases hs : ∀ r, b.sectionRec n = some r → r.occupancy = o
  · rw [b.setOccupancy_same n o t c hs]
    exact h
  · push Not at hs
    obtain ⟨r, hr, ho⟩ := hs
    obtain ⟨_, _, _, e⟩ := b.setOccupancy_eq n o t c r hr ho
    rw [e]
    exact (h.setSection n r (r.withOccupancy o t c) hr rfl).of_eq _ rfl rfl

@[simp] theorem sectionReport (n : Nat) (st : SectionStatus) (t : Clock) (h : Neutral a b) :
    Neutral a (b.sectionReport n st t) := by
  unfold Blocks.sectionReport Blocks.disturbByReport Blocks.beginClearing
  (repeat' split) <;> simp [h]

@[simp] theorem writeIdentity (n : Nat) (o : Owner) (i : Identity) (h : Neutral a b) :
    Neutral a (b.writeIdentity n o i) := h.updSection n _ (fun r => by split <;> rfl)

@[simp] theorem pointAtRest (n : Nat) (p : Position) (h : Neutral a b) : Neutral a (b.pointAtRest n p) := by
  have hp := h.updPoint n (fun q : PointRec =>
    { q with ref := some p, state := .atRest, moveTimer := none, pendingCall := none }) (fun _ => rfl)
  unfold Blocks.pointAtRest
  split
  · exact h
  · exact (hp.answerOpt _ _ _).markFreed

@[simp] theorem applyDetection (n : Nat) (t : Clock) (h : Neutral a b) : Neutral a (b.applyDetection n t) := by
  have hl := (h.updPoint n (fun p => { p with state := .lostDetection }) (fun _ => rfl)).raiseAlarm
    .pointDetectionLost (.point n) t
  unfold Blocks.applyDetection
  (repeat' split) <;> simp [h, hl]

@[simp] theorem writeDetection (n k : Nat) (d : Option Position) (h : Neutral a b) :
    Neutral a (b.writeDetection n k d) := h.updPoint n _ (fun _ => rfl)

@[simp] theorem overtakeCall (n : Nat) (h : Neutral a b) : Neutral a (b.overtakeCall n) := by
  have hp := h.updPoint n (fun p : PointRec => { p with pendingCall := none }) (fun _ => rfl)
  unfold Blocks.overtakeCall
  split
  · exact h
  · exact hp.answerOpt _ _ _

@[simp] theorem drive (n : Nat) (pos : Position) (h : Neutral a b) : Neutral a (b.drive n pos).1 := by
  have hp := fun t => h.updPoint n (fun p : PointRec =>
    { p with ref := some pos, state := .moving, moveTimer := t }) (fun _ => rfl)
  unfold Blocks.drive
  (repeat' split) <;> simp [h, hp]

@[simp] theorem moveTimeout (n : Nat) (t : Clock) (h : Neutral a b) : Neutral a (b.moveTimeout n t) := by
  have hp := h.updPoint n (fun p : PointRec => { p with state := .failed, moveTimer := none, pendingCall := none })
    (fun _ => rfl)
  unfold Blocks.moveTimeout
  split
  · exact h
  · exact ((hp.raiseAlarm _ _ _).answerOpt _ _ _).setFailures _

@[simp] theorem signalReport (n : Nat) (s : Shown) (v : Option SlotValue) (t : Clock) (h : Neutral a b) :
    Neutral a (b.signalReport n s v t) := by
  have hc := h.updSignal n (fun r => r.counted s) (fun r => by unfold SignalRec.counted; split <;> rfl)
  have hs := h.updSignal n (fun r => { r with shown := s }) (fun _ => rfl)
  unfold Blocks.signalReport
  dsimp only
  (repeat' split) <;> simp [h, hc, hs]

@[simp] theorem loseSection (n : Nat) (t : Clock) (h : Neutral a b) : Neutral a (b.loseSection n t) :=
  (h.setOccupancy n _ t _).updSection n _ (fun _ => rfl)

@[simp] theorem losePoint (n u : Nat) (h : Neutral a b) : Neutral a (b.losePoint n u) := by
  unfold Blocks.losePoint
  split
  · exact h
  · exact h.updPoint n _ (fun _ => rfl)

@[simp] theorem loseSignal (n : Nat) (t : Clock) (h : Neutral a b) : Neutral a (b.loseSignal n t) := by
  have hs := h.updSignal n (fun r =>
    { r with shown := .dark, proved := false, matchCount := 0, mismatchCount := 0, lampFault := false }) (fun _ => rfl)
  unfold Blocks.loseSignal
  (repeat' split) <;> simp [h, hs]

@[simp] theorem loseUnit (u : Nat) (t : Clock) (h : Neutral a b) : Neutral a (b.loseUnit u t) := by
  unfold Blocks.loseUnit
  split
  · exact h
  · refine foldl _ (fun _ n h => h.refreshPoint n) _ _ (foldl _ (fun _ n h => h.refreshSignal n) _ _ ?_)
    exact foldl _ (fun _ n h => h.loseSignal n t) _ _
      (foldl _ (fun _ n h => h.losePoint n u) _ _ (foldl _ (fun _ n h => h.loseSection n t) _ _ h))

@[simp] theorem refreshUnit (u : Nat) (h : Neutral a b) : Neutral a (b.refreshUnit u) := by
  unfold Blocks.refreshUnit
  split
  · exact h
  · exact foldl _ (fun _ n h => h.refreshPoint n) _ _ (foldl _ (fun _ n h => h.refreshSignal n) _ _ h)

@[simp] theorem confirmationExpiry {d : Blocks} (n : Nat) (h : Neutral a b) (e : b.confirmationExpiry n = some d) :
    Neutral a d := by
  unfold Blocks.confirmationExpiry at e
  (repeat' split at e) <;> cases e
  exact h.setOccupancy _ _ _ _

theorem moveExpiry {d : Blocks} (n : Nat) (h : Neutral a b) (e : b.moveExpiry n = some d) : Neutral a d := by
  unfold Blocks.moveExpiry at e
  (repeat' split at e) <;> cases e
  exact h.moveTimeout _ _

/-! ### The border unit's sending (07) and the store write list (10) -/

@[simp] theorem sendBorder (p : Nat) (t : Telegram) (h : Neutral a b) : Neutral a (b.sendBorder p t) := by
  obtain ⟨_, _, _, e⟩ := b.sendBorder_frame p t
  rw [e]
  exact h.of_eq _ rfl rfl

@[simp] theorem sendLine (n : Nat) (t : Telegram) (h : Neutral a b) : Neutral a (b.sendLine n t) := h.sendBorder _ _

@[simp] theorem askToken (n : Nat) (h : Neutral a b) : Neutral a (b.askToken n) := by
  unfold Blocks.askToken
  (repeat' split) <;> simp [h]

@[simp] theorem sendEntryAsk (n : Nat) (r : Word16) (i : Option Identity) (h : Neutral a b) :
    Neutral a (b.sendEntryAsk n r i) := (h.sendLine _ _).updLine _ _

@[simp] theorem forgetEntryAsk (n : Nat) (h : Neutral a b) : Neutral a (b.forgetEntryAsk n) := h.updLine _ _

@[simp] theorem freeEntry (n : Nat) (r : Word16) (h : Neutral a b) : Neutral a (b.freeEntry n r) :=
  (h.sendLine _ _).forgetEntryAsk _

@[simp] theorem borderReleased (p : BorderPart) (r : Word16) (h : Neutral a b) : Neutral a (b.borderReleased p r) := by
  unfold Blocks.borderReleased
  (repeat' split) <;> simp [h]

@[simp] theorem sendGive (n : Nat) (h : Neutral a b) : Neutral a (b.sendGive n) := (h.updLine _ _).sendLine _ _

@[simp] theorem reportWrite (r : Report) (q : Bool) (h : Neutral a b) : Neutral a (b.reportWrite r q) := by
  unfold Blocks.reportWrite
  (repeat' split) <;> simp [h]

@[simp] theorem storeFault (h : Neutral a b) : Neutral a b.storeFault := h.raiseAlarm _ _ _

@[simp] theorem queueRecord (v : RecordValue) (r : Report) (h : Neutral a b) : Neutral a (b.queueRecord v r) := by
  unfold Blocks.queueRecord
  (repeat' split)
  · exact h.storeFault.reportWrite _ _
  · exact h.of_eq _ rfl rfl
  · exact h.of_eq _ rfl rfl

/-! ### The bus controllers (06) and the sweep -/

@[simp] theorem poll (x : Bus) (n : Nat) (h : Neutral a b) : Neutral a (b.poll x n) := by
  unfold Blocks.poll
  split
  · exact ((h.setBus x _).updUnit n _).setSent _
  · exact h

@[simp] theorem startPoll (x : Bus) (h : Neutral a b) : Neutral a (b.startPoll x) := by
  unfold Blocks.startPoll
  dsimp only
  (repeat' split) <;> simp (maxDischargeDepth := 4) [h]

@[simp] theorem closeExchange (x : Bus) (h : Neutral a b) : Neutral a (b.closeExchange x) := h.setBus _ _

@[simp] theorem setSweep (w : Sweep) (h : Neutral a b) : Neutral a { b with sweep := w } := h.of_eq _ rfl rfl

theorem setMode (m : Mode) (hm : m ≠ .halted) (h : Neutral a b) : Neutral a (b.setMode m) :=
  { h with awake := fun _ => hm }

@[simp] theorem wakeDeferred (h : Neutral a b) : Neutral a b.wakeDeferred := h.setWaiting _

@[simp] theorem enterService (h : Neutral a b) : Neutral a b.enterService :=
  ((((h.setSweep _).setMode .service (by decide)).mark _).wakeDeferred).noticeTokenHeld

@[simp] theorem completeSweep (h : Neutral a b) : Neutral a b.completeSweep := by
  unfold Blocks.completeSweep
  (repeat' split)
  · exact h.enterService
  · exact (h.setSweep _).mark _
  · exact h

@[simp] theorem unitSeen (n : Nat) (h : Neutral a b) : Neutral a (b.unitSeen n) := by
  unfold Blocks.unitSeen
  split
  · exact (h.setSweep _).completeSweep
  · exact h

@[simp] theorem unitAlarms (n : Nat) (s : UnitState) (t : Clock) (h : Neutral a b) : Neutral a (b.unitAlarms n s t) := by
  unfold Blocks.unitAlarms
  split <;> simp [h]

@[simp] theorem unitChanged (n : Nat) (s : UnitState) (t : Clock) (h : Neutral a b) :
    Neutral a (b.unitChanged n s t) := by
  unfold Blocks.unitChanged
  dsimp only
  split <;> simp (maxDischargeDepth := 5) [h]

@[simp] theorem checkAspects (u : Nat) (v : List SlotValue) (s : List SlotStatus) (t : Clock) (h : Neutral a b) :
    Neutral a (b.checkAspects u v s t) := by
  unfold Blocks.checkAspects
  refine foldl _ (fun b x h => ?_) _ _ h
  (repeat' split) <;> simp [h]

@[simp] theorem deliverSlot (u : Nat) (v : List SlotValue) (q : Bool) (t : Clock) (x : Nat × SlotStatus)
    (h : Neutral a b) : Neutral a (b.deliverSlot u v q t x) := by
  unfold Blocks.deliverSlot
  (repeat' split) <;> simp [h]

@[simp] theorem deliver (u : Nat) (q : Bool) (l : Option (List SlotStatus)) (v : List SlotValue)
    (s : List SlotStatus) (t : Clock) (h : Neutral a b) : Neutral a (b.deliver u q l v s t) := by
  unfold Blocks.deliver
  refine updUnit _ _ (foldl _ (fun _ n h => h.applyDetection n t) _ _ ?_)
  exact foldl _ (fun _ x h => h.deliverSlot _ _ _ _ x) _ _ h

@[simp] theorem takeReply (x : Bus) (ex : Exchange) (u : UnitRec) (ok : Bool) (s : List SlotStatus) (h : Neutral a b) :
    Neutral a (b.takeReply x ex u ok s) := by
  unfold Blocks.takeReply
  dsimp only
  have h1 := ((((h.closeExchange x).updUnit ex.unit (fun u => { u with miss := 0, lastReply := some b.clock })).checkAspects
    ex.unit ex.sent s b.clock).updUnit ex.unit (fun v => { v with
      state := (replyState u.state u.good (ok && !anyWrongAspect ex.sent s)).1
      good := (replyState u.state u.good (ok && !anyWrongAspect ex.sent s)).2 }))
  (repeat' split) <;> simp (maxDischargeDepth := 8) [h1]

@[simp] theorem takeMiss (n : Nat) (u : UnitRec) (t : Clock) (h : Neutral a b) : Neutral a (b.takeMiss n u t) := by
  unfold Blocks.takeMiss
  dsimp only
  split <;> simp [h]

theorem telegramEnd {d : Blocks} (x : Bus) (h : Neutral a b) (e : b.telegramEnd x = some d) : Neutral a d := by
  unfold Blocks.telegramEnd at e
  (repeat' split at e) <;> cases e
  exact h.setBus _ _

theorem replyComplete {d : Blocks} (x : Bus) (cs : List LineChar) (h : Neutral a b)
    (e : b.replyComplete x cs = some d) : Neutral a d := by
  unfold Blocks.replyComplete at e
  (repeat' split at e) <;> cases e <;> simp [h]

theorem replyTimeout {d : Blocks} (x : Bus) (h : Neutral a b) (e : b.replyTimeout x = some d) : Neutral a d := by
  unfold Blocks.replyTimeout at e
  dsimp only at e
  (repeat' split at e) <;> cases e <;> simp [h]

end Blocks.Neutral

end Sys2Proof.Machine
end

section

namespace Sys2Proof.Machine

/-! ### Claims and guards are read from the views alone -/

theorem exists_of_map_eq {α β : Type} (f : α → β) {l m : List α} (h : l.map f = m.map f) {n : Nat} {x : α}
    (hx : l[n]? = some x) : ∃ y, m[n]? = some y ∧ f y = f x := by
  have hn := congrArg (·[n]?) h
  simp only [List.getElem?_map, hx, Option.map_some] at hn
  obtain ⟨y, hy, e⟩ := Option.map_eq_some_iff.mp hn.symm
  exact ⟨y, hy, e⟩

/-- What the holds of R41 show of a signal. -/
def SignalRec.holdView (r : SignalRec) : Option Nat × Nat × Nat := (r.owningSlot, r.flankCount, r.possessionCount)

/-- Blocks d show the same holds as blocks b. -/
structure Blocks.SameHolds (b d : Blocks) : Prop where
  inForce : d.inForce = b.inForce
  areas : d.areas = b.areas
  holds : d.holds = b.holds
  sections : d.sections.map SectionRec.owner = b.sections.map SectionRec.owner
  points : d.points.map PointRec.claimView = b.points.map PointRec.claimView
  signals : d.signals.map SignalRec.holdView = b.signals.map SignalRec.holdView

theorem Blocks.SameClaims.sameHolds {b d : Blocks} (h : Blocks.SameClaims b d) : Blocks.SameHolds b d where
  inForce := h.inForce
  areas := h.areas
  holds := h.holds
  sections := h.sections
  points := h.points
  signals := by
    have hs := congrArg (List.map Prod.snd) h.signals
    rwa [List.map_map, List.map_map] at hs

namespace Blocks.SameHolds

variable {b d : Blocks} (h : Blocks.SameHolds b d)
include h

theorem image : d.image? = b.image? := by unfold Blocks.image?; rw [h.inForce]

theorem possessionHolds (n : Nat) : d.possessionHolds n = b.possessionHolds n := by
  unfold Blocks.possessionHolds; rw [h.image]

theorem holdCount (p : Hold → Bool) : d.holdCount p = b.holdCount p := by unfold Blocks.holdCount; rw [h.holds]

theorem sectionRec {n : Nat} {r : SectionRec} (hr : d.sectionRec n = some r) :
    ∃ v, b.sectionRec n = some v ∧ v.owner = r.owner := exists_of_map_eq SectionRec.owner h.sections hr

theorem pointRec {n : Nat} {p : PointRec} (hp : d.pointRec n = some p) :
    ∃ v, b.pointRec n = some v ∧ v.claimView = p.claimView := exists_of_map_eq PointRec.claimView h.points hp

theorem signalRec {n : Nat} {r : SignalRec} (hr : d.signalRec n = some r) :
    ∃ v, b.signalRec n = some v ∧ v.holdView = r.holdView := exists_of_map_eq SignalRec.holdView h.signals hr

theorem claimsShown (hb : b.ClaimsShown) : d.ClaimsShown where
  owner n r hr := by
    obtain ⟨v, hv, e⟩ := h.sectionRec hr
    rw [h.holds, ← e]
    exact hb.owner n v hv
  path n p hp := by
    obtain ⟨v, hv, e⟩ := h.pointRec hp
    rw [h.holdCount, ← hb.path n v hv]
    exact (congrArg (·.1) e).symm
  overlap n p hp := by
    obtain ⟨v, hv, e⟩ := h.pointRec hp
    rw [h.holdCount, ← hb.overlap n v hv]
    exact (congrArg (·.2.1) e).symm
  flank n p hp := by
    obtain ⟨v, hv, e⟩ := h.pointRec hp
    rw [h.holdCount, ← hb.flank n v hv]
    exact (congrArg (·.2.2.1) e).symm
  claimed n p hp := by
    obtain ⟨v, hv, e⟩ := h.pointRec hp
    have hc := hb.claimed n v hv
    simp only [PointRec.claimView, Prod.mk.injEq] at e
    obtain ⟨e1, e2, e3, e4, -⟩ := e
    rwa [e1, e2, e3, e4] at hc
  position n p hp x hx k y hxy := by
    obtain ⟨v, hv, e⟩ := h.pointRec hp
    rw [h.holds] at hx
    rw [← hb.position n v hv x hx k y hxy]
    exact (congrArg (·.2.2.2.1) e).symm
  possessed n p hp := by
    obtain ⟨v, hv, e⟩ := h.pointRec hp
    rw [h.holds, ← hb.possessed n v hv, ← show v.possessed = p.possessed from congrArg (·.2.2.2.2) e]
  signalFlank n r hr := by
    obtain ⟨v, hv, e⟩ := h.signalRec hr
    rw [h.holdCount, ← hb.signalFlank n v hv]
    exact (congrArg (·.2.1) e).symm
  signalPossession n r hr := by
    obtain ⟨v, hv, e⟩ := h.signalRec hr
    rw [h.holdCount, ← hb.signalPossession n v hv]
    exact (congrArg (·.2.2) e).symm
  entry n r hr := by
    obtain ⟨v, hv, e⟩ := h.signalRec hr
    rw [h.holds, hb.entry n v hv, show v.owningSlot = r.owningSlot from congrArg (·.1) e]
  proper := by rw [h.holds]; exact hb.proper
  areas n := by rw [h.holds, h.areas, h.possessionHolds]; exact hb.areas n

end Blocks.SameHolds

namespace Blocks.SameClaims

variable {b d : Blocks} (h : Blocks.SameClaims b d)
include h

theorem routeRec (n : Nat) : (d.routeRec n).map RouteRec.claimView = (b.routeRec n).map RouteRec.claimView := by
  have hn := congrArg (fun l => (l[n]?).join) h.routes
  unfold Blocks.routeRec
  simpa only [List.getElem?_map, Option.join_map_eq_map_join] using hn

theorem entryAt {n : Nat} {e : RouteEntry} {x : RouteRec} (hx : b.entryAt n = some (e, x)) :
    ∃ y, d.entryAt n = some (e, y) ∧ y.claimView = x.claimView := by
  have hr := h.routeRec n
  unfold Blocks.entryAt Blocks.routeEntry at hx ⊢
  rw [h.sameHolds.image]
  cases hb : b.routeRec n with
  | none => simp [hb] at hx
  | some v =>
    rw [hb] at hr hx
    obtain ⟨y, hy, e⟩ := Option.map_eq_some_iff.mp hr
    simp only [Option.bind_some, Option.map_eq_some_iff, Prod.mk.injEq] at hx
    obtain ⟨e', he', rfl, rfl⟩ := hx
    refine ⟨y, ?_, e⟩
    have hroute : y.route = v.route := congrArg Prod.fst e
    simp only [hy, Option.bind_some, hroute, he', Option.map_some]

theorem signalsGuarded (hb : b.SignalsGuarded) : d.SignalsGuarded where
  off n r hr hc := by
    obtain ⟨v, hv, e⟩ := exists_of_map_eq SignalRec.claimView h.signals hr
    simp only [SignalRec.claimView, Prod.mk.injEq] at e
    obtain ⟨hcmd, hslot, -⟩ := e
    obtain ⟨slot, e, x, ho, hx, hs, he⟩ := hb.off n v hv (by rwa [hcmd])
    obtain ⟨y, hy, hyx⟩ := h.entryAt hx
    have hst : y.state = x.state := congrArg (·.2.1) hyx
    exact ⟨slot, e, y, hslot ▸ ho, hy, hst.trans hs, he⟩
  released slot r hr hne := by
    have hrr := h.routeRec slot
    rw [hr] at hrr
    obtain ⟨v, hv, e⟩ := Option.map_eq_some_iff.mp hrr.symm
    simp only [RouteRec.claimView, Prod.mk.injEq] at e
    obtain ⟨-, hst, hrel⟩ := e
    rw [← hst]
    exact hb.released slot v hv (by rwa [hrel])

end Blocks.SameClaims

end Sys2Proof.Machine
end

section

namespace Sys2Proof.Machine

/-! ### A claim set applied keeps the claims shown -/

theorem filter_eq_singleton {α : Type} {p : α → Bool} {l : List α} {x : α} (hx : x ∈ l) (hp : p x = true)
    (h : l.countP p ≤ 1) : l.filter p = [x] := by
  have hm : x ∈ l.filter p := List.mem_filter.mpr ⟨hx, hp⟩
  rw [List.countP_eq_length_filter] at h
  match hl : l.filter p with
  | [] => simp [hl] at hm
  | [y] => rw [hl] at hm; rw [List.mem_singleton.mp hm]
  | _ :: _ :: _ => simp [hl] at h

theorem filter_eq_nil_of_any {α : Type} {p : α → Bool} {l : List α} (h : l.any p = false) : l.filter p = [] :=
  List.filter_eq_nil_iff.mpr fun a ha => by simpa using List.any_eq_false.mp h a ha

/-- A point's record shows the holds on it. -/
structure PointRec.Shows (p : PointRec) (n : Nat) (hs : List HoldRec) : Prop where
  count : ∀ k, p.count k = hs.countP (fun h => h.hold.ofPoint n k)
  claimed : p.claimed = none ↔ p.claims = 0
  position : ∀ h ∈ hs, ∀ k x, h.hold = .point n k x → p.claimed = some x
  possessed : p.possessed = true ↔ ∃ h ∈ hs, h.hold = .pointPossession n

theorem Blocks.ClaimsShown.point {b : Blocks} (h : b.ClaimsShown) {n : Nat} {p : PointRec} (hp : b.pointRec n = some p) :
    p.Shows n b.holds where
  count
    | .path => h.path n p hp
    | .overlap => h.overlap n p hp
    | .flank => h.flank n p hp
  claimed := h.claimed n p hp
  position := h.position n p hp
  possessed := h.possessed n p hp

/-- No section, point or entry signal is named twice among these holds. -/
structure HoldsApart (hs : List Hold) : Prop where
  sections : ∀ n, hs.countP (Hold.ofSection n) ≤ 1
  points : ∀ n, hs.countP (Hold.onPoint n) ≤ 1
  entries : ∀ n, hs.countP (Hold.ofEntry n) ≤ 1

/-- R39: an available section is free. -/
theorem Blocks.owner_of_available {b : Blocks} {i : ClaimItem} {n : Nat} {o : Owner} {r : SectionRec}
    (h : b.unavailable i = none) (hi : i.hold = .sec n o) (hr : b.sectionRec n = some r) : r.owner = .free := by
  unfold Blocks.unavailable at h
  simp only [hi, hr, Option.map_eq_none_iff] at h
  rw [r.unavailable_eq] at h
  by_contra hne
  split at h
  · cases h
  · split at h <;> cases h

/-- R39: an available point is not claimed in the other position. -/
theorem Blocks.claimed_of_available {b : Blocks} {i : ClaimItem} {n : Nat} {k : ClaimKind} {x : Position}
    {p : PointRec} (h : b.unavailable i = none) (hi : i.hold = .point n k x) (hp : b.pointRec n = some p) :
    p.claimed = none ∨ p.claimed = some x := by
  unfold Blocks.unavailable at h
  simp only [hi, hp, Option.map_eq_none_iff] at h
  rw [p.unavailable_eq] at h
  by_contra hne
  rw [not_or] at hne
  split at h <;> cases h

/-- R39: a signal available as an entry signal has no owning slot. -/
theorem Blocks.owningSlot_of_available {b : Blocks} {i : ClaimItem} {n k : Nat} {r : SignalRec}
    (h : b.unavailable i = none) (hi : i.hold = .signalEntry n k) (hr : b.signalRec n = some r) :
    r.owningSlot = none := by
  unfold Blocks.unavailable at h
  simp only [hi, hr, Option.map_eq_none_iff] at h
  rw [r.unavailableAsEntry_eq] at h
  by_contra hne
  split at h
  · cases h
  · rw [if_pos (.inl hne)] at h; cases h

section

variable {b : Blocks} {c : Claimant} {items : List ClaimItem}

theorem Blocks.applyClaim_filter (p : Hold → Bool) :
    ((b.applyClaim c items).holds.filter (fun h => p h.hold)).map (·.hold) =
      (b.holds.filter (fun h => p h.hold)).map (·.hold) ++ (items.map (·.hold)).filter p := by
  rw [b.applyClaim_holds, List.filter_append, List.map_append]
  simp [List.filter_map, Function.comp_def]

theorem Blocks.applyClaim_holdCount (p : Hold → Bool) :
    (b.applyClaim c items).holdCount p = b.holdCount p + items.countP (fun i => p i.hold) := by
  unfold Blocks.holdCount
  rw [b.applyClaim_holds, List.countP_append, List.countP_map]
  rfl

theorem Blocks.applyClaim_sectionRec_of {n : Nat} {v : SectionRec} (hv : (b.applyClaim c items).sectionRec n = some v) :
    ∃ r, b.sectionRec n = some r := by
  rw [b.applyClaim_sectionRec] at hv
  obtain ⟨r, hr, -⟩ := Option.map_eq_some_iff.mp hv
  exact ⟨r, hr⟩

theorem Blocks.applyClaim_signalRec_of {n : Nat} {v : SignalRec} (hv : (b.applyClaim c items).signalRec n = some v) :
    ∃ r, b.signalRec n = some r := by
  rw [b.applyClaim_signalRec] at hv
  obtain ⟨r, hr, -⟩ := Option.map_eq_some_iff.mp hv
  exact ⟨r, hr⟩

theorem Blocks.applyClaim_pointRec_of {n : Nat} {v : PointRec} (hv : (b.applyClaim c items).pointRec n = some v) :
    ∃ p, b.pointRec n = some p := by
  have h := b.applyClaim_pointRec c items n
  rw [hv] at h
  cases hp : b.pointRec n with
  | none => simp [hp] at h
  | some p => exact ⟨p, rfl⟩

end

section

variable {b : Blocks} (h : b.ClaimsShown) {c : Claimant} {items : List ClaimItem}
  (hav : ∀ i ∈ items, b.unavailable i = none) (hp : ∀ i ∈ items, HoldRec.proper { claimant := c, hold := i.hold } = true)
  (ha : HoldsApart (items.map (·.hold)))
include h hav hp ha

theorem Blocks.ClaimsShown.applyClaim_owner (n : Nat) (v : SectionRec) (hv : (b.applyClaim c items).sectionRec n = some v) :
    ((b.applyClaim c items).holds.filter (fun h => h.hold.ofSection n)).map (·.hold) =
      if v.owner = .free then [] else [.sec n v.owner] := by
  obtain ⟨r, hr⟩ := Blocks.applyClaim_sectionRec_of hv
  have hold := h.owner n r hr
  rw [Blocks.applyClaim_filter]
  cases hany : (items.map (·.hold)).any (Hold.ofSection n) with
  | true =>
    obtain ⟨x, hx, hs⟩ := List.any_eq_true.mp hany
    obtain ⟨i, hi, rfl⟩ := List.mem_map.mp hx
    obtain ⟨o, ho⟩ := (Hold.ofSection_iff n _).mp hs
    have hone := filter_eq_singleton hx hs (ha.sections n)
    have hfree := Blocks.owner_of_available (hav i hi) ho hr
    have hne : o ≠ .free := by
      rintro rfl
      have hpr := hp i hi
      rw [ho] at hpr
      cases c <;> simp [HoldRec.proper] at hpr
    obtain ⟨w, hw, howner, -⟩ := b.applyClaim_owner c items hr ⟨i, hi, ho⟩ (fun j hj y hy => by
      have : j.hold ∈ (items.map (·.hold)).filter (Hold.ofSection n) :=
        List.mem_filter.mpr ⟨List.mem_map_of_mem hj, (Hold.ofSection_iff n _).mpr ⟨y, hy⟩⟩
      rw [hone, List.mem_singleton, hy, ho] at this
      exact (Hold.sec.inj this).2)
    rw [hv] at hw
    cases hw
    rw [hold, hfree, if_pos rfl, hone, ho, howner, if_neg hne]
    rfl
  | false =>
    have hno : ∀ i ∈ items, ∀ o, i.hold ≠ .sec n o := fun i hi o ho =>
      List.any_eq_false.mp hany _ (List.mem_map_of_mem hi) ((Hold.ofSection_iff n _).mpr ⟨o, ho⟩)
    rw [b.applyClaim_section_unnamed c items hno, hr] at hv
    cases hv
    rw [hold, filter_eq_nil_of_any hany, List.append_nil]

omit hp in
theorem Blocks.ClaimsShown.applyClaim_entry (n : Nat) (v : SignalRec) (hv : (b.applyClaim c items).signalRec n = some v) :
    ((b.applyClaim c items).holds.filter (fun h => h.hold.ofEntry n)).map (·.hold) =
      (v.owningSlot.map (Hold.signalEntry n)).toList := by
  obtain ⟨r, hr⟩ := Blocks.applyClaim_signalRec_of hv
  obtain ⟨w, hw, -, -, hslot, -⟩ := b.applyClaim_signal c items hr
  rw [hv] at hw
  cases hw
  have hany_eq : items.any (fun i => i.hold.ofEntry n) = (items.map (·.hold)).any (Hold.ofEntry n) := by
    rw [List.any_map]; rfl
  rw [Blocks.applyClaim_filter, h.entry n r hr]
  cases hany : (items.map (·.hold)).any (Hold.ofEntry n) with
  | true =>
    obtain ⟨x, hx, hs⟩ := List.any_eq_true.mp hany
    obtain ⟨i, hi, rfl⟩ := List.mem_map.mp hx
    obtain ⟨k, hk⟩ := (Hold.ofEntry_iff n _).mp hs
    have hone := filter_eq_singleton hx hs (ha.entries n)
    rw [hslot k (fun j hj y hy => by
      have : j.hold ∈ (items.map (·.hold)).filter (Hold.ofEntry n) :=
        List.mem_filter.mpr ⟨List.mem_map_of_mem hj, (Hold.ofEntry_iff n _).mpr ⟨y, hy⟩⟩
      rw [hone, List.mem_singleton, hy, hk] at this
      exact (Hold.signalEntry.inj this).2), hany_eq, hany, if_pos rfl, Blocks.owningSlot_of_available (hav i hi) hk hr,
      hone, hk]
    rfl
  | false =>
    have hno : ∀ i ∈ items, ∀ y, i.hold = .signalEntry n y → y = 0 := fun i hi y hy =>
      absurd ((Hold.ofEntry_iff n _).mpr ⟨y, hy⟩) (List.any_eq_false.mp hany _ (List.mem_map_of_mem hi))
    rw [hslot 0 hno, hany_eq, hany, if_neg (by simp), filter_eq_nil_of_any hany, List.append_nil]

omit hp in
theorem Blocks.ClaimsShown.applyClaim_point {n : Nat} {v : PointRec} (hv : (b.applyClaim c items).pointRec n = some v) :
    v.Shows n (b.applyClaim c items).holds := by
  obtain ⟨p, hpt⟩ := Blocks.applyClaim_pointRec_of hv
  obtain ⟨w, hw, hcount, hclaimed, hposs, -⟩ := b.applyClaim_point c items hpt
  cases hv.symm.trans hw
  have hwas := h.point hpt
  have hclaims : v.claims = p.claims + (items.countP (fun i => i.hold.ofPoint n .path) +
      items.countP (fun i => i.hold.ofPoint n .overlap) + items.countP (fun i => i.hold.ofPoint n .flank)) := by
    simp only [PointRec.claims_eq, hcount]
    omega
  have hmem : ∀ x, x ∈ (b.applyClaim c items).holds ↔
      x ∈ b.holds ∨ ∃ i ∈ items, { claimant := c, hold := i.hold } = x := by
    intro x
    rw [b.applyClaim_holds, List.mem_append, List.mem_map]
  have hcounts : ∀ k, v.count k = (b.applyClaim c items).holds.countP (fun h => h.hold.ofPoint n k) := fun k => by
    rw [hcount, hwas.count]
    exact (Blocks.applyClaim_holdCount _).symm
  have hposs' : v.possessed = true ↔ ∃ x ∈ (b.applyClaim c items).holds, x.hold = .pointPossession n := by
    simp only [hposs, hmem]
    split
    · rename_i hany
      obtain ⟨i, hi, he⟩ := List.any_eq_true.mp hany
      exact iff_of_true rfl ⟨_, .inr ⟨i, hi, rfl⟩, of_decide_eq_true he⟩
    · rename_i hany
      rw [hwas.possessed]
      refine ⟨fun ⟨x, hx, he⟩ => ⟨x, .inl hx, he⟩, fun ⟨x, hx, he⟩ => ⟨x, hx.resolve_right ?_, he⟩⟩
      rintro ⟨i, hi, rfl⟩
      exact hany (List.any_eq_true.mpr ⟨i, hi, decide_eq_true he⟩)
  have hany_eq : items.any (fun i => i.hold.onPoint n) = (items.map (·.hold)).any (Hold.onPoint n) := by
    rw [List.any_map]; rfl
  cases hany : (items.map (·.hold)).any (Hold.onPoint n) with
  | true =>
    obtain ⟨x, hx, hs⟩ := List.any_eq_true.mp hany
    obtain ⟨i, hi, rfl⟩ := List.mem_map.mp hx
    obtain ⟨k, y, hk⟩ := (Hold.onPoint_iff n _).mp hs
    have hone := filter_eq_singleton hx hs (ha.points n)
    have hsame : ∀ j ∈ items, ∀ l z, j.hold = .point n l z → z = y := fun j hj l z hz => by
      have : j.hold ∈ (items.map (·.hold)).filter (Hold.onPoint n) :=
        List.mem_filter.mpr ⟨List.mem_map_of_mem hj, (Hold.onPoint_iff n _).mpr ⟨l, z, hz⟩⟩
      rw [hone, List.mem_singleton, hz, hk] at this
      exact (Hold.point.inj this).2.2
    have hy : v.claimed = some y := by rw [hclaimed y hsame, hany_eq, hany, if_pos rfl]
    refine ⟨hcounts, ?_, fun x hx l z hz => ?_, hposs'⟩
    · rw [hy]
      refine iff_of_false (by simp) ?_
      have hpos : 0 < items.countP (fun i => i.hold.ofPoint n k) :=
        List.countP_pos_iff.mpr ⟨i, hi, (Hold.ofPoint_iff n k _).mpr ⟨y, hk⟩⟩
      rw [hclaims]
      cases k <;> omega
    · rw [hy]
      rcases (hmem x).mp hx with hx | ⟨j, hj, rfl⟩
      · have hz' := hwas.position x hx l z hz
        rcases Blocks.claimed_of_available (hav i hi) hk hpt with hnone | hsome
        · rw [hnone] at hz'; cases hz'
        · rw [← hsome, hz']
      · rw [hsame j hj l z hz]
  | false =>
    have hno : ∀ i ∈ items, ∀ k y, i.hold ≠ .point n k y := fun i hi k y hk =>
      List.any_eq_false.mp hany _ (List.mem_map_of_mem hi) ((Hold.onPoint_iff n _).mpr ⟨k, y, hk⟩)
    have hzero : ∀ k, items.countP (fun i => i.hold.ofPoint n k) = 0 := fun k =>
      List.countP_eq_zero.mpr fun i hi hof => by
        obtain ⟨y, hy⟩ := (Hold.ofPoint_iff n k _).mp hof
        exact hno i hi k y hy
    have hkeep : v.claimed = p.claimed := by
      rw [hclaimed .normal (fun i hi k y hk => absurd hk (hno i hi k y)), hany_eq, hany, if_neg (by simp)]
    refine ⟨hcounts, ?_, fun x hx l z hz => ?_, hposs'⟩
    · rw [hkeep, hwas.claimed, hclaims]
      simp only [hzero]
      rfl
    · rw [hkeep]
      rcases (hmem x).mp hx with hx | ⟨j, hj, rfl⟩
      · exact hwas.position x hx l z hz
      · exact absurd hz (hno j hj l z)

/-- R40: the records show the holds after a claim set, whatever areas the blocks then have. -/
theorem Blocks.ClaimsShown.applyClaim (rs : List PossessionRec)
    (hareas : ∀ n, ((b.applyClaim c items).holds.filter (fun h => h.claimant = .area n)).map (·.hold) =
      if (rs[n]?).any (fun r => r.state ≠ .free) then b.possessionHolds n else []) :
    ({ b.applyClaim c items with areas := rs } : Blocks).ClaimsShown where
  owner := h.applyClaim_owner hav hp ha
  path _ _ hpt := (h.applyClaim_point (c := c) hav ha hpt).count .path
  overlap _ _ hpt := (h.applyClaim_point (c := c) hav ha hpt).count .overlap
  flank _ _ hpt := (h.applyClaim_point (c := c) hav ha hpt).count .flank
  claimed _ _ hpt := (h.applyClaim_point (c := c) hav ha hpt).claimed
  position _ _ hpt := (h.applyClaim_point (c := c) hav ha hpt).position
  possessed _ _ hpt := (h.applyClaim_point (c := c) hav ha hpt).possessed
  signalFlank n v hv := by
    obtain ⟨r, hr⟩ := Blocks.applyClaim_signalRec_of (c := c) hv
    obtain ⟨w, hw, hcount, -⟩ := b.applyClaim_signal c items hr
    cases hv.symm.trans hw
    rw [hcount, h.signalFlank n r hr]
    exact (Blocks.applyClaim_holdCount _).symm
  signalPossession n v hv := by
    obtain ⟨r, hr⟩ := Blocks.applyClaim_signalRec_of (c := c) hv
    obtain ⟨w, hw, -, hcount, -⟩ := b.applyClaim_signal c items hr
    cases hv.symm.trans hw
    rw [hcount, h.signalPossession n r hr]
    exact (Blocks.applyClaim_holdCount _).symm
  entry := h.applyClaim_entry hav ha
  proper x hx := by
    have hx' : x ∈ (b.applyClaim c items).holds := hx
    rw [b.applyClaim_holds, List.mem_append, List.mem_map] at hx'
    rcases hx' with hx' | ⟨i, hi, rfl⟩
    · exact h.proper x hx'
    · exact hp i hi
  areas n := by
    refine (hareas n).trans ?_
    obtain ⟨⟨_, _, _, _, _, _, _, e⟩, -⟩ := Blocks.TableOnly.foldl Blocks.applyItem Blocks.TableOnly.applyItem items b
    have himg : ({ b.applyClaim c items with areas := rs } : Blocks).possessionHolds n = b.possessionHolds n := by
      unfold Blocks.applyClaim
      rw [e]
      rfl
    rw [himg]

end

end Sys2Proof.Machine
end

section

namespace Sys2Proof.Machine

/-! ### A release set applied keeps the claims shown -/

/-- R41: what a release set leaves, with its items, makes up the holds again. -/
theorem takeHolds_perm {c : Claimant} {items : List Hold} {hs ks : List HoldRec} (h : takeHolds c items hs = some ks) :
    hs.Perm (items.map (fun x => { claimant := c, hold := x }) ++ ks) ∧ ks.Sublist hs := by
  induction items generalizing hs with
  | nil =>
    cases h
    exact ⟨.refl _, .refl _⟩
  | cons y ys ih =>
    unfold takeHolds at h
    split at h
    · rename_i hc
      obtain ⟨hperm, hsub⟩ := ih h
      exact ⟨(List.perm_cons_erase (List.contains_iff_mem.mp hc)).trans (hperm.cons _), hsub.trans List.erase_sublist⟩
    · cases h

theorem takeHolds_countP {c : Claimant} {items : List Hold} {hs ks : List HoldRec} (h : takeHolds c items hs = some ks)
    (p : Hold → Bool) : hs.countP (fun x => p x.hold) = items.countP p + ks.countP (fun x => p x.hold) := by
  rw [(takeHolds_perm h).1.countP_eq, List.countP_append, List.countP_map]
  rfl

/-- R41: the holds of a kind that no item names stay, in their order. -/
theorem takeHolds_filter {c : Claimant} {items : List Hold} {hs ks : List HoldRec} (h : takeHolds c items hs = some ks)
    (p : HoldRec → Bool) (hp : ∀ x ∈ items, p { claimant := c, hold := x } = false) : ks.filter p = hs.filter p := by
  have hnone : (items.map (fun x => ({ claimant := c, hold := x } : HoldRec))).countP p = 0 :=
    List.countP_eq_zero.mpr (by simpa using hp)
  refine ((takeHolds_perm h).2.filter p).eq_of_length ?_
  rw [← List.countP_eq_length_filter, ← List.countP_eq_length_filter, (takeHolds_perm h).1.countP_eq,
    List.countP_append, hnone, Nat.zero_add]

section

variable {b : Blocks} (h : b.ClaimsShown) {c : Claimant} {items : List Hold} {ks : List HoldRec}
  (hk : takeHolds c items b.holds = some ks)
include h hk

omit h in
/-- Of holds that stand at most once, none is left of the ones that an item takes. -/
theorem takeHolds_filter_left (p : Hold → Bool) (h1 : b.holds.countP (fun x => p x.hold) ≤ 1) :
    ks.filter (fun x => p x.hold) = if items.any p then [] else b.holds.filter (fun x => p x.hold) := by
  split
  · rename_i hany
    have hcount := takeHolds_countP hk p
    have hpos : 0 < items.countP p := List.countP_pos_iff.mpr (List.any_eq_true.mp hany)
    have hz : ks.countP (fun x => p x.hold) = 0 := by omega
    exact List.filter_eq_nil_iff.mpr (List.countP_eq_zero.mp hz)
  · rename_i hany
    exact takeHolds_filter hk _ fun x hx => by simpa using List.any_eq_false.mp (by simpa using hany) x hx

theorem Blocks.ClaimsShown.release_owner (n : Nat) (v : SectionRec)
    (hv : (items.foldl Blocks.releaseItem b).sectionRec n = some v) :
    (ks.filter (fun x => x.hold.ofSection n)).map (·.hold) = if v.owner = .free then [] else [.sec n v.owner] := by
  rw [b.releaseItems_section] at hv
  obtain ⟨r, hr, rfl⟩ := Option.map_eq_some_iff.mp hv
  have howner := h.owner n r hr
  have hone : b.holds.countP (fun x => x.hold.ofSection n) ≤ 1 := by
    have := congrArg List.length howner
    rw [List.length_map, ← List.countP_eq_length_filter] at this
    rw [this]
    split <;> simp
  rw [takeHolds_filter_left hk (Hold.ofSection n) hone]
  split
  · rfl
  · exact howner

theorem Blocks.ClaimsShown.release_entry (n : Nat) (v : SignalRec)
    (hv : (items.foldl Blocks.releaseItem b).signalRec n = some v) :
    (ks.filter (fun x => x.hold.ofEntry n)).map (·.hold) = (v.owningSlot.map (Hold.signalEntry n)).toList := by
  have hv' := hv
  rw [b.releaseItems_signalRec] at hv'
  obtain ⟨r, hr, -⟩ := Option.map_eq_some_iff.mp hv'
  obtain ⟨w, hw, -, -, hslot, -⟩ := b.releaseItems_signal items hr
  cases hv.symm.trans hw
  have hentry := h.entry n r hr
  have hone : b.holds.countP (fun x => x.hold.ofEntry n) ≤ 1 := by
    have := congrArg List.length hentry
    rw [List.length_map, ← List.countP_eq_length_filter] at this
    rw [this]
    cases r.owningSlot <;> simp
  rw [takeHolds_filter_left hk (Hold.ofEntry n) hone, hslot]
  split
  · rfl
  · exact hentry

theorem Blocks.ClaimsShown.release_point (h1 : ∀ n, b.holds.countP (fun x => x.hold = .pointPossession n) ≤ 1) {n : Nat}
    {v : PointRec} (hv : (items.foldl Blocks.releaseItem b).pointRec n = some v) : v.Shows n ks := by
  have hv' := hv
  rw [b.releaseItems_pointRec] at hv'
  obtain ⟨p, hp, -⟩ := Option.map_eq_some_iff.mp hv'
  obtain ⟨w, hw, hcount, hclaimed, hposs, -⟩ := b.releaseItems_point items hp
  cases hv.symm.trans hw
  have hwas := h.point hp
  have hcounts : ∀ k, v.count k = ks.countP (fun x => x.hold.ofPoint n k) := fun k => by
    have := takeHolds_countP hk (Hold.ofPoint n k)
    rw [hcount, hwas.count]
    omega
  have hle : v.claims ≤ p.claims := by
    simp only [PointRec.claims_eq, hcount]
    omega
  have hsub : ∀ x ∈ ks, x ∈ b.holds := (takeHolds_perm hk).2.subset
  refine ⟨hcounts, ?_, fun x hx k y hxy => ?_, ?_⟩
  · rw [hclaimed]
    split
    · rename_i hz
      exact iff_of_true rfl hz.2
    · rename_i hz
      refine hwas.claimed.trans ⟨fun e => by omega, fun e => ?_⟩
      have hnot : items.any (Hold.onPoint n) = false := by
        rw [not_and] at hz
        exact Bool.eq_false_iff.mpr fun ha => hz ha e
      have hk0 : ∀ k, items.countP (Hold.ofPoint n k) = 0 := fun k => List.countP_eq_zero.mpr fun x hx hof => by
        obtain ⟨y, rfl⟩ := (Hold.ofPoint_iff n k x).mp hof
        exact List.any_eq_false.mp hnot _ hx (decide_eq_true rfl)
      simp only [PointRec.claims_eq, hcount, hk0] at e ⊢
      omega
  · have hpos : 0 < ks.countP (fun x => x.hold.ofPoint n k) :=
      List.countP_pos_iff.mpr ⟨x, hx, (Hold.ofPoint_iff n k _).mpr ⟨y, hxy⟩⟩
    have hne : v.claims ≠ 0 := by
      have := hcounts k
      rw [PointRec.claims_eq]
      cases k <;> omega
    rw [hclaimed, if_neg (fun e => hne e.2)]
    exact hwas.position x (hsub x hx) k y hxy
  · have hleft := takeHolds_filter_left hk (fun x => x = .pointPossession n) (h1 n)
    have hex : (∃ x ∈ ks, x.hold = .pointPossession n) ↔ ks.filter (fun x => x.hold = .pointPossession n) ≠ [] := by
      simp [List.filter_eq_nil_iff]
    have hany : items.any (fun x => x = .pointPossession n) = true ↔ .pointPossession n ∈ items := by simp
    simp only [hposs, hex, hleft, hany]
    split
    · simp
    · rw [hwas.possessed]
      simp [List.filter_eq_nil_iff]

/-- R41: the records show the holds after a release set, whatever areas the blocks then have. -/
theorem Blocks.ClaimsShown.release_areas (h1 : ∀ n, b.holds.countP (fun x => x.hold = .pointPossession n) ≤ 1)
    (rs : List PossessionRec)
    (hareas : ∀ n, (ks.filter (fun x => x.claimant = .area n)).map (·.hold) =
      if (rs[n]?).any (fun r => r.state ≠ .free) then b.possessionHolds n else []) :
    ({ items.foldl Blocks.releaseItem b with holds := ks, areas := rs } : Blocks).ClaimsShown where
  owner := h.release_owner hk
  path _ _ hp := (h.release_point hk h1 hp).count .path
  overlap _ _ hp := (h.release_point hk h1 hp).count .overlap
  flank _ _ hp := (h.release_point hk h1 hp).count .flank
  claimed _ _ hp := (h.release_point hk h1 hp).claimed
  position _ _ hp := (h.release_point hk h1 hp).position
  possessed _ _ hp := (h.release_point hk h1 hp).possessed
  signalFlank n v hv := by
    have hv' : (items.foldl Blocks.releaseItem b).signalRec n = some v := hv
    rw [b.releaseItems_signalRec] at hv'
    obtain ⟨r, hr, -⟩ := Option.map_eq_some_iff.mp hv'
    obtain ⟨w, hw, hcount, -⟩ := b.releaseItems_signal items hr
    cases hv.symm.trans hw
    have := takeHolds_countP hk (fun x => x = .signalFlank n)
    have hwas : r.flankCount = b.holds.countP (fun x => x.hold = .signalFlank n) := h.signalFlank n r hr
    show v.flankCount = ks.countP (fun x => x.hold = .signalFlank n)
    omega
  signalPossession n v hv := by
    have hv' : (items.foldl Blocks.releaseItem b).signalRec n = some v := hv
    rw [b.releaseItems_signalRec] at hv'
    obtain ⟨r, hr, -⟩ := Option.map_eq_some_iff.mp hv'
    obtain ⟨w, hw, -, hcount, -⟩ := b.releaseItems_signal items hr
    cases hv.symm.trans hw
    have := takeHolds_countP hk (fun x => x = .signalPossession n)
    have hwas : r.possessionCount = b.holds.countP (fun x => x.hold = .signalPossession n) := h.signalPossession n r hr
    show v.possessionCount = ks.countP (fun x => x.hold = .signalPossession n)
    omega
  entry := h.release_entry hk
  proper x hx := h.proper x ((takeHolds_perm hk).2.subset hx)
  areas n := by
    refine (hareas n).trans ?_
    obtain ⟨⟨_, _, _, _, _, _, _, e⟩, -⟩ := Blocks.TableOnly.foldl Blocks.releaseItem Blocks.TableOnly.releaseItem items b
    have himg : ({ items.foldl Blocks.releaseItem b with holds := ks, areas := rs } : Blocks).possessionHolds n =
        b.possessionHolds n := by
      rw [e]
      rfl
    rw [himg]

end

end Sys2Proof.Machine
end

section

namespace Sys2Proof.Machine

/-! ### A point is possessed by one area at most -/

theorem nodup_indicesWhere {α : Type} (p : α → Bool) (xs : List α) : (indicesWhere p xs).Nodup :=
  List.nodup_range.filter _

theorem mem_indicesWhere {α : Type} {p : α → Bool} {xs : List α} {n : Nat} :
    n ∈ indicesWhere p xs ↔ ∃ x, xs[n]? = some x ∧ p x = true := by
  unfold indicesWhere
  rw [List.mem_filter, List.mem_range]
  constructor
  · rintro ⟨-, h⟩
    exact (Option.any_eq_true ..).mp h
  · rintro ⟨x, hx, hp⟩
    exact ⟨(List.getElem?_eq_some_iff.mp hx).1, by rw [hx]; exact hp⟩

/-- R148: a point among the holds of a possession lies in a section of its area. -/
theorem Image.mem_possessionHolds_point {i : Image} {a n : Nat} :
    .pointPossession n ∈ i.possessionHolds a ↔
      ∃ e p, i.areas[a]? = some e ∧ i.points[n]? = some p ∧ p.sec ∈ e.sections := by
  unfold Image.possessionHolds
  cases ha : i.areas[a]? with
  | none => simp
  | some e => simp [mem_indicesWhere]

theorem Image.count_possessionHolds_point (i : Image) (a n : Nat) :
    (i.possessionHolds a).count (.pointPossession n) ≤ 1 := by
  unfold Image.possessionHolds
  split
  · simp
  · rename_i e _
    rw [List.count_append, List.count_append,
      List.count_eq_zero_of_not_mem (a := Hold.pointPossession n) (l := e.sections.map _) (by simp),
      List.count_eq_zero_of_not_mem (a := Hold.pointPossession n) (l := e.boundary.map _) (by simp), Nat.zero_add]
    exact List.nodup_iff_count_le_one.mp
      ((nodup_indicesWhere _ _).map fun x y hxy => Hold.pointPossession.inj hxy) _

theorem Blocks.ClaimsShown.mem_possessionHolds {b : Blocks} (h : b.ClaimsShown) {x : HoldRec} (hx : x ∈ b.holds) {a : Nat}
    (ha : x.claimant = .area a) : x.hold ∈ b.possessionHolds a := by
  have hmem : x.hold ∈ (b.holds.filter (fun h => h.claimant = .area a)).map (·.hold) :=
    List.mem_map_of_mem (List.mem_filter.mpr ⟨hx, decide_eq_true ha⟩)
  rw [h.areas a] at hmem
  split at hmem
  · exact hmem
  · cases hmem

theorem Blocks.possessionHolds_eq {b : Blocks} {i : Image} (hi : b.image? = some i) (a : Nat) :
    b.possessionHolds a = i.possessionHolds a := by unfold Blocks.possessionHolds; rw [hi]

theorem HoldRec.area_of_pointPossession {x : HoldRec} (hx : x.proper = true) {n : Nat}
    (hn : x.hold = .pointPossession n) : ∃ a, x.claimant = .area a := by
  unfold HoldRec.proper at hx
  rw [hn] at hx
  cases hc : x.claimant with
  | area a => exact ⟨a, rfl⟩
  | _ => simp [hc] at hx

theorem Blocks.ClaimsShown.possession_once {b : Blocks} (h : b.ClaimsShown)
    (hap : ∀ w, b.inForce = some w → w.image.Apart) (n : Nat) :
    b.holds.countP (fun x => x.hold = .pointPossession n) ≤ 1 := by
  by_cases hno : ∃ x ∈ b.holds, x.hold = .pointPossession n
  swap
  · rw [List.countP_eq_zero.mpr (by simpa using hno)]
    exact Nat.zero_le 1
  obtain ⟨x, hx, hxn⟩ := hno
  obtain ⟨a, ha⟩ := HoldRec.area_of_pointPossession (h.proper x hx) hxn
  have hin : .pointPossession n ∈ b.possessionHolds a := hxn ▸ h.mem_possessionHolds hx ha
  cases hw : b.inForce with
  | none =>
    unfold Blocks.possessionHolds Blocks.image? at hin
    simp [hw] at hin
  | some w =>
    have himg : b.image? = some w.image := by unfold Blocks.image?; rw [hw]; rfl
    have hsame : ∀ y ∈ b.holds, y.hold = .pointPossession n → y.claimant = .area a := by
      intro y hy hyn
      obtain ⟨c, hc⟩ := HoldRec.area_of_pointPossession (h.proper y hy) hyn
      have hin' : .pointPossession n ∈ b.possessionHolds c := hyn ▸ h.mem_possessionHolds hy hc
      rw [Blocks.possessionHolds_eq himg, Image.mem_possessionHolds_point] at hin hin'
      obtain ⟨e, p, he, hp, hs⟩ := hin
      obtain ⟨f, q, hf, hq, ht⟩ := hin'
      cases hp.symm.trans hq
      by_cases hac : a = c
      · rw [hc, hac]
      · exact absurd ht ((hap w hw).disjoint a c e f he hf hac p.sec hs)
    calc b.holds.countP (fun x => x.hold = .pointPossession n)
        = (b.holds.filter (fun x => x.claimant = .area a)).countP (fun x => x.hold = .pointPossession n) := by
          rw [List.countP_filter]
          exact List.countP_congr fun y hy => by
            simpa using fun hyn => hsame y hy hyn
      _ = ((b.holds.filter (fun x => x.claimant = .area a)).map (·.hold)).count (.pointPossession n) := by
          rw [List.count, List.countP_map]
          rfl
      _ ≤ 1 := by
          rw [h.areas a]
          split
          · rw [Blocks.possessionHolds_eq himg]
            exact w.image.count_possessionHolds_point a n
          · simp

/-! ### Lit signals -/

/-- Signal n is commanded off STOP, with this owning slot. -/
def Blocks.Lit (b : Blocks) (n : Nat) (o : Option Nat) : Prop :=
  ∃ r, b.signalRec n = some r ∧ r.commanded ≠ .stop ∧ r.owningSlot = o

/-- R56: no signal is off STOP for a slot. -/
def Blocks.Dark (b : Blocks) (slot : Nat) : Prop := ∀ n, ¬ b.Lit n (some slot)

theorem Blocks.SignalsGuarded.lit {b : Blocks} (h : b.SignalsGuarded) {n : Nat} {o : Option Nat} (hl : b.Lit n o) :
    ∃ slot e x, o = some slot ∧ b.entryAt slot = some (e, x) ∧ x.state = .cleared ∧ e.entry = n := by
  obtain ⟨r, hr, hc, rfl⟩ := hl
  exact h.off n r hr hc

/-- R56: the guard, of blocks with the same entries that light no more signals. -/
theorem Blocks.SignalsGuarded.of_lit {b d : Blocks} (h : b.SignalsGuarded) (hr : d.routes = b.routes)
    (hi : d.inForce = b.inForce) (hl : ∀ n o, d.Lit n o → b.Lit n o) : d.SignalsGuarded where
  off n r hr' hc := by
    obtain ⟨slot, e, x, ho, hx, hs, he⟩ := h.lit (hl n r.owningSlot ⟨r, hr', hc, rfl⟩)
    refine ⟨slot, e, x, ho, ?_, hs, he⟩
    rw [← hx]
    unfold Blocks.entryAt Blocks.routeRec Blocks.routeEntry Blocks.image?
    rw [hr, hi]
  released slot r hr' := h.released slot r (by rw [← hr']; unfold Blocks.routeRec; rw [hr])

theorem Blocks.release_lit {b : Blocks} {items : List Hold} {n : Nat} {o : Option Nat}
    (h : (items.foldl Blocks.releaseItem b).Lit n o) : items.any (Hold.ofEntry n) = false ∧ b.Lit n o := by
  obtain ⟨v, hv, hc, ho⟩ := h
  have hv' := hv
  rw [b.releaseItems_signalRec] at hv'
  obtain ⟨r, hr, -⟩ := Option.map_eq_some_iff.mp hv'
  obtain ⟨w, hw, -, -, hslot, hproof⟩ := b.releaseItems_signal items hr
  cases hv.symm.trans hw
  cases hany : items.any (Hold.ofEntry n) with
  | true =>
    rw [hany, if_pos rfl] at hproof
    exact absurd ((congrArg Prod.fst hproof).trans (r.commandedTo_commanded .stop)) hc
  | false =>
    rw [hany, if_neg (by simp)] at hproof hslot
    exact ⟨rfl, r, hr, by rwa [show r.commanded = v.commanded from (congrArg Prod.fst hproof).symm], hslot ▸ ho⟩

theorem Blocks.applyClaim_lit {b : Blocks} {c : Claimant} {items : List ClaimItem} {n : Nat} {o : Option Nat}
    (hav : ∀ i ∈ items, b.unavailable i = none) (hg : b.SignalsGuarded)
    (h : (b.applyClaim c items).Lit n o) : b.Lit n o := by
  obtain ⟨v, hv, hc, ho⟩ := h
  obtain ⟨r, hr⟩ := Blocks.applyClaim_signalRec_of hv
  obtain ⟨w, hw, -, -, hslot, hcmd, -⟩ := b.applyClaim_signal c items hr
  cases hv.symm.trans hw
  rw [hcmd] at hc
  have hno : ∀ i ∈ items, ∀ y, i.hold ≠ .signalEntry n y := by
    intro i hi y hy
    obtain ⟨slot, _, _, hs, -⟩ := hg.lit ⟨r, hr, hc, rfl⟩
    rw [Blocks.owningSlot_of_available (hav i hi) hy hr] at hs
    cases hs
  have hkeep : v.owningSlot = r.owningSlot := by
    rw [hslot 0 (fun i hi y hy => absurd hy (hno i hi y)), if_neg]
    rw [Bool.not_eq_true, List.any_eq_false]
    intro i hi he
    obtain ⟨y, hy⟩ := (Hold.ofEntry_iff n _).mp he
    exact hno i hi y hy
  exact ⟨r, hr, hc, hkeep ▸ ho⟩

end Sys2Proof.Machine
end

section

namespace Sys2Proof.Machine

/-! ### The invariant, and the slots that light no signal -/

/-- R38 to R41, R56: awake, the records show the holds, and the signals are guarded unless a failed check stops the
supervisor at the end of the event. -/
structure Blocks.Sound (b : Blocks) : Prop where
  awake : b.mode ≠ .halted
  apart : ∀ w, b.inForce = some w → w.image.Apart
  claims : b.ClaimsShown
  guarded : b.work.halt = true ∨ b.SignalsGuarded

/-- Sound blocks in which no signal is off STOP for a slot, so that its entry may change its state. -/
structure Blocks.Rests (b : Blocks) (slot : Nat) : Prop extends Blocks.Sound b where
  dark : b.work.halt = true ∨ b.Dark slot

theorem Blocks.Neutral.sound {b d : Blocks} (h : Blocks.Neutral b d) (hb : b.Sound) : d.Sound where
  awake := h.awake hb.awake
  apart := by rw [h.inForce]; exact hb.apart
  claims := h.sameHolds.claimsShown hb.claims
  guarded := hb.guarded.imp h.halt h.signalsGuarded

theorem Blocks.Neutral.lit {b d : Blocks} (h : Blocks.Neutral b d) {n : Nat} {o : Option Nat} (hl : d.Lit n o) :
    b.Lit n o := by
  obtain ⟨r, hr, hc, ho⟩ := hl
  obtain ⟨v, hv, e⟩ := exists_of_map_eq SignalRec.claimView h.signals hr
  simp only [SignalRec.claimView, Prod.mk.injEq] at e
  obtain ⟨e1, e2, -⟩ := e
  exact ⟨v, hv, by rwa [e1], by rwa [e2]⟩

theorem Blocks.Neutral.rests {b d : Blocks} (h : Blocks.Neutral b d) {slot : Nat} (hb : b.Rests slot) : d.Rests slot where
  toSound := h.sound hb.toSound
  dark := hb.dark.imp h.halt (fun hd n hl => hd n (h.lit hl))

/-- R73: a section is given back in PASSING and EMERGENCY alone. -/
def RouteRec.GivesBack (r : RouteRec) : Prop := r.released ≠ 0 → r.state = .passing ∨ r.state = .emergency

/-- In a state other than these two nothing has been given back, and a change of state keeps that. -/
theorem RouteRec.GivesBack.restate {r v : RouteRec} (h : r.GivesBack) (hr : v.released = r.released)
    (hp : r.state ≠ .passing) (hm : r.state ≠ .emergency) : v.GivesBack := fun hne =>
  (h (hr ▸ hne)).elim (fun q => absurd q hp) (fun q => absurd q hm)

theorem RouteRec.givesBack_passing {r : RouteRec} (h : r.state = .passing) : r.GivesBack := fun _ => .inl h

theorem RouteRec.givesBack_emergency {r : RouteRec} (h : r.state = .emergency) : r.GivesBack := fun _ => .inr h

theorem Blocks.entryAt_routeRec {b : Blocks} {slot : Nat} {e : RouteEntry} {r : RouteRec}
    (h : b.entryAt slot = some (e, r)) : b.routeRec slot = some r ∧ b.routeEntry r.route = some e := by
  unfold Blocks.entryAt at h
  obtain ⟨v, hv, h'⟩ := Option.bind_eq_some_iff.mp h
  obtain ⟨f, hf, h''⟩ := Option.map_eq_some_iff.mp h'
  cases h''
  exact ⟨hv, hf⟩

theorem Blocks.entryAt_eq_none {b : Blocks} {slot : Nat} (h : b.routeRec slot = none) : b.entryAt slot = none := by
  unfold Blocks.entryAt
  rw [h]
  rfl

/-- R45: the record of a slot after an entry of the Route Set has been written. -/
theorem Blocks.set_routeRec (b : Blocks) (slot k : Nat) (v : Option RouteRec) :
    ({ b with routes := b.routes.set slot v } : Blocks).routeRec k =
      if slot = k then (if slot < b.routes.length then v else none) else b.routeRec k := by
  unfold Blocks.routeRec
  rw [List.getElem?_set]
  split
  · split <;> rfl
  · rfl

theorem Blocks.updRoute_rec (b : Blocks) (slot k : Nat) (f : RouteRec → RouteRec) :
    (b.updRoute slot f).routeRec k = (b.routeRec k).map (fun r => if slot = k then f r else r) := by
  unfold Blocks.updRoute
  cases hr : b.routeRec slot with
  | none =>
    by_cases e : slot = k
    · subst e; rw [hr]; rfl
    · simp [e]
  | some r =>
    have hlt : slot < b.routes.length := (List.getElem?_eq_some_iff.mp (Blocks.Follows.getElem?_of_join hr)).1
    dsimp only
    split
    · rename_i hf
      by_cases e : slot = k
      · subst e; simp [hr, hf]
      · simp [e]
    · refine (b.set_routeRec slot k (some (f r))).trans ?_
      by_cases e : slot = k
      · subst e; simp [hr, hlt]
      · simp [e]

theorem Blocks.updRoute_entryAt {b : Blocks} {slot : Nat} {e : RouteEntry} {r : RouteRec} (f : RouteRec → RouteRec)
    (hf : (f r).route = r.route) (h : b.entryAt slot = some (e, r)) : (b.updRoute slot f).entryAt slot = some (e, f r) := by
  obtain ⟨hr, he⟩ := Blocks.entryAt_routeRec h
  have himg : (b.updRoute slot f).routeEntry r.route = b.routeEntry r.route := by
    obtain ⟨_, _, eq⟩ := b.updRoute_frame slot f
    rw [eq]
    rfl
  unfold Blocks.entryAt
  rw [b.updRoute_rec, hr, Option.map_some, if_pos rfl, Option.bind_some, hf, himg, he]
  rfl

/-- R56: a change of one entry whose slot lights no signal leaves the others guarded. -/
theorem Blocks.SignalsGuarded.restate {b d : Blocks} {slot : Nat} (h : b.SignalsGuarded) (hd : b.Dark slot)
    (hi : d.inForce = b.inForce) (hs : d.signals = b.signals) (hr : ∀ k, k ≠ slot → d.routeRec k = b.routeRec k)
    (hg : ∀ r, d.routeRec slot = some r → r.GivesBack) : d.SignalsGuarded where
  off n r hr' hc := by
    rw [Blocks.signalRec_congr hs] at hr'
    obtain ⟨k, e, x, ho, hx, hst, he⟩ := h.off n r hr' hc
    refine ⟨k, e, x, ho, ?_, hst, he⟩
    have hk : k ≠ slot := by
      rintro rfl
      exact hd n ⟨r, hr', hc, ho⟩
    rw [← hx]
    unfold Blocks.entryAt Blocks.routeEntry Blocks.image?
    rw [hr k hk, hi]
  released k r hr' := by
    by_cases hk : k = slot
    · subst hk
      exact hg r hr'
    · exact h.released k r (hr k hk ▸ hr')

/-- The entry of a slot that is not CLEARED lights no signal. -/
theorem Blocks.Sound.rests {b : Blocks} {slot : Nat} (h : b.Sound)
    (hx : ∀ e x, b.entryAt slot = some (e, x) → x.state ≠ .cleared) : b.Rests slot where
  toSound := h
  dark := h.guarded.imp_right fun hg n hl => by
    obtain ⟨k, e, x, ho, hk, hs, -⟩ := hg.lit hl
    cases ho
    exact hx e x hk hs

theorem Blocks.Sound.rests_of_state {b : Blocks} {slot : Nat} {e : RouteEntry} {r : RouteRec} (h : b.Sound)
    (he : b.entryAt slot = some (e, r)) (hs : r.state ≠ .cleared) : b.Rests slot :=
  h.rests fun _ _ hx => by cases he.symm.trans hx; exact hs

/-- R45: the slot of the entry written, its signals dark. -/
theorem Blocks.Rests.setRoute {b : Blocks} {slot : Nat} (h : b.Rests slot) (v : Option RouteRec)
    (hv : b.work.halt = true ∨ ∀ r, v = some r → r.GivesBack) :
    (({ b with routes := b.routes.set slot v } : Blocks).mark (.slot slot)).Rests slot where
  awake := h.awake
  apart := h.apart
  claims := (show Blocks.SameHolds b (({ b with routes := b.routes.set slot v } : Blocks).mark (.slot slot)) from
    ⟨rfl, rfl, rfl, rfl, rfl, rfl⟩).claimsShown h.claims
  guarded := by
    rcases h.guarded with hh | hg
    · exact .inl hh
    rcases h.dark with hh | hd
    · exact .inl hh
    refine hv.imp id fun hv => hg.restate hd rfl rfl (fun k hk => ?_) (fun r hr => ?_)
    · exact (b.set_routeRec slot k v).trans (if_neg hk.symm)
    · have := (b.set_routeRec slot slot v).symm.trans hr
      rw [if_pos rfl] at this
      split at this
      · exact hv r this
      · cases this
  dark := h.dark

/-- R45: the entry of a slot changed, its signals dark. -/
theorem Blocks.Rests.updRoute {b : Blocks} {slot : Nat} (h : b.Rests slot) (f : RouteRec → RouteRec)
    (hf : ∀ r, b.routeRec slot = some r → r.GivesBack → (f r).GivesBack) : (b.updRoute slot f).Rests slot := by
  unfold Blocks.updRoute
  split
  · exact h
  · rename_i r hr
    split
    · exact h
    · refine h.setRoute _ (h.guarded.imp_right fun hg v hv => ?_)
      cases hv
      exact hf r hr (hg.released slot r hr)

/-- R45: the state of an entry changed that has given nothing back. -/
theorem Blocks.Rests.updState {b : Blocks} {slot : Nat} {e : RouteEntry} {x : RouteRec} (h : b.Rests slot)
    (he : b.entryAt slot = some (e, x)) (f : RouteRec → RouteRec) (hf : ∀ r, (f r).released = r.released)
    (hp : x.state ≠ .passing) (hm : x.state ≠ .emergency) : (b.updRoute slot f).Rests slot :=
  h.updRoute f fun r hr hg => by
    cases (Blocks.entryAt_routeRec he).1.symm.trans hr
    exact hg.restate (hf _) hp hm

/-- R45: the slot left, its signals dark. -/
theorem Blocks.Rests.leave {b : Blocks} {slot : Nat} (h : b.Rests slot) : (b.leave slot).Sound := by
  have h' := (h.setRoute none (.inr fun _ e => nomatch e)).toSound
  unfold Blocks.leave
  dsimp only
  split
  · exact h'
  · exact ((Blocks.Neutral.refl _).updLine _ _).sound h'

/-! ### Commands to signals (R33) -/

theorem Blocks.setCommanded_frame (b : Blocks) (n : Nat) (x : Aspect) :
    ∃ gs us y z w, b.setCommanded n x = { b with signals := gs, units := us, busA := y, busB := z, work := w } := by
  unfold Blocks.setCommanded
  split
  · exact ⟨_, _, _, _, _, rfl⟩
  · split
    · exact ⟨_, _, _, _, _, rfl⟩
    · obtain ⟨_, _, _, _, _, e⟩ := b.updSignal_frame n (fun r =>
        { r with commanded := x, proved := false, matchCount := 0, mismatchCount := 0, lampFault := false })
      dsimp only
      rw [e]
      split <;> exact ⟨_, _, _, _, _, rfl⟩

theorem Blocks.setCommanded_sameHolds (b : Blocks) (n : Nat) (x : Aspect) : Blocks.SameHolds b (b.setCommanded n x) := by
  have hview : ∀ r : SignalRec, (r.commandedTo x).holdView = r.holdView := by
    intro r
    unfold SignalRec.commandedTo
    split <;> rfl
  have hsig : (b.setCommanded n x).signals.map SignalRec.holdView = b.signals.map SignalRec.holdView := by
    apply List.ext_getElem?
    intro m
    have hm : (b.setCommanded n x).signals[m]? = _ := b.setCommanded_rec n m x
    rw [List.getElem?_map, List.getElem?_map, hm, Option.map_map]
    refine congrArg (Option.map · b.signals[m]?) (funext fun r => ?_)
    show SignalRec.holdView (if n = m then r.commandedTo x else r) = _
    split
    · exact hview r
    · rfl
  obtain ⟨_, _, _, _, _, e⟩ := b.setCommanded_frame n x
  rw [e] at hsig ⊢
  exact ⟨rfl, rfl, rfl, rfl, rfl, hsig⟩

theorem Blocks.setCommanded_routes (b : Blocks) (n : Nat) (x : Aspect) : (b.setCommanded n x).routes = b.routes := by
  obtain ⟨_, _, _, _, _, e⟩ := b.setCommanded_frame n x
  rw [e]

theorem Blocks.setCommanded_lit {b : Blocks} {n m : Nat} {x : Aspect} {o : Option Nat} (h : (b.setCommanded n x).Lit m o) :
    (n ≠ m ∧ b.Lit m o) ∨ (n = m ∧ x ≠ .stop ∧ ∃ r, b.signalRec m = some r ∧ r.owningSlot = o) := by
  obtain ⟨v, hv, hc, ho⟩ := h
  rw [b.setCommanded_rec] at hv
  obtain ⟨r, hr, rfl⟩ := Option.map_eq_some_iff.mp hv
  by_cases e : n = m
  · rw [if_pos e] at hc ho
    rw [r.commandedTo_commanded] at hc
    refine .inr ⟨e, hc, r, hr, ?_⟩
    rw [← ho]
    unfold SignalRec.commandedTo
    split <;> rfl
  · rw [if_neg e] at hc ho
    exact .inl ⟨e, r, hr, hc, ho⟩

theorem Blocks.setCommanded_halt (b : Blocks) (n : Nat) (x : Aspect) :
    (b.setCommanded n x).work.halt = b.work.halt := (Blocks.TableOnly.setCommanded b n x).halt

theorem Blocks.Sound.failCheck {b : Blocks} (h : b.Sound) : b.failCheck.Sound :=
  ((Blocks.Neutral.refl b).failCheck).sound h

/-- R33: a signal that lights no more than before is commanded. -/
theorem Blocks.Sound.setCommanded {b : Blocks} (h : b.Sound) (n : Nat) (x : Aspect)
    (hg : b.SignalsGuarded → (b.setCommanded n x).SignalsGuarded) : (b.setCommanded n x).Sound where
  awake := by
    obtain ⟨_, _, _, _, _, e⟩ := b.setCommanded_frame n x
    rw [e]
    exact h.awake
  apart := by rw [(b.setCommanded_sameHolds n x).inForce]; exact h.apart
  claims := (b.setCommanded_sameHolds n x).claimsShown h.claims
  guarded := h.guarded.imp (fun hh => by rw [b.setCommanded_halt]; exact hh) hg

theorem Blocks.SignalsGuarded.commandStop {b : Blocks} (h : b.SignalsGuarded) (n : Nat) :
    (b.setCommanded n .stop).SignalsGuarded :=
  h.of_lit (b.setCommanded_routes n .stop) (b.setCommanded_sameHolds n .stop).inForce fun m o hl => by
    rcases Blocks.setCommanded_lit hl with ⟨-, hl⟩ | ⟨-, hx, -⟩
    · exact hl
    · exact absurd rfl hx

/-- R58, R70: the entry signal of a slot commanded STOP: its slot lights no signal. -/
theorem Blocks.Sound.commandStop {b : Blocks} {slot : Nat} {e : RouteEntry} {r : RouteRec} (h : b.Sound)
    (he : b.entryAt slot = some (e, r)) : (b.commandSignal slot e.entry .stop).Rests slot := by
  have hfail : b.failCheck.Rests slot := ⟨h.failCheck, .inl rfl⟩
  unfold Blocks.commandSignal
  split
  · exact hfail
  · split
    · refine ⟨h.setCommanded _ _ (·.commandStop _), ?_⟩
      rw [b.setCommanded_halt]
      refine h.guarded.imp_right fun hg m hl => ?_
      rcases Blocks.setCommanded_lit hl with ⟨hne, hl⟩ | ⟨-, hx, -⟩
      · obtain ⟨k, f, x, ho, hk, -, hf⟩ := hg.lit hl
        cases ho
        cases he.symm.trans hk
        exact hne hf
      · exact hx rfl
    · exact hfail

theorem Blocks.commandSignal_routes (b : Blocks) (slot n : Nat) (x : Aspect) :
    (b.commandSignal slot n x).routes = b.routes := by
  unfold Blocks.commandSignal
  split
  · rfl
  · split
    · exact b.setCommanded_routes n x
    · rfl

theorem Blocks.commandSignal_inForce (b : Blocks) (slot n : Nat) (x : Aspect) :
    (b.commandSignal slot n x).inForce = b.inForce := by
  unfold Blocks.commandSignal
  split
  · rfl
  · split
    · exact (b.setCommanded_sameHolds n x).inForce
    · rfl

theorem Blocks.entryAt_congr {b d : Blocks} (hr : d.routes = b.routes) (hi : d.inForce = b.inForce) (slot : Nat) :
    d.entryAt slot = b.entryAt slot := by
  unfold Blocks.entryAt Blocks.routeRec Blocks.routeEntry Blocks.image?
  rw [hr, hi]

/-- R56: the entry goes CLEARED with its entry signal commanded off. -/
theorem Blocks.Rests.clearEntry {b : Blocks} {slot : Nat} {e : RouteEntry} {x : RouteRec} (h : b.Rests slot)
    (he : b.entryAt slot = some (e, x)) (hp : x.state ≠ .passing) (hm : x.state ≠ .emergency) (r : RouteRec) :
    (b.clearEntry slot e r).Sound := by
  have hu := h.updState he (fun r => { r with state := .cleared }) (fun _ => rfl) hp hm
  have hx := Blocks.updRoute_entryAt (fun r => { r with state := .cleared }) rfl he
  unfold Blocks.clearEntry Blocks.commandSignal
  split
  · exact hu.toSound.failCheck
  · rename_i g hgr
    split
    · rename_i hslot
      refine hu.toSound.setCommanded _ _ fun hsg => ?_
      constructor
      · intro m v hv hc
        rcases Blocks.setCommanded_lit ⟨v, hv, hc, rfl⟩ with ⟨-, hl⟩ | ⟨hm, -, w, hw, ho⟩
        · obtain ⟨k, f, y, hk, hy, hs, hf⟩ := hsg.lit hl
          refine ⟨k, f, y, hk, ?_, hs, hf⟩
          rw [← hy]
          exact Blocks.entryAt_congr (Blocks.setCommanded_routes _ _ _) (Blocks.setCommanded_sameHolds _ _ _).inForce k
        · subst hm
          cases hgr.symm.trans hw
          refine ⟨slot, e, { x with state := .cleared }, ho.symm.trans hslot, ?_, rfl, rfl⟩
          rw [← hx]
          exact Blocks.entryAt_congr (Blocks.setCommanded_routes _ _ _) (Blocks.setCommanded_sameHolds _ _ _).inForce slot
      · intro k v hv
        exact hsg.released k v (by rw [← hv]; unfold Blocks.routeRec; rw [Blocks.setCommanded_routes])
    · exact hu.toSound.failCheck

end Sys2Proof.Machine
end

section

namespace Sys2Proof.Machine

/-! ### The claim sets of an image name no section, point or entry signal twice -/

theorem countP_ofSection_sections (n : Nat) (l : List Nat) (o : Owner) :
    (l.map (fun m => Hold.sec m o)).countP (Hold.ofSection n) = l.count n := by
  rw [List.countP_map, List.count]
  exact List.countP_congr fun x _ => by simp [Hold.ofSection]

theorem countP_onPoint_points {α : Type} (n : Nat) (l : List α) (p : α → Nat) (k : ClaimKind) (x : α → Position) :
    (l.map (fun m => Hold.point (p m) k (x m))).countP (Hold.onPoint n) = (l.map p).count n := by
  rw [List.countP_map, List.count, List.countP_map]
  exact List.countP_congr fun x _ => by simp [Hold.onPoint]

theorem countP_map_eq_zero {α : Type} (l : List α) (f : α → Hold) (q : Hold → Bool) (h : ∀ x, q (f x) = false) :
    (l.map f).countP q = 0 := by
  rw [List.countP_map]
  exact List.countP_eq_zero.mpr fun x _ => by simp [h]

/-- The point of a flank element. -/
def FlankElement.point? : FlankElement → Option Nat
  | .point n _ => some n
  | .signal _ => none

/-- R95: the elements assigned are among the primaries and substitutes. -/
theorem assigned_sublist (fs : List FlankEntry) : ∀ ps : List FlankPart,
    ((fs.zip ps).map (fun x => x.1.assigned x.2)).Sublist (fs.flatMap (fun f => f.primary :: f.substitute.toList)) := by
  induction fs with
  | nil => intro ps; simp
  | cons f fs ih =>
    intro ps
    cases ps with
    | nil => simp
    | cons p ps =>
      have hone : [f.assigned p].Sublist (f.primary :: f.substitute.toList) := by
        unfold FlankEntry.assigned
        cases f.substitute with
        | none => simp
        | some s => cases p.substitute <;> simp
      exact hone.append (ih ps)

theorem RouteEntry.flankPoints_eq (e : RouteEntry) :
    e.flankPoints = (e.flanks.flatMap (fun f => f.primary :: f.substitute.toList)).filterMap FlankElement.point? := by
  unfold RouteEntry.flankPoints
  rw [List.filterMap_flatMap]
  rfl

theorem countP_onPoint_flanks (n : Nat) (e : RouteEntry) (ps : List FlankPart) :
    ((e.flanks.zip ps).map (fun x => (x.1.assigned x.2).hold)).countP (Hold.onPoint n) ≤ e.flankPoints.count n := by
  rw [e.flankPoints_eq]
  refine le_trans (le_of_eq ?_) (((assigned_sublist e.flanks ps).filterMap FlankElement.point?).count_le n)
  rw [List.count, List.countP_filterMap, List.countP_map, List.countP_map]
  refine List.countP_congr fun x _ => ?_
  cases h : x.1.assigned x.2 <;> simp [h, FlankElement.hold, FlankElement.point?, Hold.onPoint]

theorem FlankElement.hold_ofSection (n : Nat) (x : FlankElement) : x.hold.ofSection n = false := by cases x <;> rfl

theorem FlankElement.hold_ofEntry (n : Nat) (x : FlankElement) : x.hold.ofEntry n = false := by cases x <;> rfl

/-- R51: the holds of a route's claim set. -/
theorem Blocks.routeClaim_holds (b : Blocks) (slot : Nat) (e : RouteEntry) (sweep : Bool) (i : Option Identity)
    (a : Assignment) : (b.routeClaim slot e sweep i a).map (·.hold) =
      e.path.map (fun n => .sec n (.route slot)) ++ e.points.map (fun p => .point p.point .path p.pos) ++
        [.signalEntry e.entry slot] ++ (a.overlap.map (b.overlapHolds · slot)).getD [] ++
        (e.flanks.zip a.flanks).map (fun x => (x.1.assigned x.2).hold) := by
  unfold Blocks.routeClaim
  cases a.overlap <;> simp [Hold.item, Function.comp_def]

/-- What counts among the holds of a route's claim set. -/
theorem Blocks.countP_routeClaim (b : Blocks) (slot : Nat) (e : RouteEntry) (sweep : Bool) (i : Option Identity)
    (a : Assignment) (q : Hold → Bool) : ((b.routeClaim slot e sweep i a).map (·.hold)).countP q =
      (e.path.map (fun n => Hold.sec n (.route slot))).countP q +
        (e.points.map (fun p => Hold.point p.point .path p.pos)).countP q +
        [Hold.signalEntry e.entry slot].countP q + ((a.overlap.map (b.overlapHolds · slot)).getD []).countP q +
        ((e.flanks.zip a.flanks).map (fun x => (x.1.assigned x.2).hold)).countP q := by
  rw [b.routeClaim_holds]
  simp only [List.countP_append]

/-- The sections and the points of the overlap that a route's claim set names. -/
theorem Blocks.countP_overlapHolds {b : Blocks} {i : Image} (hi : b.image? = some i) {e : RouteEntry}
    {x : Option Nat} (hx : ∀ n, x = some n → n ∈ e.overlaps) (slot : Nat) :
    (∃ k ∈ e.overlaps, ∃ o, i.overlaps[k]? = some o ∧ ∀ q : Hold → Bool,
      ((x.map (b.overlapHolds · slot)).getD []).countP q =
        (o.sections.map (fun n => Hold.sec n (.overlap slot))).countP q +
          (o.points.map (fun p => Hold.point p.point .overlap p.pos)).countP q) ∨
      (x.map (b.overlapHolds · slot)).getD [] = [] := by
  cases x with
  | none => exact .inr rfl
  | some k =>
    cases ho : i.overlaps[k]? with
    | none =>
      refine .inr ?_
      simp [Blocks.overlapHolds, Blocks.overlapEntry, hi, ho]
    | some o =>
      refine .inl ⟨k, hx k rfl, o, ho, fun q => ?_⟩
      simp only [Blocks.overlapHolds, Blocks.overlapEntry, hi, ho, Option.bind_some, Option.map_some, Option.getD_some]
      exact List.countP_append

theorem Image.Apart.routeClaim {b : Blocks} {i : Image} (hap : i.Apart) (hi : b.image? = some i) {e : RouteEntry}
    (he : e ∈ i.routes) (slot : Nat) (sweep : Bool) (d : Option Identity) (a : Assignment)
    (ho : ∀ n, a.overlap = some n → n ∈ e.overlaps) :
    HoldsApart ((b.routeClaim slot e sweep d a).map (·.hold)) := by
  obtain ⟨hpath, hsections⟩ := hap.sections e he
  obtain ⟨hpoints, hall⟩ := hap.points e he
  refine ⟨fun n => ?_, fun n => ?_, fun n => ?_⟩
  · rw [b.countP_routeClaim, countP_ofSection_sections, countP_map_eq_zero e.points _ _ (fun _ => rfl),
      countP_map_eq_zero (e.flanks.zip a.flanks) _ _ (fun x => (x.1.assigned x.2).hold_ofSection n)]
    have hsig : [Hold.signalEntry e.entry slot].countP (Hold.ofSection n) = 0 := rfl
    rcases Blocks.countP_overlapHolds hi ho slot with ⟨k, hk, o, hok, hq⟩ | hnil
    · have := List.nodup_iff_count_le_one.mp (hsections k hk o hok) n
      rw [List.count_append] at this
      rw [hq, countP_ofSection_sections, countP_map_eq_zero o.points _ _ (fun _ => rfl)]
      omega
    · have := List.nodup_iff_count_le_one.mp hpath n
      rw [hnil, List.countP_nil]
      omega
  · have hflank := countP_onPoint_flanks n e a.flanks
    rw [b.countP_routeClaim, countP_onPoint_points n e.points (fun p => p.point), countP_map_eq_zero e.path _ _ (fun _ => rfl)]
    have hsig : [Hold.signalEntry e.entry slot].countP (Hold.onPoint n) = 0 := rfl
    rcases Blocks.countP_overlapHolds hi ho slot with ⟨k, hk, o, hok, hq⟩ | hnil
    · have := List.nodup_iff_count_le_one.mp (hall k hk o hok) n
      rw [List.count_append, List.count_append] at this
      rw [hq, countP_onPoint_points n o.points (fun p => p.point), countP_map_eq_zero o.sections _ _ (fun _ => rfl)]
      omega
    · have := List.nodup_iff_count_le_one.mp hpoints n
      rw [List.count_append] at this
      rw [hnil, List.countP_nil]
      omega
  · rw [b.countP_routeClaim, countP_map_eq_zero e.path _ _ (fun _ => rfl), countP_map_eq_zero e.points _ _ (fun _ => rfl),
      countP_map_eq_zero (e.flanks.zip a.flanks) _ _ (fun x => (x.1.assigned x.2).hold_ofEntry n)]
    have hsig : [Hold.signalEntry e.entry slot].countP (Hold.ofEntry n) ≤ 1 := List.countP_le_length
    rcases Blocks.countP_overlapHolds hi ho slot with ⟨k, hk, o, hok, hq⟩ | hnil
    · rw [hq, countP_map_eq_zero o.sections _ _ (fun _ => rfl), countP_map_eq_zero o.points _ _ (fun _ => rfl)]
      omega
    · rw [hnil, List.countP_nil]
      omega

/-- R38: every hold of a route's claim set is one that a Route Set slot asks for. -/
theorem Blocks.routeClaim_proper (b : Blocks) (slot : Nat) (e : RouteEntry) (sweep : Bool) (d : Option Identity)
    (a : Assignment) : ∀ i ∈ b.routeClaim slot e sweep d a,
      HoldRec.proper { claimant := .slot slot, hold := i.hold } = true := by
  intro i hi
  have hm : i.hold ∈ (b.routeClaim slot e sweep d a).map (·.hold) := List.mem_map_of_mem hi
  rw [b.routeClaim_holds] at hm
  simp only [List.mem_append, List.mem_map, List.mem_singleton] at hm
  rcases hm with (((⟨n, -, h⟩ | ⟨p, -, h⟩) | h) | h) | ⟨x, -, h⟩
  · rw [← h]; simp [HoldRec.proper]
  · rw [← h]; rfl
  · rw [h]; simp [HoldRec.proper]
  · cases ho : a.overlap with
    | none => simp [ho] at h
    | some k =>
      rw [ho] at h
      simp only [Option.map_some, Option.getD_some, Blocks.overlapHolds] at h
      split at h
      · cases h
      · unfold OverlapEntry.holds at h
        rcases List.mem_append.mp h with h | h <;> obtain ⟨y, -, hy⟩ := List.mem_map.mp h <;> rw [← hy] <;>
          simp [HoldRec.proper]
  · rw [← h]
    cases x.1.assigned x.2 <;> rfl

/-- R38: the holds of a reception's claim set. -/
theorem receptionClaim_holds (e : LineEntry) (line : Nat) (d : Option Identity) :
    (receptionClaim e line d).map (·.hold) = e.recSections.map (fun n => .sec n (.reception line)) ++
      e.recPoints.map (fun p => .point p.point .path p.pos) := by
  simp [receptionClaim, Hold.item, Function.comp_def]

theorem Image.Apart.receptionClaim {i : Image} (hap : i.Apart) {e : LineEntry} (he : e ∈ i.lines) (line : Nat)
    (d : Option Identity) : HoldsApart ((receptionClaim e line d).map (·.hold)) := by
  obtain ⟨hsec, hpt⟩ := hap.receptions e he
  rw [receptionClaim_holds]
  refine ⟨fun n => ?_, fun n => ?_, fun n => ?_⟩
  · rw [List.countP_append, countP_ofSection_sections, countP_map_eq_zero _ _ _ (fun _ => rfl)]
    exact List.nodup_iff_count_le_one.mp hsec n
  · rw [List.countP_append, countP_onPoint_points, countP_map_eq_zero _ _ _ (fun _ => rfl), Nat.zero_add]
    exact List.nodup_iff_count_le_one.mp hpt n
  · rw [List.countP_append, countP_map_eq_zero _ _ _ (fun _ => rfl), countP_map_eq_zero _ _ _ (fun _ => rfl)]
    exact Nat.zero_le 1

theorem receptionClaim_proper (e : LineEntry) (line : Nat) (d : Option Identity) :
    ∀ i ∈ receptionClaim e line d, HoldRec.proper { claimant := .line line, hold := i.hold } = true := by
  intro i hi
  have hm : i.hold ∈ (receptionClaim e line d).map (·.hold) := List.mem_map_of_mem hi
  rw [receptionClaim_holds] at hm
  rcases List.mem_append.mp hm with h | h <;> obtain ⟨y, -, hy⟩ := List.mem_map.mp h <;> rw [← hy] <;>
    simp [HoldRec.proper]

theorem Image.Apart.possessionHolds {i : Image} (hap : i.Apart) (area : Nat) : HoldsApart (i.possessionHolds area) := by
  unfold Image.possessionHolds
  split
  · exact ⟨fun _ => Nat.zero_le 1, fun _ => Nat.zero_le 1, fun _ => Nat.zero_le 1⟩
  · rename_i e he
    refine ⟨fun n => ?_, fun n => ?_, fun n => ?_⟩
    · rw [List.countP_append, List.countP_append, countP_ofSection_sections,
        countP_map_eq_zero _ _ _ (fun _ => rfl), countP_map_eq_zero _ _ _ (fun _ => rfl)]
      exact List.nodup_iff_count_le_one.mp (hap.areas e (List.mem_of_getElem? he)).1 n
    all_goals
      rw [List.countP_append, List.countP_append, countP_map_eq_zero _ _ _ (fun _ => rfl),
        countP_map_eq_zero _ _ _ (fun _ => rfl), countP_map_eq_zero _ _ _ (fun _ => rfl)]
      exact Nat.zero_le 1

theorem Image.possessionHolds_proper (i : Image) (area : Nat) :
    ∀ h ∈ i.possessionHolds area, HoldRec.proper { claimant := .area area, hold := h } = true := by
  intro h hh
  unfold Image.possessionHolds at hh
  split at hh
  · cases hh
  · simp only [List.mem_append, List.mem_map] at hh
    rcases hh with (⟨n, -, rfl⟩ | ⟨n, -, rfl⟩) | ⟨n, -, rfl⟩ <;> simp [HoldRec.proper]

end Sys2Proof.Machine
end

section

namespace Sys2Proof.Machine

/-! ### Claim sets and release sets keep the invariant -/

theorem Blocks.applyClaim_frame (b : Blocks) (c : Claimant) (items : List ClaimItem) : ∃ ss ps gs us x y w hs,
    b.applyClaim c items = { b with
      sections := ss, points := ps, signals := gs, units := us, busA := x, busB := y, work := w, holds := hs } := by
  obtain ⟨⟨_, _, _, _, _, _, _, e⟩, -⟩ := Blocks.TableOnly.foldl Blocks.applyItem Blocks.TableOnly.applyItem items b
  unfold Blocks.applyClaim
  rw [e]
  exact ⟨_, _, _, _, _, _, _, _, rfl⟩

theorem Blocks.applyClaim_halt (b : Blocks) (c : Claimant) (items : List ClaimItem) :
    (b.applyClaim c items).work.halt = b.work.halt :=
  (Blocks.TableOnly.foldl Blocks.applyItem Blocks.TableOnly.applyItem items b).halt

/-- R40: the claim set of a slot or of a line, applied. -/
theorem Blocks.Sound.claim {b d : Blocks} {c : Claimant} {items : List ClaimItem} (h : b.Sound)
    (hok : b.claim c items = .ok d) (hc : ∀ n, c ≠ .area n)
    (hp : ∀ i ∈ items, HoldRec.proper { claimant := c, hold := i.hold } = true)
    (ha : HoldsApart (items.map (·.hold))) : d.Sound := by
  obtain ⟨hav, rfl⟩ := b.claim_applied c items d hok
  have hareas : ∀ n, ((b.applyClaim c items).holds.filter (fun h => h.claimant = .area n)).map (·.hold) =
      if (b.areas[n]?).any (fun r => r.state ≠ .free) then b.possessionHolds n else [] := by
    intro n
    rw [b.applyClaim_holds, List.filter_append, ← h.claims.areas n]
    rw [show (items.map (fun i => ({ claimant := c, hold := i.hold } : HoldRec))).filter
      (fun h => h.claimant = .area n) = [] from List.filter_eq_nil_iff.mpr fun x hx => by
        obtain ⟨i, -, rfl⟩ := List.mem_map.mp hx
        simpa using hc n, List.append_nil]
  have hshown := h.claims.applyClaim (c := c) hav hp ha b.areas hareas
  have hlit := fun (hg : b.SignalsGuarded) n o => Blocks.applyClaim_lit (c := c) (n := n) (o := o) hav hg
  have hhalt := b.applyClaim_halt c items
  obtain ⟨_, _, _, _, _, _, _, _, e⟩ := b.applyClaim_frame c items
  rw [e] at hshown hlit hhalt ⊢
  exact ⟨h.awake, h.apart, hshown, h.guarded.imp hhalt.trans fun hg => hg.of_lit rfl rfl (hlit hg)⟩

theorem Blocks.claim_routes {b d : Blocks} {c : Claimant} {items : List ClaimItem} (hok : b.claim c items = .ok d) :
    d.routes = b.routes ∧ d.inForce = b.inForce := by
  obtain ⟨-, rfl⟩ := b.claim_applied c items d hok
  obtain ⟨_, _, _, _, _, _, _, _, e⟩ := b.applyClaim_frame c items
  rw [e]
  exact ⟨rfl, rfl⟩

theorem Blocks.release_frame (b : Blocks) (c : Claimant) (items : List Hold) : ∃ ss ps gs us x y w hs,
    b.release c items = { b with
      sections := ss, points := ps, signals := gs, units := us, busA := x, busB := y, work := w, holds := hs } := by
  unfold Blocks.release
  split
  · obtain ⟨⟨_, _, _, _, _, _, _, e⟩, -⟩ :=
      Blocks.TableOnly.foldl Blocks.releaseItem Blocks.TableOnly.releaseItem items b
    rw [e]
    exact ⟨_, _, _, _, _, _, _, _, rfl⟩
  · exact ⟨_, _, _, _, _, _, _, _, rfl⟩

theorem Blocks.release_routes (b : Blocks) (c : Claimant) (items : List Hold) :
    (b.release c items).routes = b.routes := by
  obtain ⟨_, _, _, _, _, _, _, _, e⟩ := b.release_frame c items
  rw [e]

theorem Blocks.release_inForce (b : Blocks) (c : Claimant) (items : List Hold) :
    (b.release c items).inForce = b.inForce := by
  obtain ⟨_, _, _, _, _, _, _, _, e⟩ := b.release_frame c items
  rw [e]

/-- R41: a release set that is refused stops the supervisor; one that is applied lights nothing. -/
theorem Blocks.release_dark (b : Blocks) (c : Claimant) (items : List Hold) : (b.release c items).work.halt = true ∨
    (b.release c items).work.halt = b.work.halt ∧
      ∀ n o, (b.release c items).Lit n o → items.any (Hold.ofEntry n) = false ∧ b.Lit n o := by
  unfold Blocks.release
  split
  · refine .inr ⟨(Blocks.TableOnly.foldl Blocks.releaseItem Blocks.TableOnly.releaseItem items b).halt, fun n o hl => ?_⟩
    exact Blocks.release_lit hl
  · exact .inl rfl

/-- R41: a release set keeps the claims shown, whatever areas the blocks then have. -/
theorem Blocks.ClaimsShown.release {b : Blocks} (h : b.ClaimsShown) (hap : ∀ w, b.inForce = some w → w.image.Apart)
    {c : Claimant} (hc : ∀ n, c ≠ .area n) (items : List Hold) : (b.release c items).ClaimsShown := by
  unfold Blocks.release
  split
  · rename_i ks hk
    have := h.release_areas hk (h.possession_once hap) b.areas fun n => by
      rw [takeHolds_filter hk (fun x => x.claimant = .area n) (fun x _ => by simpa using hc n)]
      exact h.areas n
    obtain ⟨⟨_, _, _, _, _, _, _, e⟩, -⟩ :=
      Blocks.TableOnly.foldl Blocks.releaseItem Blocks.TableOnly.releaseItem items b
    rw [e] at this ⊢
    refine Blocks.SameHolds.claimsShown ?_ this
    exact ⟨rfl, rfl, rfl, rfl, rfl, rfl⟩
  · refine Blocks.SameHolds.claimsShown ?_ h
    exact ⟨rfl, rfl, rfl, rfl, rfl, rfl⟩

theorem Blocks.Sound.release {b : Blocks} (h : b.Sound) {c : Claimant} (hc : ∀ n, c ≠ .area n) (items : List Hold) :
    (b.release c items).Sound where
  awake := by
    obtain ⟨_, _, _, _, _, _, _, _, e⟩ := b.release_frame c items
    rw [e]
    exact h.awake
  apart := by rw [b.release_inForce]; exact h.apart
  claims := h.claims.release h.apart hc items
  guarded := by
    rcases b.release_dark c items with hh | ⟨hh, hl⟩
    · exact .inl hh
    · exact h.guarded.imp hh.trans fun hg =>
        hg.of_lit (b.release_routes c items) (b.release_inForce c items) fun n o hno => (hl n o hno).2

theorem Blocks.Rests.release {b : Blocks} {slot : Nat} (h : b.Rests slot) {c : Claimant} (hc : ∀ n, c ≠ .area n)
    (items : List Hold) : (b.release c items).Rests slot where
  toSound := h.toSound.release hc items
  dark := by
    rcases b.release_dark c items with hh | ⟨hh, hl⟩
    · exact .inl hh
    · exact h.dark.imp hh.trans fun hd n hno => hd n (hl n _ hno).2

/-- R77: every hold of an entry given back: its slot lights no signal. -/
theorem Blocks.Sound.releaseWhole {b : Blocks} {slot : Nat} {e : RouteEntry} {r : RouteRec} (h : b.Sound)
    (he : b.entryAt slot = some (e, r)) : (b.release (.slot slot) (b.wholeHolds slot e r)).Rests slot where
  toSound := h.release (c := .slot slot) (fun _ => by simp) _
  dark := by
    rcases b.release_dark (.slot slot) (b.wholeHolds slot e r) with hh | ⟨hh, hl⟩
    · exact .inl hh
    refine h.guarded.imp hh.trans fun hg n hno => ?_
    obtain ⟨hany, hlit⟩ := hl n _ hno
    obtain ⟨k, f, x, ho, hk, hs, hf⟩ := hg.lit hlit
    cases ho
    cases he.symm.trans hk
    have hz : r.released = 0 := by
      by_contra hne
      rcases hg.released slot r (Blocks.entryAt_routeRec he).1 hne with q | q <;> rw [hs] at q <;> cases q
    refine List.any_eq_false.mp hany (.signalEntry e.entry slot) ?_ (by simpa [Hold.ofEntry] using hf)
    simp [Blocks.wholeHolds, hz]

/-- Neutral operations keep the invariant, and the slots that light no signal. -/
theorem Blocks.Sound.of_neutral {b d : Blocks} (h : b.Sound) (hn : Blocks.Neutral b b → Blocks.Neutral b d) : d.Sound :=
  (hn (.refl b)).sound h

theorem Blocks.Rests.of_neutral {b d : Blocks} {slot : Nat} (h : b.Rests slot)
    (hn : Blocks.Neutral b b → Blocks.Neutral b d) : d.Rests slot := (hn (.refl b)).rests h

end Sys2Proof.Machine
end

section

namespace Sys2Proof.Machine

/-! ### The route engine keeps the invariant (03 to 05) -/

theorem slot_ne_area (slot n : Nat) : Claimant.slot slot ≠ .area n := nofun

theorem line_ne_area (line n : Nat) : Claimant.line line ≠ .area n := nofun

theorem Blocks.commandSignal_entryAt (b : Blocks) (slot n k : Nat) (x : Aspect) :
    (b.commandSignal slot n x).entryAt k = b.entryAt k :=
  Blocks.entryAt_congr (b.commandSignal_routes slot n x) (b.commandSignal_inForce slot n x) k

theorem Blocks.release_entryAt (b : Blocks) (c : Claimant) (items : List Hold) (k : Nat) :
    (b.release c items).entryAt k = b.entryAt k :=
  Blocks.entryAt_congr (b.release_routes c items) (b.release_inForce c items) k

theorem Blocks.leave_routeRec (b : Blocks) (slot : Nat) : (b.leave slot).routeRec slot = none := by
  have h := b.set_routeRec slot slot none
  rw [if_pos rfl, ite_self] at h
  unfold Blocks.leave
  dsimp only
  split
  · exact h
  · obtain ⟨_, _, e⟩ := Blocks.updLine_frame (({ b with routes := b.routes.set slot none } : Blocks).mark (.slot slot))
      ‹Nat› (fun r => if r.handedSlot = some slot then { r with handedSlot := none } else r)
    rw [e]
    exact h

/-- A change of an entry that a guard does not read. -/
theorem Blocks.Sound.updRoute {b : Blocks} (h : b.Sound) (slot : Nat) (f : RouteRec → RouteRec)
    (hf : ∀ r, (f r).claimView = r.claimView) : (b.updRoute slot f).Sound := h.of_neutral (·.updRoute slot f hf)

namespace Blocks.Sound

variable {b : Blocks}

/-! ### Leaving the Route Set -/

@[simp] theorem tearDown (h : b.Sound) (slot : Nat) : (b.tearDown slot).Sound := by
  unfold Blocks.tearDown
  split
  · exact h
  · rename_i e r he
    exact ((h.releaseWhole he).of_neutral (·.answerOpt _ _ _)).leave

@[simp] theorem wholeRelease (h : b.Sound) (slot : Nat) : (b.wholeRelease slot).Sound := by
  unfold Blocks.wholeRelease
  split
  · exact h
  · rename_i e r he
    have hl := ((h.releaseWhole he).of_neutral (·.answerOpt r.cell .withdrawn .none)).leave
    dsimp only
    split
    · exact hl
    · exact hl.of_neutral (·.borderReleased _ _)

/-! ### Overlaps -/

theorem testOverlap (h : b.Sound) (slot : Nat) : (b.testOverlap slot).Sound := by
  unfold Blocks.testOverlap
  split
  · exact h
  · split
    · exact h.updRoute _ _ (fun _ => rfl)
    · exact h

theorem releaseOverlap (h : b.Sound) (slot : Nat) : (b.releaseOverlap slot).Sound := by
  unfold Blocks.releaseOverlap
  split
  · exact h
  · exact (h.release (slot_ne_area slot) _).updRoute _ _ (fun _ => rfl)

theorem overlapTimeout (h : b.Sound) (slot : Nat) : (b.overlapTimeout slot).Sound := by
  unfold Blocks.overlapTimeout
  split
  · exact h
  · split
    · exact h.releaseOverlap slot
    · exact h.updRoute _ _ (fun _ => rfl)

theorem testOverlapTiming (h : b.Sound) (slot : Nat) : (b.testOverlapTiming slot).Sound := by
  unfold Blocks.testOverlapTiming
  split
  · exact h
  split
  · rename_i p _ _
    split
    · split
      · exact h
      · rename_i o _
        have hq := h.updRoute slot (fun r => { r with
          overlap := some { p with state := .timing, expiry := some (Clock.after b.clock (1000 * o.release)) } })
          (fun _ => rfl)
        dsimp only
        split
        · exact hq.overlapTimeout slot
        · exact hq
    · exact h
  · exact h

theorem testOverlapExpired (h : b.Sound) (slot : Nat) : (b.testOverlapExpired slot).Sound := by
  unfold Blocks.testOverlapExpired
  split
  · exact h
  · split
    · exact h.releaseOverlap slot
    · exact h

/-! ### Proofs, clearing and loss of proof -/

section

variable {slot : Nat} {e : RouteEntry} {x : RouteRec} (h : b.Sound) (he : b.entryAt slot = some (e, x))
include h he

theorem clearEntry (hc : x.state ≠ .cleared) (hp : x.state ≠ .passing) (hm : x.state ≠ .emergency) (r : RouteRec) :
    (b.clearEntry slot e r).Sound := (h.rests_of_state he hc).clearEntry he hp hm r

omit he in
theorem askEntry (slot line : Nat) (r : RouteRec) : (b.askEntry slot line r).Sound := by
  have hask := fun p => h.updRoute slot (fun r => { r with border := some p }) (fun _ => rfl)
  unfold Blocks.askEntry
  split
  · exact (hask _).of_neutral (·.sendEntryAsk _ _ _)
  · exact h.tearDown slot

theorem actLocked (hs : x.state = .locked) (r : RouteRec) : (b.actLocked slot e r).Sound := by
  have hclear := h.clearEntry he (by rw [hs]; decide) (by rw [hs]; decide) (by rw [hs]; decide) r
  unfold Blocks.actLocked
  split
  · exact hclear
  · split
    · exact hclear
    · exact h.askEntry _ _ _
    · exact h
    · exact h

/-- The state of an entry, that is not CLEARED and has given nothing back, changed. -/
theorem updState (hc : x.state ≠ .cleared) (hp : x.state ≠ .passing) (hm : x.state ≠ .emergency)
    (f : RouteRec → RouteRec) (hf : ∀ r, (f r).released = r.released) : (b.updRoute slot f).Sound :=
  ((h.rests_of_state he hc).updState he f hf hp hm).toSound

theorem stall (hc : x.state ≠ .cleared) (hp : x.state ≠ .passing) (hm : x.state ≠ .emergency) (r : RouteRec)
    (f : Finding) : (b.stall slot r f).Sound :=
  (h.updState he hc hp hm (fun r => { r with state := .stalled, reason := some f, cell := none }) (fun _ => rfl)).of_neutral
    (·.answerOpt _ _ _)

/-- R58, R62: the entry signal commanded STOP, and the state of the entry changed. -/
theorem stopEntry (hp : x.state ≠ .passing) (hm : x.state ≠ .emergency) (f : RouteRec → RouteRec)
    (hf : ∀ r, (f r).released = r.released) : ((b.commandSignal slot e.entry .stop).updRoute slot f).Rests slot :=
  (h.commandStop he).updState ((b.commandSignal_entryAt _ _ _ _).trans he) f hf hp hm

theorem holdEntry (hs : x.state = .cleared) (r : RouteRec) (f : Finding) (o : CellOutcome) (d : Detail) :
    (b.holdEntry slot e r f o d).Sound :=
  (h.stopEntry he (by rw [hs]; decide) (by rw [hs]; decide)
    (fun r => { r with state := .held, reason := some f, cell := none }) (fun _ => rfl)).toSound.of_neutral
      (·.answerOpt _ _ _)

theorem passage (r : RouteRec) : (b.passage slot e r).Sound :=
  ((h.commandStop he).updRoute (fun r => { r with state := .passing, cell := none })
    (fun _ _ _ => RouteRec.givesBack_passing rfl)).toSound.of_neutral (·.answerOpt _ _ _)

theorem passedAtStop (hc : x.state ≠ .cleared) : (b.passedAtStop slot e).Sound :=
  (((h.rests_of_state he hc).of_neutral (·.raiseAlarm .signalPassedAtStop (.signal e.entry) b.clock)).updRoute
    (fun r => { r with state := .passing, timer := none }) (fun _ _ _ => RouteRec.givesBack_passing rfl)).toSound

theorem unexpectedOccupation (hc : x.state ≠ .cleared) (hp : x.state ≠ .passing) (hm : x.state ≠ .emergency)
    (sec : Nat) (r : RouteRec) : (b.unexpectedOccupation slot sec r).Sound :=
  (h.of_neutral (·.raiseAlarm .unexpectedOccupation (.sec sec) b.clock)).stall he hc hp hm r _

end

theorem reactProofs (h : b.Sound) (slot : Nat) : (b.reactProofs slot).Sound := by
  unfold Blocks.reactProofs
  split
  · exact h
  rename_i e r he
  split
  · rename_i hs
    split
    · exact h
    · have hl := h.updState he (by rw [hs]; decide) (by rw [hs]; decide) (by rw [hs]; decide)
        (fun r => { r with state := .locked }) (fun _ => rfl)
      exact hl.actLocked (Blocks.updRoute_entryAt (fun r => { r with state := .locked }) rfl he) rfl r
  · rename_i hs
    split
    · exact h.updState he (by rw [hs]; decide) (by rw [hs]; decide) (by rw [hs]; decide) _ (fun _ => rfl)
    · exact h.actLocked he hs r
  · rename_i hs
    split
    · exact h.holdEntry he hs r _ _ _
    · split
      · exact h.holdEntry he hs r _ _ _
      · exact h
  · exact h

theorem reactProved (h : b.Sound) (slot : Nat) : (b.reactProved slot).Sound := by
  unfold Blocks.reactProved
  split
  · exact h
  · split
    · exact (h.updRoute slot (fun r => { r with cell := none }) (fun _ => rfl)).of_neutral (·.answerOpt _ _ _)
    · exact h

/-! ### Occupations, failures and recovery -/

theorem reactOccupation (h : b.Sound) (slot i : Nat) (o : Occupation) : (b.reactOccupation slot i o).Sound := by
  unfold Blocks.reactOccupation
  split
  · exact h
  rename_i e r he
  split
  · exact h
  split
  · rename_i hs
    exact h.unexpectedOccupation he (by rw [hs]; decide) (by rw [hs]; decide) (by rw [hs]; decide) _ _
  · rename_i hs
    exact h.unexpectedOccupation he (by rw [hs]; decide) (by rw [hs]; decide) (by rw [hs]; decide) _ _
  · rename_i hs
    exact h.unexpectedOccupation he (by rw [hs]; decide) (by rw [hs]; decide) (by rw [hs]; decide) _ _
  · rename_i hs
    split
    · exact h.passage he r
    · exact h.holdEntry he hs r _ _ _
  · rename_i hs
    split
    · exact h.passedAtStop he (by rw [hs]; decide)
    · exact h
  · rename_i hs
    split
    · exact h.passedAtStop he (by rw [hs]; decide)
    · exact h
  · rename_i hs
    split
    · exact h.passedAtStop he (by rw [hs]; decide)
    · exact h
  · exact h

theorem foldl {α : Type} (g : Blocks → α → Blocks) (hg : ∀ b x, b.Sound → (g b x).Sound) (l : List α) :
    ∀ b, b.Sound → (l.foldl g b).Sound := by
  induction l with
  | nil => exact fun _ h => h
  | cons x l ih => exact fun _ h => ih _ (hg _ _ h)

theorem reactOccupations (h : b.Sound) (slot : Nat) : (b.reactOccupations slot).Sound := by
  unfold Blocks.reactOccupations
  split
  · exact h
  · refine foldl _ (fun b i h => ?_) _ _ h
    split
    · exact h
    · exact h.reactOccupation slot i _

theorem reactFailure (h : b.Sound) (slot point : Nat) : (b.reactFailure slot point).Sound := by
  unfold Blocks.reactFailure
  split
  · exact h
  rename_i e r he
  split
  · dsimp only
    split
    · rename_i hs
      exact h.stall he (by rw [hs]; decide) (by rw [hs]; decide) (by rw [hs]; decide) _ _
    · split
      · exact h.updRoute _ _ (fun _ => rfl)
      · exact h
    · exact h
  · exact h

theorem reactRecovery (h : b.Sound) (slot : Nat) : (b.reactRecovery slot).Sound := by
  unfold Blocks.reactRecovery
  split
  · exact h
  rename_i e r he
  split
  · rename_i hs
    exact h.updState he (by rw [hs.1]; decide) (by rw [hs.1]; decide) (by rw [hs.1]; decide) _ (fun _ => rfl)
  · exact h

end Blocks.Sound

/-! ### Sequential release -/

/-- R73: the entry of the slot, if any, gives its sections back. -/
def Blocks.GivingBack (b : Blocks) (slot : Nat) : Prop :=
  ∀ r, b.routeRec slot = some r → r.state = .passing ∨ r.state = .emergency

theorem Blocks.routeRec_congr {b d : Blocks} (h : d.routes = b.routes) (slot : Nat) :
    d.routeRec slot = b.routeRec slot := by unfold Blocks.routeRec; rw [h]

namespace Blocks.Sound

variable {b : Blocks}

theorem releaseFront {slot : Nat} {e : RouteEntry} {r : RouteRec} (h : b.Sound) (he : b.entryAt slot = some (e, r))
    (hg : b.GivingBack slot) : (b.releaseFront slot e r).Sound ∧ (b.releaseFront slot e r).GivingBack slot := by
  unfold Blocks.releaseFront
  split
  · exact ⟨h, hg⟩
  · rename_i n _
    have hc : r.state ≠ .cleared := by
      rcases hg r (Blocks.entryAt_routeRec he).1 with q | q <;> rw [q] <;> decide
    have hr := (h.rests_of_state he hc).release (slot_ne_area slot) (b.passageHolds slot e r n (r.released + 1))
    dsimp only
    split
    · refine ⟨hr.leave, fun v hv => ?_⟩
      rw [Blocks.leave_routeRec] at hv
      cases hv
    · have hkeep : ∀ v, (b.release (.slot slot) (b.passageHolds slot e r n (r.released + 1))).routeRec slot = some v →
          v.state = .passing ∨ v.state = .emergency := fun v hv =>
        hg v ((Blocks.routeRec_congr (b.release_routes _ _) slot).symm.trans hv)
      refine ⟨(hr.updRoute (fun v => { v with
        released := r.released + 1, flank := markReleased (flankPairs e v) (releasedWith e (r.released + 1)) })
        fun v hv _ _ => hkeep v hv).toSound, fun v hv => ?_⟩
      rw [Blocks.updRoute_rec] at hv
      obtain ⟨w, hw, rfl⟩ := Option.map_eq_some_iff.mp hv
      rw [if_pos rfl]
      exact hkeep w hw

theorem sequentialRelease (fuel slot : Nat) :
    ∀ b : Blocks, b.Sound → b.GivingBack slot → (Blocks.sequentialRelease fuel b slot).Sound := by
  induction fuel with
  | zero => exact fun _ h _ => h
  | succ fuel ih =>
    intro b h hg
    unfold Blocks.sequentialRelease
    split
    · exact h
    · rename_i e r he
      split
      · obtain ⟨hs, hg'⟩ := h.releaseFront he hg
        exact ih _ hs hg'
      · exact h

theorem reactRelease (h : b.Sound) (slot : Nat) : (b.reactRelease slot).Sound := by
  unfold Blocks.reactRelease
  split
  · exact h
  · rename_i e r he
    split
    · rename_i hs
      refine sequentialRelease _ slot b h fun v hv => ?_
      cases (Blocks.entryAt_routeRec he).1.symm.trans hv
      exact hs.1
    · exact h

theorem reactEntry (h : b.Sound) (slot : Nat) : (b.reactEntry slot).Sound := by
  unfold Blocks.reactEntry
  dsimp only
  have hf := foldl (fun b n => b.reactFailure slot n) (fun _ n h => h.reactFailure slot n)
    (b.reactOccupations slot).work.failures _ (h.reactOccupations slot)
  exact (((((hf.reactRecovery slot).testOverlap slot).reactProofs slot).reactProved slot).testOverlapTiming
    slot).testOverlapExpired slot |>.reactRelease slot

/-! ### SET ROUTE (R47 to R64) -/

/-- R53: an entry created in a free slot. -/
theorem createEntry (h : b.Sound) {slot : Nat} (hfree : b.routeRec slot = none) (e : RouteEntry) (route : Nat)
    (sweep : Bool) (i : Option Identity) (c : Nat) (a : Assignment) :
    (b.createEntry slot e route sweep i c a).Sound := by
  have hrests := h.rests (slot := slot) fun _ _ hx => by
    rw [Blocks.entryAt_eq_none hfree] at hx
    cases hx
  unfold Blocks.createEntry
  dsimp only
  refine reactEntry ?_ slot
  have hset := fun v (hv : RouteRec.released v = 0) =>
    (hrests.setRoute (some v) (.inr fun r hr hne => by cases hr; exact absurd hv hne)).toSound
  split
  · exact hset _ rfl
  · exact (hset _ rfl).of_neutral (·.updLine _ _)

end Blocks.Sound

theorem Blocks.routeRec_of_freeSlot {b : Blocks} {slot : Nat} (h : b.freeSlot = some slot) : b.routeRec slot = none := by
  unfold Blocks.freeSlot at h
  obtain ⟨hlt, hnone, -⟩ := List.findIdx?_eq_some_iff_getElem.mp h
  unfold Blocks.routeRec
  rw [List.getElem?_eq_getElem hlt, Option.isNone_iff_eq_none.mp hnone]
  rfl

/-- R97: the overlap chosen is one of the choices. -/
theorem Blocks.chooseOverlap_mem {b : Blocks} {slot : Nat} {choices : List Nat} {o : Option Nat}
    (h : b.chooseOverlap slot choices = .ok o) : ∀ n, o = some n → n ∈ choices := by
  intro n hn
  subst hn
  unfold Blocks.chooseOverlap at h
  split at h
  · cases h
  · rename_i first rest
    split at h
    · rename_i m hm
      cases h
      exact List.mem_of_find?_eq_some hm
    · split at h
      · cases h
      · cases h
        exact List.mem_cons_self

theorem Blocks.protection_overlap {b : Blocks} {slot : Nat} {e : RouteEntry} {a : Assignment}
    (h : b.protection slot e = .ok a) : ∀ n, a.overlap = some n → n ∈ e.overlaps := by
  unfold Blocks.protection at h
  split at h
  · cases h
  · rename_i o ho
    split at h
    · cases h
    · cases h
      exact Blocks.chooseOverlap_mem ho

theorem Blocks.routeEntry_mem {b : Blocks} {n : Nat} {e : RouteEntry} (h : b.routeEntry n = some e) :
    ∃ w, b.inForce = some w ∧ b.image? = some w.image ∧ e ∈ w.image.routes := by
  unfold Blocks.routeEntry Blocks.image? at *
  obtain ⟨i, hi, he⟩ := Option.bind_eq_some_iff.mp h
  obtain ⟨w, hw, rfl⟩ := Option.map_eq_some_iff.mp hi
  exact ⟨w, hw, by rw [hw]; rfl, List.mem_of_getElem? he⟩

namespace Blocks.Sound

variable {b : Blocks}

theorem availability {d : Blocks} {e : RouteEntry} {route n : Nat} {sweep : Bool} {i : Option Identity} {c : Nat}
    (h : b.Sound) (he : b.routeEntry n = some e) (hd : b.availability e route sweep i c = .applied d) : d.Sound := by
  unfold Blocks.availability at hd
  split at hd
  · cases hd
  rename_i slot hslot
  split at hd
  · cases hd
  · cases hd
  split at hd
  · cases hd
  rename_i a ha
  split at hd
  · cases hd
  rename_i f hf
  cases hd
  obtain ⟨w, hw, himg, hmem⟩ := Blocks.routeEntry_mem he
  have hclaim := h.claim hf (slot_ne_area slot) (b.routeClaim_proper slot e sweep i a)
    ((h.apart w hw).routeClaim himg hmem slot sweep i a (Blocks.protection_overlap ha))
  refine hclaim.createEntry ?_ e route sweep i c a
  rw [Blocks.routeRec_congr (Blocks.claim_routes hf).1]
  exact Blocks.routeRec_of_freeSlot hslot

theorem wait (h : b.Sound) (w : WaitingRec) : (b.wait w).Sound := by
  unfold Blocks.wait
  split
  · exact h.of_neutral (·.answer _ _ _)
  · exact h.of_neutral (·.setWaiting _)

theorem answer (h : b.Sound) (c : Nat) (o : CellOutcome) (d : Detail) : (b.answer c o d).Sound :=
  h.of_neutral (·.answer c o d)

theorem unwait (h : b.Sound) (route : Nat) : (b.unwait route).Sound := h.of_neutral (·.setWaiting _)

theorem setRouteObserving (h : b.Sound) (q : Request) : (b.setRouteObserving q).Sound := by
  unfold Blocks.setRouteObserving
  dsimp only
  split
  · exact h.answer _ _ _
  · split
    · exact h.wait _
    · exact h.answer _ _ _

theorem setRouteNew {n : Nat} {e : RouteEntry} (h : b.Sound) (he : b.routeEntry n = some e) (q : Request) :
    (b.setRouteNew q e).Sound := by
  unfold Blocks.setRouteNew
  dsimp only
  split
  · exact h.answer _ _ _
  · split
    · rename_i d hd
      exact h.availability he hd
    · exact (h.of_neutral (·.askToken _)).wait _
    · split
      · exact h.answer _ _ _
      · exact h.wait _

end Blocks.Sound

theorem Blocks.Neutral.clearPassage {a b : Blocks} (h : Blocks.Neutral a b) (e : RouteEntry) (r : RouteRec) :
    Blocks.Neutral a (b.clearPassage e r) :=
  .foldl _ (fun _ n h => h.updSection n (fun s => { s with passage := false }) (fun _ => rfl)) _ _ h

theorem Blocks.Neutral.reDrives {a : Blocks} (ps : List PointPos) : ∀ b, Blocks.Neutral a b →
    Blocks.Neutral a (b.reDrives ps).1 := by
  induction ps with
  | nil => exact fun _ h => h
  | cons p ps ih =>
    intro b h
    unfold Blocks.reDrives
    split
    · exact ih _ (h.drive _ _)
    · exact ih _ h

/-- The entry of a slot after neutral operations, in the same state. -/
theorem Blocks.Neutral.entryAt {b d : Blocks} (h : Blocks.Neutral b d) {slot : Nat} {e : RouteEntry} {x : RouteRec}
    (he : b.entryAt slot = some (e, x)) : ∃ y, d.entryAt slot = some (e, y) ∧ y.state = x.state := by
  obtain ⟨y, hy, hv⟩ := h.toSameClaims.entryAt he
  exact ⟨y, hy, congrArg (·.2.1) hv⟩

namespace Blocks.Sound

variable {b : Blocks}

theorem reClear {slot : Nat} {e : RouteEntry} {r : RouteRec} (h : b.Sound) (he : b.entryAt slot = some (e, r))
    (hs : r.state = .held) (c : Nat) : (b.reClear slot e r c).Sound := by
  have hu := fun f => h.updRoute slot (fun r => { r with reason := f }) (fun _ => rfl)
  unfold Blocks.reClear
  split
  · exact (hu _).answer _ _ _
  · have hn := ((Blocks.Neutral.refl b).clearPassage e r).updRoute slot (fun r => { r with cell := some c })
      (fun _ => rfl)
    obtain ⟨y, hy, hst⟩ := hn.entryAt he
    rw [hs] at hst
    exact (hn.sound h).clearEntry hy (by rw [hst]; decide) (by rw [hst]; decide) (by rw [hst]; decide) r

theorem reDrive {slot : Nat} {e : RouteEntry} {r : RouteRec} (h : b.Sound) (he : b.entryAt slot = some (e, r))
    (hs : r.state = .stalled) (c : Nat) : (b.reDrive slot e r c).Sound := by
  have hu := fun f => h.updRoute slot (fun r => { r with reason := f }) (fun _ => rfl)
  have hn := Blocks.Neutral.reDrives (a := b) (b.claimedPoints e r) b (.refl b)
  unfold Blocks.reDrive
  split
  · exact (hu _).answer _ _ _
  · dsimp only
    split
    · refine answer ?_ _ _ _
      exact (hn.sound h).updRoute slot _ (fun _ => rfl)
    · obtain ⟨y, hy, hst⟩ := (hn.clearPassage e r).entryAt he
      rw [hs] at hst
      exact ((hn.clearPassage e r).sound h).updState hy (by rw [hst]; decide) (by rw [hst]; decide)
        (by rw [hst]; decide) _ (fun _ => rfl)

theorem setRoute (h : b.Sound) (q : Request) : (b.setRoute q).Sound := by
  unfold Blocks.setRoute
  split
  · exact h.answer _ _ _
  split
  · exact h.setRouteObserving q
  dsimp only
  split
  · split
    · exact h
    · rename_i e r he
      split
      · rename_i hs
        exact h.reClear he hs _
      · rename_i hs
        exact h.reDrive he hs _
      · exact h.answer _ _ _
  · split
    · exact h.answer _ _ _
    · split
      · exact h
      · rename_i e he
        exact h.setRouteNew he q

/-! ### The waiting list (3.4) -/

theorem examine (h : b.Sound) (w : WaitingRec) : (b.examine w).Sound := by
  unfold Blocks.examine
  split
  · exact h
  rename_i e he
  split
  · exact (h.unwait _).answer _ _ _
  · split
    · rename_i d hd
      exact (h.unwait w.route).availability (n := w.route) he hd
    · exact h.of_neutral (·.askToken _)
    · split
      · exact (h.unwait _).answer _ _ _
      · exact h

theorem waitingPass (h : b.Sound) : b.waitingPass.Sound := by
  unfold Blocks.waitingPass
  refine foldl _ (fun b w h => ?_) _ _ h
  split
  · exact h.examine w
  · exact h

theorem refuseTokenWaits (h : b.Sound) (line : Nat) : (b.refuseTokenWaits line).Sound :=
  foldl _ (fun _ _ h => h.answer _ _ _) _ _ (h.of_neutral (·.setWaiting _))

theorem waitingExpiry {d : Blocks} {route : Nat} {t : Bool} {o : CellOutcome} (h : b.Sound)
    (hd : b.waitingExpiry route t o = some d) : d.Sound := by
  unfold Blocks.waitingExpiry at hd
  (repeat' split at hd) <;> cases hd
  exact (h.unwait _).answer _ _ _

/-! ### CANCEL ROUTE and the timers of an entry (R78 to R83, R57, R101) -/

theorem cancelCleared {slot : Nat} {e : RouteEntry} {r : RouteRec} (h : b.Sound) (he : b.entryAt slot = some (e, r))
    (hs : r.state = .cleared ∨ r.state = .held) (c : Nat) : (b.cancelCleared slot e r c).Sound := by
  have hp : r.state ≠ .passing ∧ r.state ≠ .emergency := by rcases hs with q | q <;> rw [q] <;> decide
  have hstop := (h.commandStop he).of_neutral fun hn =>
    (hn.updRoute slot (fun r => { r with cell := none }) (fun _ => rfl)).answerOpt r.cell .withdrawn .none
  have hn : Blocks.Neutral (b.commandSignal slot e.entry .stop) _ :=
    ((Blocks.Neutral.refl _).updRoute slot (fun r => { r with cell := none }) (fun _ => rfl)).answerOpt r.cell
      .withdrawn .none
  obtain ⟨y, hy, hst⟩ := hn.entryAt ((b.commandSignal_entryAt slot e.entry slot .stop).trans he)
  unfold Blocks.cancelCleared
  dsimp only
  split
  · exact (hstop.toSound.wholeRelease slot).answer _ _ _
  · refine answer (Blocks.Rests.toSound (slot := slot) ?_) _ _ _
    exact hstop.updState hy _ (fun _ => rfl) (by rw [hst]; exact hp.1) (by rw [hst]; exact hp.2)

theorem cancelRoute (h : b.Sound) (q : Request) : (b.cancelRoute q).Sound := by
  unfold Blocks.cancelRoute
  dsimp only
  split
  · exact h.answer _ _ _
  split
  · exact ((h.unwait _).answer _ _ _).answer _ _ _
  split
  · exact h.answer _ _ _
  rename_i slot e r hse
  obtain ⟨s, -, hs⟩ := Option.bind_eq_some_iff.mp hse
  obtain ⟨y, he, hy⟩ := Option.map_eq_some_iff.mp hs
  cases hy
  split
  · exact (h.wholeRelease slot).answer _ _ _
  · exact (h.wholeRelease slot).answer _ _ _
  · exact (h.wholeRelease slot).answer _ _ _
  · rename_i hst
    exact h.cancelCleared he (.inl hst) _
  · rename_i hst
    exact h.cancelCleared he (.inr hst) _
  · split
    · exact h
    · exact h.answer _ _ _
  · exact h.answer _ _ _
  · exact h.answer _ _ _

theorem routeTimerExpiry {d : Blocks} {slot : Nat} {k : TimerKind} (h : b.Sound)
    (hd : b.routeTimerExpiry slot k = some d) : d.Sound := by
  unfold Blocks.routeTimerExpiry at hd
  (repeat' split at hd) <;> cases hd
  exact h.wholeRelease slot

theorem entryWaitExpiry {d : Blocks} {slot : Nat} (h : b.Sound) (hd : b.entryWaitExpiry slot = some d) : d.Sound := by
  unfold Blocks.entryWaitExpiry at hd
  (repeat' split at hd) <;> cases hd
  exact (h.tearDown slot).of_neutral (·.freeEntry _ _)

theorem overlapExpiry {d : Blocks} {slot : Nat} (h : b.Sound) (hd : b.overlapExpiry slot = some d) : d.Sound := by
  unfold Blocks.overlapExpiry at hd
  (repeat' split at hd) <;> cases hd
  exact h.overlapTimeout slot

/-! ### Emergency release (4.4) and CALL POINTS (3.6) -/

theorem startEmergency {slot : Nat} {e : RouteEntry} {r : RouteRec} (h : b.Sound) (he : b.entryAt slot = some (e, r))
    (hs : r.state ≠ .cleared) : (b.startEmergency slot e r).Sound := by
  have hgo : ∀ c : Blocks, c.Rests slot → ∀ t, ((c.updRoute slot (fun r => { r with
      state := .emergency, timer := t, cell := none })).answerOpt r.cell .withdrawn .none).Sound := fun c hc t =>
    (hc.updRoute (fun r => { r with state := .emergency, timer := t, cell := none })
      (fun _ _ _ => RouteRec.givesBack_emergency rfl)).toSound.of_neutral (·.answerOpt _ _ _)
  unfold Blocks.startEmergency
  dsimp only
  split
  · exact hgo _ (h.commandStop he) _
  · exact hgo _ (h.rests_of_state he hs) _

theorem emergencyRelease (h : b.Sound) (route c : Nat) : (b.emergencyRelease route c).Sound := by
  unfold Blocks.emergencyRelease
  split
  · exact h.answer _ _ _
  rename_i slot e r hse
  obtain ⟨s, -, hs⟩ := Option.bind_eq_some_iff.mp hse
  obtain ⟨y, he, hy⟩ := Option.map_eq_some_iff.mp hs
  cases hy
  have hgo := fun hst => (h.startEmergency he hst).answer c .done .none
  split
  · rename_i hst
    exact hgo (by rw [hst]; decide)
  · rename_i hst
    exact hgo (by rw [hst]; decide)
  · rename_i hst
    exact hgo (by rw [hst]; decide)
  · rename_i hst
    exact hgo (by rw [hst]; decide)
  · split
    · exact h
    · exact h.answer _ _ _
  · exact h.answer _ _ _

theorem callPoints (h : b.Sound) (q : Request) : (b.callPoints q).Sound := by
  unfold Blocks.callPoints
  dsimp only
  (repeat' split) <;> try exact h.answer _ _ _
  exact h.of_neutral fun hn => ((hn.overtakeCall _).updPoint _ (fun p => { p with pendingCall := some q.cell })
    (fun _ => rfl)).drive _ _

end Blocks.Sound

end Sys2Proof.Machine
end

section

namespace Sys2Proof.Machine

/-! ### The border unit keeps the invariant (07) -/

namespace Blocks.Neutral

variable {a b : Blocks}

theorem setToken (h : Neutral a b) (n : Nat) (t : Token) (r : Report) : Neutral a (b.setToken n t r) :=
  (h.updLine n _).queueRecord _ r

theorem startHandover (h : Neutral a b) (n s : Nat) (i : Option Identity) : Neutral a (b.startHandover n s i) := by
  unfold Blocks.startHandover
  dsimp only
  refine updLine _ _ (sendLine _ _ ?_)
  split
  · exact h.raiseAlarm _ _ _
  · exact h

theorem testHandover (h : Neutral a b) (n : Nat) : Neutral a (b.testHandover n) := by
  unfold Blocks.testHandover
  split
  · split
    · exact h
    · split
      · exact h.startHandover _ _ _
      · exact h
  · exact h

theorem handoverSendTime {d : Blocks} (h : Neutral a b) {n : Nat} (e : b.handoverSendTime n = some d) :
    Neutral a d := by
  unfold Blocks.handoverSendTime at e
  (repeat' split at e) <;> cases e
  · exact (h.sendLine _ _).updLine _ _
  · exact (h.raiseAlarm _ _ _).updLine _ _

theorem refuseTokenWaits (h : Neutral a b) (n : Nat) : Neutral a (b.refuseTokenWaits n) :=
  foldl _ (fun _ _ h => h.answer _ _ _) _ _ (h.setWaiting _)

theorem endTokenAsk (h : Neutral a b) (n : Nat) : Neutral a (b.endTokenAsk n) := by
  unfold Blocks.endTokenAsk
  split
  · exact (h.updLine _ _).refuseTokenWaits _
  · exact h

theorem tokenWaitExpiry {d : Blocks} (h : Neutral a b) {n : Nat} (e : b.tokenWaitExpiry n = some d) : Neutral a d := by
  unfold Blocks.tokenWaitExpiry at e
  (repeat' split at e) <;> cases e
  exact h.endTokenAsk _

theorem blockLine (h : Neutral a b) (n : Nat) : Neutral a (b.blockLine n) := (h.updLine _ _).setToken _ _ _

theorem checkToken (h : Neutral a b) (n : Nat) : Neutral a (b.checkToken n) := by
  unfold Blocks.checkToken
  split
  · split
    · dsimp only
      split
      · exact (h.raiseAlarm _ _ _).updLine _ _
      · exact (h.raiseAlarm _ _ _).blockLine _
    · exact h
  · exact h

theorem recheckToken (h : Neutral a b) (n : Nat) : Neutral a (b.recheckToken n) := by
  unfold Blocks.recheckToken
  split
  · exact h
  · split
    · split
      · split
        · exact h
        · exact h.blockLine _
      · exact (h.updLine _ _).endAlarm _ _ _
    · exact h

theorem discardTelegram (h : Neutral a b) (p : Nat) : Neutral a (b.discardTelegram p) := by
  unfold Blocks.discardTelegram
  split
  · exact h
  · dsimp only
    split
    · exact h.updLink _ _
    · exact (h.updLink _ _).raiseAlarm _ _ _

theorem setCollected (h : Neutral a b) (p : Nat) (cs : List LineChar) : Neutral a (b.setCollected p cs) :=
  h.of_eq _ rfl rfl

theorem breakOff (h : Neutral a b) (p : Nat) : Neutral a (b.breakOff p) := by
  unfold Blocks.breakOff
  split
  · exact h
  · exact (h.setCollected _ _).discardTelegram _

theorem protocolError (h : Neutral a b) (p : Nat) : Neutral a (b.protocolError p) := by
  unfold Blocks.protocolError
  split
  · exact h
  · split
    · exact h
    · exact (h.updLink _ _).raiseAlarm _ _ _

theorem writeViews (h : Neutral a b) (p : Nat) (vs : List LineView) : Neutral a (b.writeViews p vs) := by
  unfold Blocks.writeViews
  refine foldl _ (fun b k h => ?_) _ _ h
  split
  · exact h
  · exact h.updLine _ _

theorem recoverGrant (h : Neutral a b) (r : Option LineRec) (n : Nat) : Neutral a (b.recoverGrant r n) := by
  unfold Blocks.recoverGrant
  split
  · split
    · exact h
    · split
      · exact h.updRoute _ _ (fun _ => rfl)
      · exact h
  · exact h

theorem sendDeferredFree (h : Neutral a b) (n : Nat) : Neutral a (b.sendDeferredFree n) := by
  unfold Blocks.sendDeferredFree
  split
  · exact h
  · exact (h.sendLine _ _).updLine _ _

theorem linkBecomesUp (h : Neutral a b) (p : Nat) : Neutral a (b.linkBecomesUp p) :=
  foldl _ (fun _ n h => h.sendDeferredFree n) _ _ <|
    foldl _ (fun _ x h => h.recoverGrant x.2 x.1) _ _ <|
      foldl _ (fun _ n h => h.checkToken n) _ _ ((h.updLink p _).endAlarm _ _ _)

theorem lineStateInterval {d : Blocks} (h : Neutral a b) (e : b.lineStateInterval = some d) : Neutral a d := by
  unfold Blocks.lineStateInterval at e
  (repeat' split at e) <;> cases e
  exact foldl _ (fun _ p h => h.sendBorder p _) _ _ (h.of_eq _ rfl rfl)

theorem onTokenAsk (h : Neutral a b) (n : Nat) : Neutral a (b.onTokenAsk n) := by
  have hd := h.sendLine n (.tokenDecline n)
  unfold Blocks.onTokenAsk
  split
  · dsimp only
    split
    · exact hd
    split
    · exact h
    split
    · exact hd
    split
    · exact hd
    split
    · exact hd
    split
    · exact hd
    · exact (h.updLine _ _).setToken _ _ _
  · exact h

theorem onTokenGive (h : Neutral a b) (n : Nat) : Neutral a (b.onTokenGive n) := by
  unfold Blocks.onTokenGive
  split
  · split
    · exact h.protocolError _
    · split
      · split
        · exact h.protocolError _
        · exact ((h.updLine _ _).setToken _ _ _).noticeTokenHeld
      · exact h
  · exact h

theorem onEntryGrant (h : Neutral a b) (n : Nat) (r : Word16) : Neutral a (b.onEntryGrant n r) := by
  unfold Blocks.onEntryGrant
  split
  · exact h.sendLine _ _
  · split
    · exact (h.forgetEntryAsk _).updRoute _ _ (fun _ => rfl)
    · exact h.sendLine _ _
    · exact h
    · exact h

theorem onTrainPass (h : Neutral a b) (n : Nat) (i : Option Identity) : Neutral a (b.onTrainPass n i) := by
  have hs := h.sendLine n (.trainTaken n)
  unfold Blocks.onTrainPass
  dsimp only
  split
  · split
    · exact (hs.updLine _ _).writeIdentity _ _ _
    · exact hs.updLine _ _
  · exact hs

theorem openTelegram (h : Neutral a b) (p : Nat) (c : LineChar) : Neutral a (b.openTelegram p c) := by
  unfold Blocks.openTelegram
  dsimp only
  split
  · exact (h.breakOff p).setCollected _ _
  · exact (h.breakOff p).discardTelegram _

theorem joinTelegram (h : Neutral a b) (p : Nat) (c : LineChar) : Neutral a (b.joinTelegram p c) := by
  unfold Blocks.joinTelegram
  split
  · exact h
  · dsimp only
    split
    · split
      · exact h.setCollected _ _
      · split
        · exact h.setCollected _ _
        · exact (h.setCollected _ _).discardTelegram _
    · exact h.setCollected _ _

theorem onInvalidTelegram {d : Blocks} (h : Neutral a b) {p : Nat} {cs : List LineChar}
    (e : b.onInvalidTelegram p cs = some d) : Neutral a d := by
  unfold Blocks.onInvalidTelegram at e
  split at e
  · cases e
    refine foldl _ (fun b c h => ?_) _ _ h
    unfold Blocks.collectChar
    split
    · exact h.openTelegram p c
    · exact h.joinTelegram p c
  · cases e

end Blocks.Neutral

theorem Blocks.lineEntry_mem {b : Blocks} {n : Nat} {e : LineEntry} (h : b.lineEntry n = some e) :
    ∃ w, b.inForce = some w ∧ e ∈ w.image.lines := by
  unfold Blocks.lineEntry Blocks.image? at h
  obtain ⟨i, hi, he⟩ := Option.bind_eq_some_iff.mp (Option.filter_eq_some_iff.mp h).1
  obtain ⟨w, hw, rfl⟩ := Option.map_eq_some_iff.mp hi
  exact ⟨w, hw, List.mem_of_getElem? he⟩

namespace Blocks.Sound

variable {b : Blocks}

theorem releaseReception (h : b.Sound) (n : Nat) : (b.releaseReception n).Sound := by
  unfold Blocks.releaseReception
  split
  · exact (h.release (line_ne_area n) _).of_neutral (·.updLine _ _)
  · exact h

theorem testGrant (h : b.Sound) (n : Nat) : (b.testGrant n).Sound := by
  unfold Blocks.testGrant
  split
  · split
    · exact h
    · split
      · exact (h.releaseReception n).of_neutral (·.sendLine _ _)
      · split
        · exact h.of_neutral fun hn => (hn.updLine _ _).sendLine _ _
        · exact h
  · exact h

theorem releaseReceptionFront (h : b.Sound) (e : LineEntry) (n : Nat) (r : Reception) :
    (b.releaseReceptionFront e n r).Sound := by
  unfold Blocks.releaseReceptionFront
  split
  · exact h
  · dsimp only
    split
    · exact (h.release (line_ne_area n) _).of_neutral (·.updLine _ _)
    · exact (h.release (line_ne_area n) _).of_neutral (·.updLine _ _)

theorem receptionPassage (fuel n : Nat) : ∀ b : Blocks, b.Sound → (Blocks.receptionPassage fuel b n).Sound := by
  induction fuel with
  | zero => exact fun _ h => h
  | succ fuel ih =>
    intro b h
    unfold Blocks.receptionPassage
    split
    · split
      · exact ih _ (h.releaseReceptionFront _ n _)
      · exact h
    · exact h

theorem reactLine (h : b.Sound) (n : Nat) : (b.reactLine n).Sound :=
  receptionPassage 6 n _ ((h.of_neutral (·.testHandover n)).testGrant n)

theorem testOutgoing (h : b.Sound) (n : Nat) : (b.testOutgoing n).Sound := by
  unfold Blocks.testOutgoing
  split
  · rename_i l _ _
    split
    · exact h
    · rename_i v _
      dsimp only
      generalize (if v.outgoing then 0 else min 2 (l.outgoingNone + 1)) = k
      split
      · exact h.of_neutral (·.updLine _ _)
      · split
        · exact (h.of_neutral (·.updLine _ _)).releaseReception n
        · exact h.of_neutral (·.updLine _ _)
  · exact h

theorem countLineState (h : b.Sound) (p : Nat) : (b.countLineState p).Sound := by
  unfold Blocks.countLineState
  split
  · exact h
  · split
    · exact h.of_neutral (·.updLink _ _)
    · dsimp only
      split
      · exact h.of_neutral fun hn => (hn.updLink _ _).linkBecomesUp p
      · exact h.of_neutral (·.updLink _ _)
    · exact foldl _ (fun _ n h => (h.of_neutral (·.recheckToken n)).testOutgoing n) _ _ h

/-- R125: a telegram received, valid or not. -/
theorem receive {d : Blocks} {t : TelegramHead} {n : Option Nat} {act : Blocks → Blocks} (h : b.Sound)
    (hact : ∀ c : Blocks, c.Sound → (act c).Sound) (e : b.receive t n act = some d) : d.Sound := by
  have hb := h.of_neutral (·.breakOff t.port)
  unfold Blocks.receive at e
  split at e
  · dsimp only at e
    split at e <;> cases e
    · exact hact _ (hb.of_neutral (·.updLink _ _))
    · exact hb.of_neutral (·.discardTelegram _)
  · cases e

theorem receiveLine {d : Blocks} {t : TelegramHead} {n : Byte} {act : Blocks → Nat → Blocks} (h : b.Sound)
    (hact : ∀ (c : Blocks) k, c.Sound → (act c k).Sound) (e : b.receiveLine t n act = some d) : d.Sound := by
  refine h.receive (fun c hc => ?_) e
  split
  · exact hact c _ hc
  · exact hc

theorem onLineState {d : Blocks} {t : TelegramHead} {vs : List LineView} (h : b.Sound)
    (e : b.onLineState t vs = some d) : d.Sound :=
  h.receive (fun _ hc => (hc.of_neutral (·.writeViews _ _)).countLineState _) e

theorem loseGrant (h : b.Sound) (n : Nat) : (b.loseGrant n).Sound := by
  unfold Blocks.loseGrant
  split
  · exact h
  · split
    · exact h
    · split
      · exact (h.of_neutral (·.forgetEntryAsk n)).tearDown _
      · split
        · exact h
        · exact h.updRoute _ _ (fun _ => rfl)
      · exact h

theorem lineDown (h : b.Sound) (n : Nat) (t : Clock) : (b.lineDown n t).Sound := by
  unfold Blocks.lineDown
  split
  · exact h
  · have hl := ((h.of_neutral (·.endTokenAsk n)).loseGrant n).of_neutral (·.updLine n (fun l =>
      { l with disagreement := false, outgoingNone := 0 }))
    dsimp only
    split
    · exact hl
    · exact hl.of_neutral (·.endAlarm _ _ _)

theorem linkSilence {d : Blocks} {p : Nat} (h : b.Sound) (e : b.linkSilence p = some d) : d.Sound := by
  unfold Blocks.linkSilence at e
  dsimp only at e
  (repeat' split at e) <;> cases e
  · exact foldl _ (fun _ n h => h.lineDown n _) _ _ (h.of_neutral fun hn => (hn.updLink _ _).raiseAlarm _ _ _)
  · exact h.of_neutral (·.updLink _ _)

theorem onEntryAsk (h : b.Sound) (n : Nat) (r : Word16) (i : Option Identity) : (b.onEntryAsk n r i).Sound := by
  have hdeny := h.of_neutral (·.sendLine n (.entryDeny n r))
  unfold Blocks.onEntryAsk
  split
  · rename_i e l he hl
    dsimp only
    split
    · exact hdeny
    split
    · exact hdeny
    split
    · exact hdeny
    split
    · split
      · split
        · exact h.of_neutral (·.sendLine _ _)
        · exact h
      · exact hdeny
    · split
      · exact hdeny
      · rename_i d hd
        obtain ⟨w, hw, hmem⟩ := Blocks.lineEntry_mem he
        exact (h.claim hd (line_ne_area n) (receptionClaim_proper e n i)
          ((h.apart w hw).receptionClaim hmem n i)).of_neutral (·.updLine _ _)
  · exact h

theorem onEntryDeny (h : b.Sound) (n : Nat) (r : Word16) : (b.onEntryDeny n r).Sound := by
  unfold Blocks.onEntryDeny
  split
  · exact h
  · split
    · dsimp only
      split
      · exact (h.of_neutral (·.forgetEntryAsk n)).tearDown _
      · exact h.of_neutral (·.forgetEntryAsk n)
    · exact h

theorem onEntryFree (h : b.Sound) (n : Nat) (r : Word16) : (b.onEntryFree n r).Sound := by
  unfold Blocks.onEntryFree
  split
  · split
    · exact h.releaseReception n
    · exact h
  · exact h

/-! ### The follow-ups of an event -/

theorem reactRound (h : b.Sound) : b.reactRound.Sound :=
  (foldl _ (fun _ n h => h.reactLine n) _ _ (foldl _ (fun _ n h => h.reactEntry n) _ _ h)).of_neutral (·.clearNotices)

theorem settleRounds (fuel : Nat) : ∀ b : Blocks, b.Sound → (Blocks.settleRounds fuel b).Sound := by
  induction fuel with
  | zero => exact fun _ h => h
  | succ fuel ih =>
    intro b h
    unfold Blocks.settleRounds
    dsimp only
    split
    · exact ih _ (h.reactRound.of_neutral (·.clearFreed)).waitingPass
    · exact h.reactRound.of_neutral (·.clearFreed)

theorem settle (h : b.Sound) : b.settle.Sound := settleRounds 128 b h

end Blocks.Sound

end Sys2Proof.Machine
end

section

namespace Sys2Proof.Machine

/-! ### Possessions and the restriction unit keep the invariant (08) -/

/-- Neutral operations on blocks whose areas are others. -/
theorem Blocks.Neutral.withAreas {b d : Blocks} (h : Blocks.Neutral b d) (rs : List PossessionRec) :
    Blocks.Neutral { b with areas := rs } { d with areas := rs } :=
  { h with areas := rfl }

theorem Blocks.Neutral.ofAreas (b : Blocks) (n : Nat) (f : PossessionRec → PossessionRec) :
    Blocks.Neutral { b with areas := (b.updArea n f).areas } (b.updArea n f) := by
  obtain ⟨_, _, e⟩ := b.updArea_frame n f
  rw [e]
  exact ⟨⟨rfl, rfl, rfl, rfl, rfl, rfl, rfl⟩, id, id⟩

/-- R41: the areas of blocks that show their claims replaced by ones that hold their items alike. -/
theorem Blocks.ClaimsShown.withAreas {b : Blocks} (h : b.ClaimsShown) (rs : List PossessionRec)
    (hrs : ∀ n, (b.holds.filter (fun h => h.claimant = .area n)).map (·.hold) =
      if (rs[n]?).any (fun r => r.state ≠ .free) then b.possessionHolds n else []) :
    ({ b with areas := rs } : Blocks).ClaimsShown := { h with areas := hrs }

theorem Blocks.Sound.withAreas {b : Blocks} (h : b.Sound) (rs : List PossessionRec)
    (hrs : ({ b with areas := rs } : Blocks).ClaimsShown) : ({ b with areas := rs } : Blocks).Sound where
  awake := h.awake
  apart := h.apart
  claims := hrs
  guarded := h.guarded.imp_right fun hg => hg.of_lit rfl rfl (fun _ _ hl => hl)

namespace Blocks.Sound

variable {b : Blocks}

/-- R147: a possession record changed, and its write queued. -/
theorem storeArea {n : Nat} {r : PossessionRec}
    (h : ({ b with areas := (b.updArea n (fun _ => r)).areas } : Blocks).Sound) (a : Answer) :
    (b.storeArea n r a).Sound :=
  ((Blocks.Neutral.ofAreas b n _).queueRecord _ _).sound h

/-- R151: a possession record changed that goes on to hold its area. -/
theorem storeArea_same {n : Nat} {r v : PossessionRec} (h : b.Sound) (hr : b.areas[n]? = some r)
    (hs : r.state ≠ .free) (hv : v.state ≠ .free) (a : Answer) : (b.storeArea n v a).Sound := by
  refine storeArea (h.withAreas _ (h.claims.withAreas _ fun m => ?_)) a
  rw [h.claims.areas m, b.updArea_rec]
  by_cases e : n = m
  · subst e
    simp [hr, hs, hv]
  · rw [if_neg e]

/-- R148: a possession granted: its claim set applied, and the record GRANTED. -/
theorem grant {area : Nat} {r : PossessionRec} (h : b.Sound) (hr : b.areas[area]? = some r) (hs : r.state = .free)
    (ref c : Nat) : (b.grant area ref c).Sound := by
  unfold Blocks.grant
  split
  · exact h.answer _ _ _
  rename_i d hd
  obtain ⟨hav, rfl⟩ := b.claim_applied _ _ _ hd
  refine storeArea ?_ _
  generalize hrs : (Blocks.updArea _ area _).areas = rs
  have hareas : (b.applyClaim (.area area) ((b.possessionHolds area).map Hold.item)).areas = b.areas := by
    obtain ⟨_, _, _, _, _, _, _, _, e⟩ := b.applyClaim_frame (.area area) ((b.possessionHolds area).map Hold.item)
    rw [e]
  have hmap : ((b.possessionHolds area).map Hold.item).map (·.hold) = b.possessionHolds area := by
    simp [Hold.item, Function.comp_def]
  have himage : HoldsApart (b.possessionHolds area) ∧ ∀ x ∈ b.possessionHolds area,
      HoldRec.proper { claimant := .area area, hold := x } = true := by
    unfold Blocks.possessionHolds Blocks.image?
    cases hw : b.inForce with
    | none => exact ⟨⟨fun _ => Nat.zero_le 1, fun _ => Nat.zero_le 1, fun _ => Nat.zero_le 1⟩, nofun⟩
    | some w => exact ⟨(h.apart w hw).possessionHolds area, w.image.possessionHolds_proper area⟩
  have hshown := h.claims.applyClaim (c := .area area) hav (fun i hi => himage.2 i.hold (hmap ▸ List.mem_map_of_mem hi))
    (by rw [hmap]; exact himage.1) rs fun n => by
      rw [← hrs, Blocks.updArea_rec, hareas, b.applyClaim_holds, List.filter_append, List.map_append, h.claims.areas n]
      by_cases e : area = n
      · subst e
        simp [hr, hs, Hold.item, List.filter_map, Function.comp_def]
      · simp [e, List.filter_map, Function.comp_def]
  have hlit := fun (hg : b.SignalsGuarded) n o => Blocks.applyClaim_lit (c := .area area) (n := n) (o := o) hav hg
  have hhalt := b.applyClaim_halt (.area area) ((b.possessionHolds area).map Hold.item)
  obtain ⟨_, _, _, _, _, _, _, _, e⟩ := b.applyClaim_frame (.area area) ((b.possessionHolds area).map Hold.item)
  rw [e] at hshown hlit hhalt ⊢
  exact ⟨h.awake, h.apart, hshown, h.guarded.imp hhalt.trans fun hg => hg.of_lit rfl rfl (hlit hg)⟩

/-- R41, R150: an area that is not FREE has every hold of its possession. -/
theorem hasHolds_area {area : Nat} {r : PossessionRec} (h : b.Sound) (hr : b.areas[area]? = some r)
    (hs : r.state ≠ .free) : b.hasHolds (.area area) (b.possessionHolds area) := by
  have ha := h.claims.areas area
  rw [hr, Option.any_some, if_pos (by simpa using hs)] at ha
  intro x
  rw [← ha, List.count, List.countP_map, List.countP_filter]
  refine le_of_eq (List.countP_congr fun y _ => ?_)
  simp only [Function.comp_def, beq_iff_eq, Bool.and_eq_true, decide_eq_true_eq]
  exact ⟨fun ⟨h1, h2⟩ => by cases y; simp_all, fun h1 => by subst h1; exact ⟨rfl, rfl⟩⟩

/-- R150: a possession lifted: its release set applied, and the record FREE. -/
theorem lift {area : Nat} {r : PossessionRec} (h : b.Sound) (hr : b.areas[area]? = some r) (hs : r.state ≠ .free)
    (c : Nat) : (b.lift area c).Sound := by
  obtain ⟨ks, hk⟩ := Option.isSome_iff_exists.mp ((takeHolds_isSome _ _ _).mpr (h.hasHolds_area hr hs))
  have hrel : b.release (.area area) (b.possessionHolds area) =
      { (b.possessionHolds area).foldl Blocks.releaseItem b with holds := ks }.markFreed := by
    unfold Blocks.release
    rw [hk]
  unfold Blocks.lift
  dsimp only
  generalize hsecs : List.filter _ _ = secs
  have hn : Blocks.Neutral (b.release (.area area) (b.possessionHolds area))
      (secs.foldl (fun b n => b.loseSection n b.clock) (b.release (.area area) (b.possessionHolds area))) :=
    .foldl _ (fun _ n h => h.loseSection n _) _ _ (.refl _)
  refine storeArea ?_ _
  generalize hrs : (Blocks.updArea _ area _).areas = rs
  refine (hn.withAreas rs).sound ?_
  have hareas : (b.release (.area area) (b.possessionHolds area)).areas = b.areas := by
    obtain ⟨_, _, _, _, _, _, _, _, e⟩ := b.release_frame (.area area) (b.possessionHolds area)
    rw [e]
  have hshown := h.claims.release_areas hk (h.claims.possession_once h.apart) rs fun n => by
    rw [← hrs, Blocks.updArea_rec, hn.areas, hareas]
    by_cases e : area = n
    · subst e
      have hcount := (takeHolds_perm hk).1.countP_eq (fun x => x.claimant = .area area)
      have hall := congrArg List.length (h.claims.areas area)
      rw [hr, Option.any_some, if_pos (by simpa using hs), List.length_map, ← List.countP_eq_length_filter] at hall
      have hitems : ((b.possessionHolds area).map
          (fun x => ({ claimant := .area area, hold := x } : HoldRec))).countP (fun x => x.claimant = .area area) =
          (b.possessionHolds area).length := by
        rw [List.countP_map, List.countP_eq_length.mpr (by simp)]
      rw [List.countP_append, hitems, hall] at hcount
      have hz : ks.countP (fun x => x.claimant = .area area) = 0 := by omega
      rw [List.filter_eq_nil_iff.mpr (List.countP_eq_zero.mp hz)]
      simp [hr, PossessionRec.free]
    · rw [takeHolds_filter hk (fun x => x.claimant = .area n) (fun x _ => by simpa using e), if_neg e]
      exact h.claims.areas n
  have hdark := b.release_dark (.area area) (b.possessionHolds area)
  refine ⟨?_, ?_, ?_, ?_⟩
  · obtain ⟨_, _, _, _, _, _, _, _, e⟩ := b.release_frame (.area area) (b.possessionHolds area)
    rw [e]
    exact h.awake
  · intro w hw
    exact h.apart w ((b.release_inForce _ _).symm.trans hw)
  · rw [hrel]
    obtain ⟨⟨_, _, _, _, _, _, _, e⟩, -⟩ :=
      Blocks.TableOnly.foldl Blocks.releaseItem Blocks.TableOnly.releaseItem (b.possessionHolds area) b
    rw [e] at hshown ⊢
    refine Blocks.SameHolds.claimsShown ?_ hshown
    exact ⟨rfl, rfl, rfl, rfl, rfl, rfl⟩
  · rcases hdark with hh | ⟨hh, hl⟩
    · exact .inl hh
    · exact h.guarded.imp hh.trans fun hg =>
        hg.of_lit (b.release_routes _ _) (b.release_inForce _ _) fun n o hno => (hl n o hno).2

theorem grantPossession (h : b.Sound) (q : Request) : (b.grantPossession q).Sound := by
  unfold Blocks.grantPossession
  dsimp only
  split
  · exact h.answer _ _ _
  rename_i r hr
  split
  · exact h.answer _ _ _
  split
  · exact h.answer _ _ _
  · exact h.answer _ _ _
  · rename_i hs
    exact h.grant hr hs _ _

theorem liftPossession (h : b.Sound) (q : Request) : (b.liftPossession q).Sound := by
  unfold Blocks.liftPossession
  dsimp only
  split
  · exact h.answer _ _ _
  rename_i r hr
  split
  · exact h.answer _ _ _
  · exact h.answer _ _ _
  · rename_i hs
    split
    · exact h.lift hr (by rw [hs]; decide) _
    · refine h.storeArea_same hr (by rw [hs]; decide) ?_ _
      dsimp only
      split
      · decide
      · rw [hs]; decide

theorem forceLift (h : b.Sound) (e : Element) (c : Nat) : (b.forceLift e c).Sound := by
  unfold Blocks.forceLift
  split
  · exact h
  rename_i r hr
  split
  · exact h.answer _ _ _
  · rename_i hs
    exact h.lift hr hs c

/-! ### Marks, the arm list and the operations (R144 to R159) -/

end Blocks.Sound

namespace Blocks.Neutral

variable {a b : Blocks}

theorem setReminder (h : Neutral a b) (e : Element) (v : Bool) : Neutral a (b.setReminder e v) := by
  unfold Blocks.setReminder
  split
  · exact h.updSection _ _ (fun _ => rfl)
  · exact h.updPoint _ _ (fun _ => rfl)
  · exact h.updSignal _ _ (fun _ => rfl)
  · exact h

theorem setStanding (h : Neutral a b) (e : Element) (v : Bool) : Neutral a (b.setStanding e v) := by
  unfold Blocks.setStanding
  split
  · exact h.updSection _ _ (fun _ => rfl)
  · exact h.updPoint _ _ (fun _ => rfl)
  · exact h.updSignal _ _ (fun _ => rfl)
  · exact h

theorem applyReminder (h : Neutral a b) (q : Request) : Neutral a (b.applyReminder q) := by
  unfold Blocks.applyReminder
  split
  · exact h.answer _ _ _
  · exact (h.setReminder _ _).answer _ _ _

theorem removeReminder (h : Neutral a b) (q : Request) : Neutral a (b.removeReminder q) := by
  unfold Blocks.removeReminder
  split
  · exact h.answer _ _ _
  · split
    · exact (h.setReminder _ _).answer _ _ _
    · exact h.answer _ _ _

theorem applyStanding (h : Neutral a b) (q : Request) : Neutral a (b.applyStanding q) := by
  unfold Blocks.applyStanding
  split
  · exact h.answer _ _ _
  · split
    · exact h.answer _ _ _
    · exact (h.setStanding _ _).queueRecord _ _

theorem setArms (h : Neutral a b) (x : List ArmRec) : Neutral a { b with arms := x } := h.of_eq _ rfl rfl

theorem arm (h : Neutral a b) (q : Request) : Neutral a (b.arm q) := by
  unfold Blocks.arm
  split
  · exact h.answer _ _ _
  · split
    · exact h.answer _ _ _
    · split
      · exact h.answer _ _ _
      · exact (h.setArms _).answer _ _ _

theorem armExpiry {d : Blocks} (h : Neutral a b) (e : b.armExpiry = some d) : Neutral a d := by
  unfold Blocks.armExpiry at e
  (repeat' split at e) <;> cases e
  exact h.setArms _

theorem restoreSection (h : Neutral a b) (e : Element) (c : Nat) : Neutral a (b.restoreSection e c) := by
  have hrest : ∀ (ok : Bool) d u, Neutral a (if !ok then b.answer c .conflict d
      else if !b.unitTrusted u then b.precondition c .unitNotActive
      else (b.setOccupancy e.number .restoring b.clock none).answer c .done .none) := by
    intro ok d u
    split
    · exact h.answer _ _ _
    split
    · exact h.answer _ _ _
    · exact (h.setOccupancy _ _ _ _).answer _ _ _
  unfold Blocks.restoreSection
  split
  · split
    · exact h.answer _ _ _
    split
    · exact h.answer _ _ _
    · exact hrest _ _ _
  · exact h

theorem removeStanding (h : Neutral a b) (e : Element) (c : Nat) : Neutral a (b.removeStanding e c) := by
  unfold Blocks.removeStanding
  split
  · exact (h.setStanding _ _).queueRecord _ _
  · exact h.answer _ _ _

theorem tokenRestore (h : Neutral a b) (e : Element) (c : Nat) : Neutral a (b.tokenRestore e c) := by
  unfold Blocks.tokenRestore
  split
  · split
    · exact h.answer _ _ _
    split
    · exact h.answer _ _ _
    split
    · exact h.answer _ _ _
    split
    · exact h.answer _ _ _
    · exact ((h.setToken _ _ _).endAlarm _ _ _).noticeTokenHeld
  · exact h

theorem acknowledgeAlarm (h : Neutral a b) (q : Request) : Neutral a (b.acknowledgeAlarm q) := by
  unfold Blocks.acknowledgeAlarm
  dsimp only
  split
  · exact answer _ _ _ (h.of_eq _ rfl rfl)
  · split
    · exact h.answer _ _ _
    · refine answer _ _ _ ?_
      unfold Blocks.acceptAlarm
      split
      · exact h.of_eq _ rfl rfl
      · exact h
      · exact h.of_eq _ rfl rfl

end Blocks.Neutral

namespace Blocks.Sound

variable {b : Blocks}

theorem receptionRelease (h : b.Sound) (e : Element) (c : Nat) : (b.receptionRelease e c).Sound := by
  unfold Blocks.receptionRelease
  split
  · split
    · exact h.answer _ _ _
    split
    · exact h.answer _ _ _
    split
    · exact h.answer _ _ _
    · exact (h.releaseReception _).answer _ _ _
  · exact h.answer _ _ _

/-- R155: EXECUTE, with the operation it runs. -/
theorem execute (h : b.Sound) (q : Request) (op : Blocks → Element → Nat → Blocks)
    (hop : ∀ (d : Blocks) e c, d.Sound → (op d e c).Sound) : (b.execute q op).Sound := by
  unfold Blocks.execute
  split
  · exact h.answer _ _ _
  split
  · exact h.answer _ _ _
  rename_i a _
  have harms := h.of_neutral (·.setArms (b.arms.filter (fun x => x != a)))
  dsimp only
  split
  · exact harms.answer _ _ _
  split
  · exact hop _ _ _ harms
  · exact h.answer _ _ _

end Blocks.Sound

end Sys2Proof.Machine
end

section

namespace Sys2Proof.Machine

/-! ### The entry to HALTED (R184) -/

theorem foldl_same {α β : Type} (get : Blocks → β) (g : Blocks → α → Blocks) (h : ∀ b x, get (g b x) = get b)
    (l : List α) : ∀ b, get (l.foldl g b) = get b := by
  induction l with
  | nil => exact fun _ => rfl
  | cons x l ih => exact fun b => (ih _).trans (h b x)

theorem SectionRec.halt_halt (r : SectionRec) : r.halt.halt = r.halt := by
  unfold SectionRec.halt
  cases h : r.owner <;> rfl

theorem PointRec.halt_halt (r : PointRec) : r.halt.halt = r.halt := rfl

theorem SignalRec.halt_commanded (r : SignalRec) : r.halt.commanded = .stop := by
  unfold SignalRec.halt
  split
  · assumption
  · rfl

theorem SignalRec.halt_halt (r : SignalRec) : r.halt.halt = r.halt := by
  have h := r.halt_commanded
  have hs : r.halt.owningSlot = none ∧ r.halt.flankCount = 0 := by
    unfold SignalRec.halt
    split <;> exact ⟨rfl, rfl⟩
  obtain ⟨h1, h2⟩ := hs
  rw [show r.halt.halt = { r.halt with owningSlot := none, flankCount := 0 } from if_pos h, ← h1, ← h2]

theorem SignalRec.halt_holdView (r : SignalRec) : r.halt.holdView = (none, 0, r.possessionCount) := by
  unfold SignalRec.halt
  split <;> rfl

/-- R184: the owner of a section after the entry to HALTED. -/
theorem SectionRec.halt_owner (r : SectionRec) : r.halt.owner = if r.owner.isPossession then r.owner else .free := by
  unfold SectionRec.halt
  cases h : r.owner <;> simp [Owner.isPossession]

/-- R184: the entry of one slot discarded. -/
def Blocks.dropRoute (b : Blocks) (n : Nat) : Blocks :=
  if (b.routeRec n).isSome then ({ b with routes := b.routes.set n none }).mark (.slot n) else b

theorem Blocks.dropRoutes_eq (b : Blocks) : b.dropRoutes =
    (List.range b.routes.length).foldl Blocks.dropRoute { b with waiting := [] } := rfl

theorem Blocks.dropRoute_frame (b : Blocks) (n : Nat) : ∃ rs w,
    b.dropRoute n = { b with routes := rs, work := w } := by
  unfold Blocks.dropRoute
  split <;> exact ⟨_, _, rfl⟩

theorem Blocks.dropRoute_routeRec (b : Blocks) (n k : Nat) :
    (b.dropRoute n).routeRec k = if n = k then none else b.routeRec k := by
  unfold Blocks.dropRoute
  split
  · refine (b.set_routeRec n k none).trans ?_
    rw [ite_self]
  · rename_i hs
    by_cases e : n = k
    · subst e
      rw [if_pos rfl]
      exact Option.not_isSome_iff_eq_none.mp hs
    · rw [if_neg e]

theorem Blocks.dropRoutes_frame (b : Blocks) : ∃ rs w,
    b.dropRoutes = { b with waiting := [], routes := rs, work := w } := by
  suffices h : ∀ (l : List Nat) (c : Blocks), ∃ rs w, l.foldl Blocks.dropRoute c = { c with routes := rs, work := w } from
    h _ { b with waiting := [] }
  intro l
  induction l with
  | nil => exact fun c => ⟨_, _, rfl⟩
  | cons n l ih =>
    intro c
    obtain ⟨_, _, e⟩ := c.dropRoute_frame n
    obtain ⟨rs, w, e'⟩ := ih (c.dropRoute n)
    rw [List.foldl_cons, e', e]
    exact ⟨rs, w, rfl⟩

/-- R184: no entry is left. -/
theorem Blocks.dropRoutes_routeRec (b : Blocks) (k : Nat) : b.dropRoutes.routeRec k = none := by
  have hfold : ∀ (l : List Nat) (c : Blocks),
      (l.foldl Blocks.dropRoute c).routeRec k = if k ∈ l then none else c.routeRec k := by
    intro l
    induction l with
    | nil => intro c; rfl
    | cons n l ih =>
      intro c
      rw [List.foldl_cons, ih, Blocks.dropRoute_routeRec]
      by_cases e : n = k
      · simp [e]
      · simp [e, Ne.symm e]
  rw [b.dropRoutes_eq, hfold]
  split
  · rfl
  · rename_i hk
    rw [List.mem_range, not_lt] at hk
    unfold Blocks.routeRec
    rw [List.getElem?_eq_none hk]
    rfl

/-- Every record of a kind changed by one function. -/
theorem foldl_range_upd {ρ : Type} (get : Blocks → Nat → Option ρ) (g : Blocks → Nat → Blocks) (f : ρ → ρ)
    (hf : ∀ r, f (f r) = f r) (hg : ∀ b n m, get (g b n) m = if n = m then (get b m).map f else get b m) (k : Nat)
    (b : Blocks) (m : Nat) (hm : ∀ r, get b m = some r → m < k) :
    get ((List.range k).foldl g b) m = (get b m).map f := by
  have h := foldl_get (get · m) g (fun r n => if n = m then f r else r) (fun b n => by
    rw [hg]
    by_cases e : n = m <;> simp [e]) (List.range k) b
  rw [h]
  cases hr : get b m with
  | none => rfl
  | some r =>
    rw [Option.map_some, Option.map_some, foldl_idem _ f (fun n => n = m) _ hf (fun n _ r => by simp), if_pos]
    exact List.any_eq_true.mpr ⟨m, List.mem_range.mpr (hm r hr), decide_eq_true rfl⟩

theorem Blocks.haltRecords_rest (b : Blocks) : b.haltRecords.inForce = b.inForce ∧ b.haltRecords.areas = b.areas ∧
    b.haltRecords.routes = b.routes ∧ b.haltRecords.holds = b.holds.filter HoldRec.kept := by
  unfold Blocks.haltRecords
  dsimp only
  have hs := fun l b => foldl_same (fun b => (Blocks.inForce b, Blocks.areas b, Blocks.routes b, Blocks.holds b))
    (fun b n => b.updSection n SectionRec.halt) (fun b n => by
      obtain ⟨_, _, e⟩ := b.updSection_frame n SectionRec.halt
      rw [e]) l b
  have hp := fun l b => foldl_same (fun b => (Blocks.inForce b, Blocks.areas b, Blocks.routes b, Blocks.holds b))
    (fun b n => b.updPoint n PointRec.halt) (fun b n => by
      obtain ⟨_, _, _, _, _, e⟩ := b.updPoint_frame n PointRec.halt
      rw [e]) l b
  have hg := fun l b => foldl_same (fun b => (Blocks.inForce b, Blocks.areas b, Blocks.routes b, Blocks.holds b))
    (fun b n => b.updSignal n SignalRec.halt) (fun b n => by
      obtain ⟨_, _, _, _, _, e⟩ := b.updSignal_frame n SignalRec.halt
      rw [e]) l b
  have hl := fun l b => foldl_same (fun b => (Blocks.inForce b, Blocks.areas b, Blocks.routes b, Blocks.holds b))
    (fun b n => b.updLine n LineRec.halt) (fun b n => by
      obtain ⟨_, _, e⟩ := b.updLine_frame n LineRec.halt
      rw [e]) l b
  simp only [Prod.mk.injEq] at hs hp hg hl
  refine ⟨?_, ?_, ?_, ?_⟩
  · rw [(hl _ _).1, (hg _ _).1, (hp _ _).1, (hs _ _).1]
  · rw [(hl _ _).2.1, (hg _ _).2.1, (hp _ _).2.1, (hs _ _).2.1]
  · rw [(hl _ _).2.2.1, (hg _ _).2.2.1, (hp _ _).2.2.1, (hs _ _).2.2.1]
  · rw [(hl _ _).2.2.2, (hg _ _).2.2.2, (hp _ _).2.2.2, (hs _ _).2.2.2]

@[simp] theorem Blocks.updLine_elements (b : Blocks) (n : Nat) (f : LineRec → LineRec) :
    (b.updLine n f).sections = b.sections ∧ (b.updLine n f).points = b.points ∧ (b.updLine n f).signals = b.signals := by
  obtain ⟨_, _, e⟩ := b.updLine_frame n f
  rw [e]
  exact ⟨rfl, rfl, rfl⟩

theorem Blocks.haltRecords_sectionRec (b : Blocks) (n : Nat) :
    b.haltRecords.sectionRec n = (b.sectionRec n).map SectionRec.halt := by
  unfold Blocks.haltRecords
  dsimp only
  refine (Blocks.sectionRec_congr ?_ n).trans (foldl_range_upd Blocks.sectionRec _ _ SectionRec.halt_halt
    (fun b n m => b.updSection_rec n m _) _ b n fun r hr => (List.getElem?_eq_some_iff.mp hr).1)
  refine (foldl_same Blocks.sections _ (fun b n => (b.updLine_elements n _).1) _ _).trans ?_
  refine (foldl_same Blocks.sections _ (fun b n => b.updSignal_sections n _) _ _).trans ?_
  exact foldl_same Blocks.sections _ (fun b n => b.updPoint_sections n _) _ _

theorem Blocks.haltRecords_pointRec (b : Blocks) (n : Nat) :
    b.haltRecords.pointRec n = (b.pointRec n).map PointRec.halt := by
  unfold Blocks.haltRecords
  dsimp only
  generalize hc : (List.range b.sections.length).foldl (fun b n => b.updSection n SectionRec.halt) b = c
  have hpt : c.points = b.points := by
    rw [← hc]
    exact foldl_same Blocks.points _ (fun b n => b.updSection_points n _) _ _
  rw [← Blocks.pointRec_congr hpt n]
  refine (Blocks.pointRec_congr ?_ n).trans (foldl_range_upd Blocks.pointRec _ _ PointRec.halt_halt
    (fun b n m => b.updPoint_rec n m _) _ c n fun r hr => (List.getElem?_eq_some_iff.mp hr).1)
  refine (foldl_same Blocks.points _ (fun b n => (b.updLine_elements n _).2.1) _ _).trans ?_
  exact foldl_same Blocks.points _ (fun b n => b.updSignal_points n _) _ _

theorem Blocks.haltRecords_signalRec (b : Blocks) (n : Nat) :
    b.haltRecords.signalRec n = (b.signalRec n).map SignalRec.halt := by
  unfold Blocks.haltRecords
  dsimp only
  generalize hc : (List.range b.sections.length).foldl (fun b n => b.updSection n SectionRec.halt) b = c
  generalize hd : (List.range c.points.length).foldl (fun b n => b.updPoint n PointRec.halt) c = d
  have hsig : d.signals = b.signals := by
    rw [← hd, ← hc]
    exact (foldl_same Blocks.signals _ (fun b n => b.updPoint_signals n _) _ _).trans
      (foldl_same Blocks.signals _ (fun b n => b.updSection_signals n _) _ _)
  rw [← Blocks.signalRec_congr hsig n]
  refine (Blocks.signalRec_congr ?_ n).trans (foldl_range_upd Blocks.signalRec _ _ SignalRec.halt_halt
    (fun b n m => b.updSignal_rec n m _) _ d n fun r hr => (List.getElem?_eq_some_iff.mp hr).1)
  exact foldl_same Blocks.signals _ (fun b n => (b.updLine_elements n _).2.2) _ _

/-! ### The holds kept on entry to HALTED -/

theorem HoldRec.kept_iff (h : HoldRec) : h.kept = true ↔ ∃ a, h.claimant = .area a := by
  unfold HoldRec.kept
  cases h.claimant <;> simp

/-- R38: the holds of an area. -/
theorem HoldRec.kept_hold {x : HoldRec} (hp : x.proper = true) (hk : x.kept = true) :
    (∃ n a, x.hold = .sec n (.possession a)) ∨ (∃ n, x.hold = .pointPossession n) ∨
      ∃ n, x.hold = .signalPossession n := by
  obtain ⟨a, ha⟩ := x.kept_iff.mp hk
  unfold HoldRec.proper at hp
  rw [ha] at hp
  cases hx : x.hold with
  | sec n o => simp [hx] at hp; exact .inl ⟨n, a, by rw [hp]⟩
  | pointPossession n => exact .inr (.inl ⟨n, rfl⟩)
  | signalPossession n => exact .inr (.inr ⟨n, rfl⟩)
  | _ => simp [hx] at hp

/-- R38: what only an area asks for. -/
theorem HoldRec.kept_of_hold {x : HoldRec} (hp : x.proper = true) (hx : (∃ n a, x.hold = .sec n (.possession a)) ∨
    (∃ n, x.hold = .pointPossession n) ∨ ∃ n, x.hold = .signalPossession n) : x.kept = true := by
  rw [x.kept_iff]
  unfold HoldRec.proper at hp
  rcases hx with ⟨n, a, h⟩ | ⟨n, h⟩ | ⟨n, h⟩ <;> rw [h] at hp <;> cases hc : x.claimant <;> simp_all

theorem filter_kept_of {hs : List HoldRec} (p : HoldRec → Bool) (h : ∀ x ∈ hs, p x = true → x.kept = true) :
    (hs.filter HoldRec.kept).filter p = hs.filter p := by
  rw [List.filter_filter]
  exact List.filter_congr fun x hx => by
    cases hp : p x with
    | true => rw [h x hx hp]; rfl
    | false => rfl

theorem filter_kept_none {hs : List HoldRec} (p : HoldRec → Bool) (h : ∀ x ∈ hs, p x = true → x.kept = false) :
    (hs.filter HoldRec.kept).filter p = [] := by
  rw [List.filter_filter]
  refine List.filter_eq_nil_iff.mpr fun x hx => ?_
  cases hp : p x with
  | true => simp [h x hx hp]
  | false => simp

/-- R184: the records show the holds of the possessions alone. -/
theorem Blocks.ClaimsShown.haltRecords {b : Blocks} (h : b.ClaimsShown) : b.haltRecords.ClaimsShown := by
  obtain ⟨hin, harea, -, hholds⟩ := b.haltRecords_rest
  have hkept : ∀ x ∈ b.haltRecords.holds, x.proper = true ∧ x.kept = true := by
    intro x hx
    rw [hholds, List.mem_filter] at hx
    exact ⟨h.proper x hx.1, hx.2⟩
  have hnone : ∀ p : Hold → Bool, (∀ n o, p (.sec n o) = false) → (∀ n, p (.pointPossession n) = false) →
      (∀ n, p (.signalPossession n) = false) → b.haltRecords.holds.filter (fun x => p x.hold) = [] := by
    intro p h1 h2 h3
    refine List.filter_eq_nil_iff.mpr fun x hx => ?_
    obtain ⟨hp, hk⟩ := hkept x hx
    rcases HoldRec.kept_hold hp hk with ⟨n, a, e⟩ | ⟨n, e⟩ | ⟨n, e⟩ <;> rw [e]
    · rw [h1]; exact Bool.false_ne_true
    · rw [h2]; exact Bool.false_ne_true
    · rw [h3]; exact Bool.false_ne_true
  have hzero : ∀ p : Hold → Bool, (∀ n o, p (.sec n o) = false) → (∀ n, p (.pointPossession n) = false) →
      (∀ n, p (.signalPossession n) = false) → b.haltRecords.holdCount p = 0 := fun p h1 h2 h3 => by
    unfold Blocks.holdCount
    rw [List.countP_eq_length_filter, hnone p h1 h2 h3]
    rfl
  have hpoint : ∀ n k, b.haltRecords.holdCount (Hold.ofPoint n k) = 0 := fun n k =>
    hzero _ (fun _ _ => rfl) (fun _ => rfl) (fun _ => rfl)
  have hpt : ∀ {n p}, b.haltRecords.pointRec n = some p → ∃ q, b.pointRec n = some q ∧ p = q.halt := by
    intro n p hp
    rw [b.haltRecords_pointRec] at hp
    obtain ⟨q, hq, e⟩ := Option.map_eq_some_iff.mp hp
    exact ⟨q, hq, e.symm⟩
  have hsig : ∀ {n r}, b.haltRecords.signalRec n = some r → ∃ q, b.signalRec n = some q ∧ r = q.halt := by
    intro n r hr
    rw [b.haltRecords_signalRec] at hr
    obtain ⟨q, hq, e⟩ := Option.map_eq_some_iff.mp hr
    exact ⟨q, hq, e.symm⟩
  constructor
  case owner =>
    intro n r hr
    rw [b.haltRecords_sectionRec] at hr
    obtain ⟨v, hv, rfl⟩ := Option.map_eq_some_iff.mp hr
    have howner := h.owner n v hv
    rw [v.halt_owner, hholds]
    have hhold : ∀ x ∈ b.holds, x.hold.ofSection n = true → x.hold = .sec n v.owner := by
      intro x hx hs
      have hm : x.hold ∈ (b.holds.filter (fun h => h.hold.ofSection n)).map (·.hold) :=
        List.mem_map_of_mem (List.mem_filter.mpr ⟨hx, hs⟩)
      rw [howner] at hm
      split at hm
      · cases hm
      · exact List.mem_singleton.mp hm
    cases hpos : v.owner.isPossession with
    | true =>
      rw [if_pos rfl, filter_kept_of _ fun x hx hs => ?_]
      · exact howner
      · refine HoldRec.kept_of_hold (h.proper x hx) (.inl ?_)
        rw [hhold x hx hs]
        cases ho : v.owner <;> simp_all [Owner.isPossession]
    | false =>
      rw [show (if false = true then v.owner else Owner.free) = .free from rfl, if_pos rfl, filter_kept_none _ fun x hx hs => ?_]
      · rfl
      · rw [Bool.eq_false_iff]
        intro hk
        rcases HoldRec.kept_hold (h.proper x hx) hk with ⟨m, a, e⟩ | ⟨m, e⟩ | ⟨m, e⟩
        · rw [hhold x hx hs] at e
          rw [(Hold.sec.inj e).2] at hpos
          cases hpos
        · rw [hhold x hx hs] at e
          cases e
        · rw [hhold x hx hs] at e
          cases e
  case path => intro n p hp; obtain ⟨q, -, rfl⟩ := hpt hp; exact (hpoint n .path).symm
  case overlap => intro n p hp; obtain ⟨q, -, rfl⟩ := hpt hp; exact (hpoint n .overlap).symm
  case flank => intro n p hp; obtain ⟨q, -, rfl⟩ := hpt hp; exact (hpoint n .flank).symm
  case claimed => intro n p hp; obtain ⟨q, -, rfl⟩ := hpt hp; exact iff_of_true rfl rfl
  case position =>
    intro n p hp x hx k y hxy
    obtain ⟨hpr, hk⟩ := hkept x hx
    rcases HoldRec.kept_hold hpr hk with ⟨_, _, e⟩ | ⟨_, e⟩ | ⟨_, e⟩ <;> rw [e] at hxy <;> cases hxy
  case possessed =>
    intro n p hp
    obtain ⟨q, hq, rfl⟩ := hpt hp
    refine (h.possessed n q hq).trans ⟨fun ⟨x, hx, e⟩ => ⟨x, ?_, e⟩, fun ⟨x, hx, e⟩ => ⟨x, ?_, e⟩⟩
    · rw [hholds]
      exact List.mem_filter.mpr ⟨hx, HoldRec.kept_of_hold (h.proper x hx) (.inr (.inl ⟨n, e⟩))⟩
    · rw [hholds] at hx
      exact (List.mem_filter.mp hx).1
  case signalFlank =>
    intro n r hr
    obtain ⟨q, -, rfl⟩ := hsig hr
    rw [hzero (fun h => h = .signalFlank n) (fun _ _ => rfl) (fun _ => rfl) (fun _ => rfl)]
    exact congrArg (·.2.1) q.halt_holdView
  case signalPossession =>
    intro n r hr
    obtain ⟨q, hq, rfl⟩ := hsig hr
    refine (congrArg (·.2.2) q.halt_holdView).trans ((h.signalPossession n q hq).trans ?_)
    unfold Blocks.holdCount
    rw [List.countP_eq_length_filter, List.countP_eq_length_filter, hholds, filter_kept_of]
    intro x hx e
    exact HoldRec.kept_of_hold (h.proper x hx) (.inr (.inr ⟨n, of_decide_eq_true e⟩))
  case entry =>
    intro n r hr
    obtain ⟨q, -, rfl⟩ := hsig hr
    rw [hnone _ (fun _ _ => rfl) (fun _ => rfl) (fun _ => rfl), show q.halt.owningSlot = none from
      congrArg (·.1) q.halt_holdView]
    rfl
  case proper => exact fun x hx => (hkept x hx).1
  case areas =>
    intro n
    have himg : b.haltRecords.possessionHolds n = b.possessionHolds n := by
      unfold Blocks.possessionHolds Blocks.image?
      rw [hin]
    rw [hholds, harea, himg, filter_kept_of _ fun x _ hx => x.kept_iff.mpr ⟨n, of_decide_eq_true hx⟩]
    exact h.areas n

/-- R184: the entry to HALTED leaves the possessions' holds, no signal off STOP and no entry. -/
theorem Blocks.ClaimsShown.enterHalted {b : Blocks} (h : b.ClaimsShown) (raise : Option Clock) :
    (b.enterHalted raise).ClaimsShown ∧ (b.enterHalted raise).SignalsGuarded := by
  have hstore : ∀ c : Blocks, Blocks.SameHolds c c.haltStore := by
    intro c
    unfold Blocks.haltStore
    split <;> exact ⟨rfl, rfl, rfl, rfl, rfl, rfl⟩
  have hset : Blocks.SameHolds b (b.setMode .halted) := ⟨rfl, rfl, rfl, rfl, rfl, rfl⟩
  have hc := (hstore _).claimsShown (hset.claimsShown h)
  unfold Blocks.enterHalted
  dsimp only
  generalize (b.setMode .halted).haltStore = c at hc ⊢
  generalize hd : ({ c with
    sweep := Sweep.off, selfCheckDue := none, lineStateDue := none, work := { c.work with halt := false } } : Blocks) = d
  have hd' : d.ClaimsShown := by
    subst hd
    exact Blocks.SameHolds.claimsShown (b := c) ⟨rfl, rfl, rfl, rfl, rfl, rfl⟩ hc
  have hdrop : d.dropRoutes.ClaimsShown := by
    obtain ⟨_, _, e⟩ := d.dropRoutes_frame
    rw [e]
    exact Blocks.SameHolds.claimsShown (b := d) ⟨rfl, rfl, rfl, rfl, rfl, rfl⟩ hd'
  have hshown := hdrop.haltRecords
  have hguard : d.dropRoutes.haltRecords.SignalsGuarded := by
    constructor
    · intro n r hr hne
      rw [Blocks.haltRecords_signalRec] at hr
      obtain ⟨q, -, rfl⟩ := Option.map_eq_some_iff.mp hr
      exact absurd q.halt_commanded hne
    · intro slot r hr
      rw [Blocks.routeRec_congr d.dropRoutes.haltRecords_rest.2.2.1, d.dropRoutes_routeRec] at hr
      cases hr
  generalize d.dropRoutes.haltRecords = f at hshown hguard
  have hbus : ∀ (g : Blocks) x, Blocks.Neutral f g → Blocks.Neutral f (g.haltBus x) := by
    intro g x hg
    unfold Blocks.haltBus
    dsimp only
    exact (Blocks.Neutral.foldl _ (fun _ _ hg => hg.mark _) _ _ (hg.setBus _ _)).startPoll x
  have hend : ∀ g, Blocks.Neutral f g → ((g.haltBus .a).haltBus .b).ClaimsShown ∧
      ((g.haltBus .a).haltBus .b).SignalsGuarded := fun g hg =>
    ⟨(hbus _ _ (hbus _ _ hg)).sameHolds.claimsShown hshown, (hbus _ _ (hbus _ _ hg)).signalsGuarded hguard⟩
  split
  · exact hend f (.refl f)
  · exact hend _ ((Blocks.Neutral.refl f).raiseAlarm _ _ _)

end Sys2Proof.Machine
end

section

namespace Sys2Proof.Machine

/-! ### The records set up from an image show the possessions (R19, R27, R32, R147) -/

theorem filterMap_range_getElem?_idx {α β : Type} (g : Nat → α → β) (l : List α) :
    (List.range l.length).filterMap (fun k => (l[k]?).map (g k)) = l.mapIdx g := by
  induction l using List.reverseRecOn with
  | nil => rfl
  | append_singleton l x ih =>
    have hl : (List.range l.length).filterMap (fun k => ((l ++ [x])[k]?).map (g k)) =
        (List.range l.length).filterMap (fun k => (l[k]?).map (g k)) :=
      List.filterMap_congr fun k hk => by rw [List.getElem?_append_left (List.mem_range.mp hk)]
    rw [List.length_append, List.length_singleton, List.range_succ, List.filterMap_append, hl, ih, List.mapIdx_concat]
    simp

theorem eq_of_getElem?_map_range {α : Type} {f : Nat → α} {k n : Nat} {x : α} (h : ((List.range k).map f)[n]? = some x) :
    x = f n := by
  obtain ⟨hn, e⟩ := List.getElem?_eq_some_iff.mp h
  rw [List.getElem_map, List.getElem_range] at e
  exact e.symm

theorem sum_ite_eq_countP {α : Type} (q : α → Bool) (l : List α) :
    (l.map (fun a => if q a then 1 else 0)).sum = l.countP q := by
  induction l with
  | nil => rfl
  | cons a l ih => rw [List.map_cons, List.sum_cons, ih, List.countP_cons, Nat.add_comm]

/-- Of the members of a list without repetitions, one alone is picked out. -/
theorem flatMap_ite_eq {α β : Type} [DecidableEq α] (g : α → List β) (n : α) : ∀ l : List α, l.Nodup →
    l.flatMap (fun a => if a = n then g a else []) = if n ∈ l then g n else [] := by
  intro l
  induction l with
  | nil => intro _; rfl
  | cons a l ih =>
    intro hl
    obtain ⟨hna, hl⟩ := List.nodup_cons.mp hl
    rw [List.flatMap_cons, ih hl]
    by_cases e : a = n
    · subst e
      simp [hna]
    · simp [e, Ne.symm e]

theorem filter_eq_find?_toList {α : Type} [DecidableEq α] (q : α → Bool) {l : List α} (hl : l.Nodup)
    (h : ∀ a ∈ l, ∀ c ∈ l, q a = true → q c = true → a = c) : l.filter q = (l.find? q).toList := by
  cases hf : l.find? q with
  | none => exact List.filter_eq_nil_iff.mpr (List.find?_eq_none.mp hf)
  | some a =>
    have ha := List.mem_of_find?_eq_some hf
    have hq := List.find?_some hf
    refine filter_eq_singleton ha hq ?_
    calc l.countP q ≤ l.countP (· == a) := List.countP_mono_left fun c hc hqc => by
            rw [beq_iff_eq]
            exact h c hc a ha hqc hq
      _ ≤ 1 := List.nodup_iff_count_le_one.mp hl a

theorem nodup_heldAreas (i : Image) (p : Persistent) : (heldAreas i p).Nodup := List.nodup_range.filter _

theorem mem_heldAreas {i : Image} {p : Persistent} {a : Nat} :
    a ∈ heldAreas i p ↔ a < i.areas.length ∧ p.holdsArea a = true := by
  unfold heldAreas
  rw [List.mem_filter, List.mem_range]

/-- R148: the holds of a possession that meet a condition, kind by kind. -/
theorem Image.possessionHolds_filter (i : Image) (a : Nat) (q : Hold → Bool) :
    (i.possessionHolds a).filter q = match i.areas[a]? with
      | none => []
      | some e => (e.sections.map (fun n => Hold.sec n (.possession a))).filter q ++
          ((indicesWhere (fun p : PointEntry => e.sections.contains p.sec) i.points).map Hold.pointPossession).filter q ++
          (e.boundary.map Hold.signalPossession).filter q := by
  unfold Image.possessionHolds
  cases i.areas[a]? with
  | none => rfl
  | some e => exact (List.filter_append ..).trans (congrArg (· ++ _) (List.filter_append ..))

/-- The area's sections contain section n. -/
def Image.areaHas (i : Image) (n a : Nat) : Bool := (i.areas[a]?).any (fun e => e.sections.contains n)

/-- R148: a possession's hold on a section: one if the section lies in the area, else none. -/
theorem Image.Apart.possession_section {i : Image} (h : i.Apart) (n a : Nat) :
    (i.possessionHolds a).filter (Hold.ofSection n) = if i.areaHas n a then [.sec n (.possession a)] else [] := by
  unfold Image.areaHas
  rw [i.possessionHolds_filter]
  cases ha : i.areas[a]? with
  | none => rfl
  | some e =>
    have h2 : ((indicesWhere (fun p : PointEntry => e.sections.contains p.sec) i.points).map
        Hold.pointPossession).filter (Hold.ofSection n) = [] := by simp [Hold.ofSection]
    have h3 : (e.boundary.map Hold.signalPossession).filter (Hold.ofSection n) = [] := by simp [Hold.ofSection]
    dsimp only
    rw [h2, h3, List.append_nil, List.append_nil, Option.any_some]
    split
    · rename_i hn
      refine filter_eq_singleton (List.mem_map.mpr ⟨n, by simpa using hn, rfl⟩) (by simp [Hold.ofSection]) ?_
      rw [countP_ofSection_sections]
      exact List.nodup_iff_count_le_one.mp (h.areas e (List.mem_of_getElem? ha)).1 n
    · rename_i hn
      refine List.filter_eq_nil_iff.mpr fun x hx => ?_
      obtain ⟨m, hm, rfl⟩ := List.mem_map.mp hx
      simp only [Hold.ofSection, decide_eq_true_eq]
      rintro rfl
      exact hn (by simpa using hm)

theorem Image.Apart.count_boundary {i : Image} (h : i.Apart) (n a : Nat) :
    (i.possessionHolds a).countP (fun x => x = .signalPossession n) =
      if (i.areas[a]?).any (fun e => e.boundary.contains n) then 1 else 0 := by
  unfold Image.possessionHolds
  cases ha : i.areas[a]? with
  | none => rfl
  | some e =>
    dsimp only
    rw [List.countP_append, List.countP_append, countP_map_eq_zero _ _ _ (fun _ => by simp),
      countP_map_eq_zero _ _ _ (fun _ => by simp), List.countP_map, Option.any_some]
    have hb : e.boundary.countP ((fun x => decide (x = Hold.signalPossession n)) ∘ Hold.signalPossession) =
        e.boundary.count n := by
      rw [List.count]
      exact List.countP_congr fun x _ => by simp
    rw [hb, Nat.zero_add]
    have hn := (h.areas e (List.mem_of_getElem? ha)).2
    simp only [List.contains_iff_mem]
    split
    · exact List.count_eq_one_of_mem hn ‹_›
    · exact List.count_eq_zero_of_not_mem ‹_›

section

variable (b : Blocks) (w : WorkingCopy)

/-- R41: the holds that a set-up makes. -/
theorem Blocks.setUp_holds : (b.setUp w).holds = (heldAreas w.image b.persistent).flatMap (fun a =>
    (w.image.possessionHolds a).map (fun h => { claimant := .area a, hold := h })) := rfl

theorem Blocks.setUp_filter (q : Hold → Bool) : ((b.setUp w).holds.filter (fun x => q x.hold)).map (·.hold) =
    (heldAreas w.image b.persistent).flatMap (fun a => (w.image.possessionHolds a).filter q) := by
  rw [b.setUp_holds w, List.filter_flatMap, List.map_flatMap]
  refine congrArg (List.flatMap · _) (funext fun a => ?_)
  rw [List.filter_map, List.map_map]
  exact List.map_id _

theorem Blocks.setUp_holdCount (q : Hold → Bool) : (b.setUp w).holdCount q =
    ((heldAreas w.image b.persistent).map (fun a => (w.image.possessionHolds a).countP q)).sum := by
  unfold Blocks.holdCount
  rw [b.setUp_holds w, List.countP_flatMap]
  refine congrArg List.sum (List.map_congr_left fun a _ => ?_)
  rw [Function.comp_apply, List.countP_map]
  rfl

/-- R148: what is no hold of a possession is none after a set-up. -/
theorem Blocks.setUp_holdCount_zero (q : Hold → Bool) (h1 : ∀ n o, q (.sec n o) = false)
    (h2 : ∀ n, q (.pointPossession n) = false) (h3 : ∀ n, q (.signalPossession n) = false) :
    (b.setUp w).holdCount q = 0 := by
  rw [b.setUp_holdCount w, List.sum_eq_zero]
  intro x hx
  obtain ⟨a, -, rfl⟩ := List.mem_map.mp hx
  unfold Image.possessionHolds
  split
  · rfl
  · rw [List.countP_append, List.countP_append, countP_map_eq_zero _ _ _ (fun _ => h1 _ _),
      countP_map_eq_zero _ _ _ (fun _ => h2 _), countP_map_eq_zero _ _ _ (fun _ => h3 _)]
    rfl

theorem Blocks.setUp_mem {x : HoldRec} : x ∈ (b.setUp w).holds ↔
    ∃ a ∈ heldAreas w.image b.persistent, x.claimant = .area a ∧ x.hold ∈ w.image.possessionHolds a := by
  rw [b.setUp_holds w, List.mem_flatMap]
  refine exists_congr fun a => and_congr_right fun _ => ?_
  rw [List.mem_map]
  refine ⟨fun ⟨h, hh, e⟩ => ?_, fun ⟨hc, hh⟩ => ⟨x.hold, hh, ?_⟩⟩
  · subst e
    exact ⟨rfl, hh⟩
  · cases x
    cases hc
    rfl

theorem Blocks.setUp_sectionRec {n : Nat} {r : SectionRec} (hr : (b.setUp w).sectionRec n = some r) :
    r = SectionRec.start w.image b.persistent n := by
  change ((List.range _).map (SectionRec.start w.image b.persistent))[n]? = some r at hr
  exact eq_of_getElem?_map_range hr

theorem Blocks.setUp_signalRec {n : Nat} {r : SignalRec} (hr : (b.setUp w).signalRec n = some r) :
    r = SignalRec.start w.image b.persistent n := by
  change ((List.range _).map (SignalRec.start w.image b.persistent))[n]? = some r at hr
  exact eq_of_getElem?_map_range hr

theorem Blocks.setUp_pointRec {n : Nat} {r : PointRec} (hr : (b.setUp w).pointRec n = some r) :
    ∃ e, w.image.points[n]? = some e ∧ r = PointRec.start w.image b.persistent n e := by
  change ((List.range w.image.points.length).filterMap (fun n =>
    (w.image.points[n]?).map (PointRec.start w.image b.persistent n)))[n]? = some r at hr
  rw [filterMap_range_getElem?_idx, List.getElem?_mapIdx] at hr
  obtain ⟨e, he, rfl⟩ := Option.map_eq_some_iff.mp hr
  exact ⟨e, he, rfl⟩

end

/-- R19: the owner that a set-up gives a section. -/
theorem SectionRec.start_owner (i : Image) (p : Persistent) (n : Nat) : (SectionRec.start i p n).owner =
    (((heldAreas i p).find? (i.areaHas n)).map Owner.possession).getD .free := by
  show (match (heldAreas i p).find? (i.areaHas n) with
    | none => Owner.free
    | some a => Owner.possession a) = _
  cases (heldAreas i p).find? (i.areaHas n) <;> rfl

theorem flatMap_ite_singleton {α β : Type} (q : α → Bool) (f : α → β) (l : List α) :
    l.flatMap (fun a => if q a then [f a] else []) = (l.filter q).map f := by
  induction l with
  | nil => rfl
  | cons a l ih =>
    rw [List.flatMap_cons, ih, List.filter_cons]
    split <;> rfl

/-- R41, R147: the records that a set-up makes show the holds of its possessions. -/
theorem Blocks.setUp_claimsShown (b : Blocks) (w : WorkingCopy) (h : w.image.Apart) : (b.setUp w).ClaimsShown := by
  have hpoint : ∀ n k, (b.setUp w).holdCount (Hold.ofPoint n k) = 0 := fun n k =>
    b.setUp_holdCount_zero w _ (fun _ _ => rfl) (fun _ => rfl) (fun _ => rfl)
  constructor
  case owner =>
    intro n r hr
    rw [b.setUp_filter w, b.setUp_sectionRec w hr, SectionRec.start_owner]
    simp only [h.possession_section]
    rw [flatMap_ite_singleton, filter_eq_find?_toList _ (nodup_heldAreas _ _)]
    · cases (heldAreas w.image b.persistent).find? (w.image.areaHas n) with
      | none => rfl
      | some a => rfl
    · intro a _ c _ ha hc
      obtain ⟨e, he, hen⟩ := (Option.any_eq_true ..).mp ha
      obtain ⟨f, hf, hfn⟩ := (Option.any_eq_true ..).mp hc
      by_contra hne
      exact h.disjoint a c e f he hf hne n (by simpa using hen) (by simpa using hfn)
  case path => intro n p hp; obtain ⟨e, -, rfl⟩ := b.setUp_pointRec w hp; exact (hpoint n .path).symm
  case overlap => intro n p hp; obtain ⟨e, -, rfl⟩ := b.setUp_pointRec w hp; exact (hpoint n .overlap).symm
  case flank => intro n p hp; obtain ⟨e, -, rfl⟩ := b.setUp_pointRec w hp; exact (hpoint n .flank).symm
  case claimed => intro n p hp; obtain ⟨e, -, rfl⟩ := b.setUp_pointRec w hp; exact iff_of_true rfl rfl
  case position =>
    intro n p _ x hx k y hxy
    have hpos : 0 < (b.setUp w).holdCount (Hold.ofPoint n k) :=
      List.countP_pos_iff.mpr ⟨x, hx, (Hold.ofPoint_iff n k _).mpr ⟨y, hxy⟩⟩
    rw [hpoint] at hpos
    exact absurd hpos (lt_irrefl 0)
  case possessed =>
    intro n p hp
    obtain ⟨e, he, rfl⟩ := b.setUp_pointRec w hp
    show (heldAreas w.image b.persistent).any (fun a => (w.image.areas[a]?).any (fun x => x.sections.contains e.sec)) =
      true ↔ _
    rw [List.any_eq_true]
    constructor
    · rintro ⟨a, ha, hin⟩
      obtain ⟨f, hf, hfe⟩ := (Option.any_eq_true ..).mp hin
      exact ⟨{ claimant := .area a, hold := .pointPossession n }, (b.setUp_mem w).mpr ⟨a, ha, rfl,
        Image.mem_possessionHolds_point.mpr ⟨f, e, hf, he, by simpa using hfe⟩⟩, rfl⟩
    · rintro ⟨x, hx, hxn⟩
      obtain ⟨a, ha, -, hm⟩ := (b.setUp_mem w).mp hx
      rw [hxn] at hm
      obtain ⟨f, e', hf, he', hs⟩ := Image.mem_possessionHolds_point.mp hm
      cases he.symm.trans he'
      exact ⟨a, ha, by rw [hf]; simpa using hs⟩
  case signalFlank =>
    intro n r hr
    rw [b.setUp_signalRec w hr]
    exact (b.setUp_holdCount_zero w (fun h => h = .signalFlank n) (fun _ _ => rfl) (fun _ => rfl) (fun _ => rfl)).symm
  case signalPossession =>
    intro n r hr
    rw [b.setUp_signalRec w hr, b.setUp_holdCount w]
    simp only [h.count_boundary]
    show ((heldAreas w.image b.persistent).filter _).length = _
    rw [← List.countP_eq_length_filter, sum_ite_eq_countP]
  case entry =>
    intro n r hr
    rw [b.setUp_signalRec w hr]
    have hz := b.setUp_holdCount_zero w (Hold.ofEntry n) (fun _ _ => rfl) (fun _ => rfl) (fun _ => rfl)
    unfold Blocks.holdCount at hz
    rw [List.filter_eq_nil_iff.mpr (List.countP_eq_zero.mp hz)]
    rfl
  case proper =>
    intro x hx
    obtain ⟨a, -, hc, hm⟩ := (b.setUp_mem w).mp hx
    have := w.image.possessionHolds_proper a x.hold hm
    rwa [← hc] at this
  case areas =>
    intro n
    have hfilter : ((b.setUp w).holds.filter (fun x => x.claimant = .area n)).map (·.hold) =
        (heldAreas w.image b.persistent).flatMap (fun a => if a = n then w.image.possessionHolds a else []) := by
      rw [b.setUp_holds w, List.filter_flatMap, List.map_flatMap]
      refine congrArg (List.flatMap · _) (funext fun a => ?_)
      by_cases e : a = n <;> simp [e, List.filter_map, Function.comp_def]
    have hcond : ((b.setUp w).areas[n]?).any (fun r => r.state ≠ .free) = true ↔ n ∈ heldAreas w.image b.persistent := by
      rw [mem_heldAreas]
      show (((List.range w.image.areas.length).map (PossessionRec.start b.persistent))[n]?).any _ = true ↔ _
      rw [List.getElem?_map]
      by_cases hn : n < w.image.areas.length
      · rw [List.getElem?_range hn]
        unfold Persistent.holdsArea PossessionRec.start
        cases hp : b.persistent.areas[n]? <;> simp [hn, hp, PossessionRec.free]
      · simp [hn]
    rw [hfilter, flatMap_ite_eq _ _ _ (nodup_heldAreas _ _)]
    simp only [hcond]
    rfl

/-- R32, R45: after a set-up every signal is commanded STOP, and there is no entry. -/
theorem Blocks.setUp_signalsGuarded (b : Blocks) (w : WorkingCopy) : (b.setUp w).SignalsGuarded where
  off n r hr hc := by
    rw [b.setUp_signalRec w hr] at hc
    exact absurd rfl hc
  released slot r hr := by
    change ((List.replicate 48 none)[slot]?).join = some r at hr
    rw [List.getElem?_replicate] at hr
    split at hr <;> cases hr

/-- R2: without records there is nothing to show and nothing to guard. -/
theorem Blocks.claimsShown_of_empty {b : Blocks} (h1 : b.sections = []) (h2 : b.points = []) (h3 : b.signals = [])
    (h4 : b.holds = []) (h5 : b.areas = []) : b.ClaimsShown := by
  have hs : ∀ n, b.sectionRec n = none := fun n => by unfold Blocks.sectionRec; rw [h1]; rfl
  have hp : ∀ n, b.pointRec n = none := fun n => by unfold Blocks.pointRec; rw [h2]; rfl
  have hg : ∀ n, b.signalRec n = none := fun n => by unfold Blocks.signalRec; rw [h3]; rfl
  constructor
  case owner => intro n r hr; rw [hs] at hr; cases hr
  case proper => intro x hx; rw [h4] at hx; cases hx
  case areas => intro n; rw [h4, h5]; rfl
  case signalFlank => intro n r hr; rw [hg] at hr; cases hr
  case signalPossession => intro n r hr; rw [hg] at hr; cases hr
  case entry => intro n r hr; rw [hg] at hr; cases hr
  all_goals
    intro n p hr
    rw [hp] at hr
    cases hr

theorem Blocks.signalsGuarded_of_empty {b : Blocks} (h1 : b.signals = []) (h2 : b.routes = List.replicate 48 none) :
    b.SignalsGuarded where
  off n r hr := by
    unfold Blocks.signalRec at hr
    rw [h1] at hr
    cases hr
  released slot r hr := by
    unfold Blocks.routeRec at hr
    rw [h2, List.getElem?_replicate] at hr
    split at hr <;> cases hr

end Sys2Proof.Machine
end

section

namespace Sys2Proof.Machine

/-! ### An entry to HALTED leaves nothing for an event to act on (R184) -/

theorem Blocks.Polled.haltBus (b : Blocks) (x : Bus) : Blocks.Polled b (b.haltBus x) := by
  have hmarks : ∀ (l : List Nat) (c : Blocks), Blocks.Polled c (l.foldl (fun b n => b.mark (.unit n)) c) := by
    intro l
    induction l with
    | nil => exact fun c => .refl c
    | cons n l ih => exact fun c => (Blocks.Polled.mark c _).trans (ih _)
  exact ((Blocks.Polled.setBus b x _).trans (hmarks _ _)).trans (Blocks.Polled.startPoll _ x)

theorem LineRec.halt_halt (l : LineRec) : l.halt.halt = l.halt := rfl

/-- What touches neither the lines nor what a failed check leaves. -/
theorem Blocks.TableOnly.keeps_lines {b d : Blocks} (h : Blocks.TableOnly b d) :
    (d.lines, d.work.halt) = (b.lines, b.work.halt) := by
  obtain ⟨⟨_, _, _, _, _, _, _, e⟩, hh⟩ := h
  rw [hh, e]

/-- R184: the lines and what a failed check leaves, after the effects on the records. -/
theorem Blocks.haltRecords_lines (b : Blocks) :
    (∀ n, b.haltRecords.lineRec n = (b.lineRec n).map LineRec.halt) ∧ b.haltRecords.work.halt = b.work.halt := by
  have hs := (Blocks.TableOnly.foldl _ (fun b n => .updSection b n SectionRec.halt) (List.range b.sections.length) b)
  unfold Blocks.haltRecords
  dsimp only
  generalize (List.range b.sections.length).foldl (fun b n => b.updSection n SectionRec.halt) b = c at hs ⊢
  have hp := hs.trans
    (Blocks.TableOnly.foldl _ (fun b n => .updPoint b n PointRec.halt) (List.range c.points.length) c)
  generalize (List.range c.points.length).foldl (fun b n => b.updPoint n PointRec.halt) c = d at hp ⊢
  have hg := hp.trans
    (Blocks.TableOnly.foldl _ (fun b n => .updSignal b n SignalRec.halt) (List.range d.signals.length) d)
  generalize (List.range d.signals.length).foldl (fun b n => b.updSignal n SignalRec.halt) d = g at hg ⊢
  obtain ⟨hlines, hhalt⟩ := Prod.mk.inj hg.keeps_lines
  have hrec : ∀ n, g.lineRec n = b.lineRec n := fun n => by unfold Blocks.lineRec; rw [hlines]
  constructor
  · intro n
    rw [← hrec]
    refine foldl_range_upd Blocks.lineRec _ _ LineRec.halt_halt (fun b n m => b.updLine_rec n m _) _ g n fun r hr => ?_
    exact (List.getElem?_eq_some_iff.mp (Blocks.Follows.getElem?_of_join hr)).1
  · refine (foldl_same (fun b => b.work.halt) _ (fun b n => ?_) _ _).trans hhalt
    obtain ⟨_, _, e⟩ := b.updLine_frame n LineRec.halt
    rw [e]

theorem Blocks.dropRoutes_halt (b : Blocks) : b.dropRoutes.work.halt = b.work.halt :=
  foldl_same (fun b => b.work.halt) Blocks.dropRoute (fun b n => by unfold Blocks.dropRoute; split <;> rfl) _ _

theorem Blocks.enterHalted_quiet (b : Blocks) (raise : Option Clock) : (b.enterHalted raise).quiet := by
  have hmode := b.enterHalted_mode raise
  suffices h : (∀ n, (b.enterHalted raise).routeRec n = none) ∧
      (∀ n, ((b.enterHalted raise).lineRec n).bind (·.reception) = none) ∧ (b.enterHalted raise).work.halt = false from
    ⟨h.1, h.2.1, .inr (.inl (by rw [hmode]; nofun)), h.2.2⟩
  unfold Blocks.enterHalted
  dsimp only
  generalize hd : ({ (b.setMode .halted).haltStore with
    sweep := Sweep.off, selfCheckDue := none, lineStateDue := none
    work := { (b.setMode .halted).haltStore.work with halt := false } } : Blocks) = d
  have hh : d.work.halt = false := by rw [← hd]
  obtain ⟨hlines, hhalt⟩ := d.dropRoutes.haltRecords_lines
  have hroutes : ∀ n, d.dropRoutes.haltRecords.routeRec n = none := fun n =>
    (Blocks.routeRec_congr d.dropRoutes.haltRecords_rest.2.2.1 n).trans (d.dropRoutes_routeRec n)
  have hrec : ∀ n, (d.dropRoutes.haltRecords.lineRec n).bind (·.reception) = none := fun n => by
    rw [hlines]
    cases d.dropRoutes.lineRec n <;> rfl
  replace hhalt := hhalt.trans (d.dropRoutes_halt.trans hh)
  generalize d.dropRoutes.haltRecords = f at hroutes hrec hhalt ⊢
  have hpolled : ∀ g : Blocks, g.routes = f.routes → g.lines = f.lines → g.work.halt = f.work.halt →
      (∀ n, ((g.haltBus .a).haltBus .b).routeRec n = none) ∧
        (∀ n, (((g.haltBus .a).haltBus .b).lineRec n).bind (·.reception) = none) ∧
        ((g.haltBus .a).haltBus .b).work.halt = false := by
    intro g hr hl hw
    obtain ⟨_, _, _, _, _, e⟩ := ((Blocks.Polled.haltBus g .a).trans (Blocks.Polled.haltBus _ .b)).frame
    rw [e]
    refine ⟨fun n => (Blocks.routeRec_congr hr n).trans (hroutes n), fun n => ?_, hw.trans hhalt⟩
    rw [← hrec n]
    unfold Blocks.lineRec
    rw [← hl]
  split
  · exact hpolled f rfl rfl rfl
  · exact hpolled (f.raiseAlarm _ _ _) rfl rfl rfl

/-- R184: what stands after the entry to HALTED stands after the follow-ups of its event. -/
theorem Blocks.ClaimsShown.enterHalted_settle {b : Blocks} (h : b.ClaimsShown) (raise : Option Clock) :
    (b.enterHalted raise).settle.ClaimsShown ∧ (b.enterHalted raise).settle.SignalsGuarded := by
  obtain ⟨hc, hg⟩ := h.enterHalted raise
  rw [Blocks.settle_of_quiet _ (b.enterHalted_quiet raise)]
  have hn := (Blocks.Neutral.refl (b.enterHalted raise)).clearNotices.clearFreed
  exact ⟨hn.sameHolds.claimsShown hc, hn.signalsGuarded hg⟩

end Sys2Proof.Machine
end

section

namespace Sys2Proof.Machine

/-! ### The supervisor and the store keep the claims (10) -/

namespace Blocks.Neutral

variable {a b : Blocks}

theorem setLoad (h : Neutral a b) (l : LoadRec) : Neutral a { b with load := l } := h.of_eq _ rfl rfl

theorem abortLoad (h : Neutral a b) (c : Nat) (o : CellOutcome) : Neutral a (b.abortLoad c o) :=
  (h.setLoad _).answer _ _ _

theorem takeSegment (h : Neutral a b) (l : LoadRec) (q : Request) : Neutral a (b.takeSegment l q) := by
  have hl := h.setLoad l
  unfold Blocks.takeSegment
  dsimp only
  split
  · exact hl.abortLoad _ _
  split
  · exact hl.abortLoad _ _
  split
  · split
    · exact (hl.setLoad _).abortLoad _ _
    · exact (hl.setLoad _).answer _ _ _
  · exact (hl.setLoad _).answer _ _ _

theorem loadSegment (h : Neutral a b) (q : Request) : Neutral a (b.loadSegment q) := by
  unfold Blocks.loadSegment
  dsimp only
  split
  · exact h.answer _ _ _
  split
  · split
    · exact h.takeSegment _ _
    · exact h.abortLoad _ _
  · split
    · exact h.takeSegment _ _
    split
    · exact h.takeSegment _ _
    · exact h.abortLoad _ _
  · exact h.answer _ _ _
  · exact h.answer _ _ _

theorem loadReset (h : Neutral a b) (q : Request) : Neutral a (b.loadReset q) := by
  unfold Blocks.loadReset
  split
  · exact h.answer _ _ _
  · exact (h.setLoad _).answer _ _ _

theorem leaveService (h : Neutral a b) (q : Request) : Neutral a (b.leaveService q) := by
  unfold Blocks.leaveService
  split
  · exact h.answer _ _ _
  split
  · exact h.answer _ _ _
  · exact (((h.setArms []).setSweep _).setMode .configuring nofun).answer _ _ _

theorem timeLockExpiry {d : Blocks} (h : Neutral a b) (e : b.timeLockExpiry = some d) : Neutral a d := by
  unfold Blocks.timeLockExpiry at e
  (repeat' split at e) <;> cases e
  exact h.enterService

theorem enterAlarms (h : Neutral a b) : Neutral a b.enterAlarms := by
  obtain ⟨_, _, _, e⟩ := b.enterAlarms_eq
  rw [e]
  exact h.of_eq _ rfl rfl

theorem commitFailed (h : Neutral a b) (c : Nat) : Neutral a (b.commitFailed c) :=
  (h.storeFault.setLoad _).answer _ _ _

theorem spoilStore (h : Neutral a b) : Neutral a b.spoilStore := h.of_eq _ rfl rfl

theorem endRecord (h : Neutral a b) (v : RecordValue) (q : Bool) : Neutral a (b.endRecord v q) := h.of_eq _ rfl rfl

theorem marks (h : Neutral a b) (l : List MirrorRec) : Neutral a (l.foldl Blocks.mark b) :=
  foldl _ (fun _ _ h => h.mark _) _ _ h

theorem raiseBlocked (h : Neutral a b) : Neutral a b.raiseBlocked :=
  foldl _ (fun _ _ h => by
    split
    · exact h.raiseAlarm _ _ _
    · exact h) _ _ h

/-- R181: the entry to OBSERVING changes no claim. -/
theorem enterObserving (b : Blocks) : Neutral (b.setMode .observing) b.enterObserving := by
  have h : ∀ w, Neutral (b.setMode .observing) (({ b with sweep := w } : Blocks).setMode .observing) := fun _ =>
    ⟨⟨rfl, rfl, rfl, rfl, rfl, rfl, rfl⟩, id, id⟩
  unfold Blocks.enterObserving
  dsimp only
  exact startPoll _ (startPoll _ (completeSweep (raiseBlocked (mark _ (h _)))))

end Blocks.Neutral

/-- Blocks with no image in force and no record. -/
structure Blocks.Bare (b : Blocks) : Prop where
  awake : b.mode ≠ .halted
  inForce : b.inForce = none
  sections : b.sections = []
  points : b.points = []
  signals : b.signals = []
  holds : b.holds = []
  areas : b.areas = []
  routes : b.routes = List.replicate 48 none

theorem Blocks.Bare.sound {b : Blocks} (h : b.Bare) : b.Sound where
  awake := h.awake
  apart w hw := by rw [h.inForce] at hw; cases hw
  claims := Blocks.claimsShown_of_empty h.sections h.points h.signals h.holds h.areas
  guarded := .inr (Blocks.signalsGuarded_of_empty h.signals h.routes)

theorem Blocks.discardRecords_bare {b : Blocks} (h : b.mode ≠ .halted) : b.discardRecords.Bare :=
  ⟨h, rfl, rfl, rfl, rfl, rfl, rfl, rfl⟩

theorem Blocks.withdrawCalls_mode (b : Blocks) : b.withdrawCalls.mode = b.mode :=
  foldl_same Blocks.mode _ (fun b p => by rw [Blocks.answerOpt_eq]) _ _

/-- R177: the commit write that begins takes effect in a supervisor that is awake. -/
theorem Blocks.beginCommit_sound {b : Blocks} (h : b.mode ≠ .halted) (c : Nat) : (b.beginCommit c).Sound := by
  unfold Blocks.beginCommit
  dsimp only
  refine (Blocks.discardRecords_bare ?_).sound.of_neutral (·.marks _)
  show (Blocks.enterAlarms _).mode ≠ .halted
  rw [Blocks.enterAlarms_mode, Blocks.withdrawCalls_mode]
  exact h

namespace Blocks.Sound

variable {b : Blocks}

theorem withWrites (h : b.Sound) (r : Option Write) (l : List Write) :
    ({ b with running := r, writes := l } : Blocks).Sound := h.of_neutral (·.of_eq _ rfl rfl)

theorem beginNext (h : b.Sound) : b.beginNext.Sound := by
  unfold Blocks.beginNext
  split
  · exact h
  · exact h.withWrites _ _
  · exact Blocks.beginCommit_sound h.awake _

theorem queueCommit (h : b.Sound) (c : Nat) : (b.queueCommit c).Sound := by
  unfold Blocks.queueCommit
  split
  · exact (h.of_neutral (d := { b with work := { b.work with modeNotice := true } }) (·.of_eq _ rfl rfl)).of_neutral
      (·.commitFailed c)
  dsimp only
  split
  · exact Blocks.beginCommit_sound (b := { b with load := { b.load with state := .committing } }) h.awake _
  · exact h.of_neutral (·.of_eq _ rfl rfl)

theorem commitTables (h : b.Sound) (q : Request) : (b.commitTables q).Sound := by
  have ha : ∀ c o d, (b.answer c o d).Sound := h.answer
  unfold Blocks.commitTables
  split
  · exact ha _ _ _
  · exact ha _ _ _
  · exact ha _ _ _
  split
  · exact ha _ _ _
  split
  · exact ha _ _ _
  split
  · exact ha _ _ _
  split
  · exact ha _ _ _
  · exact h.queueCommit _

end Blocks.Sound

/-- The claims and the guard as O6 states them of the blocks after a step. -/
def Blocks.Keeps (b : Blocks) : Prop := b.ClaimsShown ∧ b.SignalsGuarded

theorem Blocks.Neutral.keeps {b d : Blocks} (h : Blocks.Neutral b d) (hb : b.Keeps) : d.Keeps :=
  ⟨h.sameHolds.claimsShown hb.1, h.signalsGuarded hb.2⟩

theorem Blocks.Keeps.sound {b : Blocks} (h : b.Keeps) (hm : b.mode ≠ .halted)
    (ha : ∀ w, b.inForce = some w → w.image.Apart) : b.Sound := ⟨hm, ha, h.1, .inr h.2⟩

/-- R174: what the end of a record write leaves to be settled, in HALTED and out of it. -/
theorem Blocks.recordWriteEnd_sound {b d : Blocks} {q : Bool} (h : b.Keeps)
    (ha : ∀ w, b.inForce = some w → w.image.Apart) (e : b.recordWriteEnd q = some d) :
    (d.mode = .halted ∧ d.Keeps) ∨ d.Sound := by
  unfold Blocks.recordWriteEnd at e
  split at e
  · dsimp only at e
    split at e <;> cases e
    · rename_i v _ _ hm
      exact .inl ⟨hm, ((Blocks.Neutral.refl b).endRecord v q).keeps h⟩
    · rename_i v r _ hm
      refine .inr (Blocks.Sound.beginNext ?_)
      refine (h.sound hm ha).of_neutral fun hn => Blocks.Neutral.reportWrite _ _ ?_
      split
      · exact hn.endRecord v q
      · exact (hn.endRecord v q).storeFault
  · cases e

/-- R178: the image of a completed commit has its records set up, and nothing but its possessions' holds. -/
theorem Blocks.commitCompleted_sound (b : Blocks) (c : Nat)
    (ha : (WorkingCopy.ofBytes b.load.buffer).image.Apart) : (b.commitCompleted c).Sound := by
  unfold Blocks.commitCompleted
  dsimp only
  generalize ({ b with running := none, stored := _, persistent := _, load := _ } : Blocks) = d
  have hs : ((d.setUp (WorkingCopy.ofBytes b.load.buffer)).setMode .observing).Sound :=
    ⟨nofun, fun w hw => by cases hw; exact ha,
      Blocks.SameHolds.claimsShown (b := d.setUp _) ⟨rfl, rfl, rfl, rfl, rfl, rfl⟩ (d.setUp_claimsShown _ ha),
      .inr ((d.setUp_signalsGuarded _).of_lit rfl rfl fun _ _ hl => hl)⟩
  exact ((Blocks.Neutral.enterObserving _).sound hs).answer _ _ _

end Sys2Proof.Machine
end

section

namespace Sys2Proof.Machine

theorem Blocks.beginNext_cases (b : Blocks) :
    (∃ r l, b.beginNext = { b with running := r, writes := l }) ∨ ∃ c, b.beginNext = b.beginCommit c := by
  unfold Blocks.beginNext
  split
  · exact .inl ⟨_, _, rfl⟩
  · exact .inl ⟨_, _, rfl⟩
  · exact .inr ⟨_, rfl⟩

theorem Blocks.commitCompleted_start (b : Blocks) (c : Nat) : (b.commitCompleted c).mode ≠ .halted ∧
    (b.commitCompleted c).inForce = some (WorkingCopy.ofBytes b.load.buffer) := by
  unfold Blocks.commitCompleted
  dsimp only
  generalize ({ b with running := none, stored := _, persistent := _, load := _ } : Blocks) = d
  have hn := (Blocks.Neutral.enterObserving (d.setUp (WorkingCopy.ofBytes b.load.buffer))).answer c .done .none
  exact ⟨hn.awake nofun, hn.inForce⟩

/-- R178, R179: the end of a commit write, when the image it leaves in force holds its elements apart. -/
theorem Blocks.Sound.commitWriteEnd {b d : Blocks} {q : Bool} (h : b.Sound) (e : b.commitWriteEnd q = some d)
    (ha : ∀ w, d.inForce = some w → w.image.Apart) : d.Sound := by
  unfold Blocks.commitWriteEnd at e
  split at e
  · rename_i c _
    split at e
    · obtain rfl := Option.some.inj e
      obtain ⟨hm, hin⟩ := b.commitCompleted_start c
      have hn := (Blocks.Neutral.refl (b.commitCompleted c)).marks
        ((b.commitCompleted c).presentRecords ++ [MirrorRec.identity])
      have hs := fun hw => Blocks.Neutral.sound hn (b.commitCompleted_sound c hw)
      generalize ((b.commitCompleted c).presentRecords ++ [MirrorRec.identity]).foldl Blocks.mark
        (b.commitCompleted c) = m at ha hn hs ⊢
      rcases m.beginNext_cases with ⟨r, l, he⟩ | ⟨k, he⟩
      · rw [he] at ha
        exact (hs (ha _ (hn.inForce.trans hin))).beginNext
      · rw [he]
        exact Blocks.beginCommit_sound (hn.awake hm) _
    · obtain rfl := Option.some.inj e
      exact (h.of_neutral fun hn => ((hn.spoilStore.of_eq { b.spoilStore with running := none } rfl rfl).commitFailed
        c).mark _).beginNext
  · cases e

/-! ### The end of an event -/

/-- R183, R189: the end of an event in which a failed check stands, or all signals are guarded. -/
theorem State.finish_keeps (s : State) (p : Port) {b : Blocks} (hc : b.ClaimsShown)
    (hg : b.SignalsGuarded ∨ (b.work.halt = true ∧ b.mode ≠ .halted)) : (s.finish p b).blocks.Keeps := by
  have hend : ∀ d : Blocks, d.Keeps → ({ d.enterAlarms with
      work := Work.empty, freeIndex := s.blocks.freeIndex + 1 } : Blocks).Keeps := by
    intro d hd
    have hs : Blocks.SameClaims d { d.enterAlarms with work := Work.empty, freeIndex := s.blocks.freeIndex + 1 } :=
      ((Blocks.Neutral.refl d).enterAlarms).toSameClaims.trans ⟨rfl, rfl, rfl, rfl, rfl, rfl, rfl⟩
    exact ⟨hs.sameHolds.claimsShown hd.1, hs.signalsGuarded hd.2⟩
  refine hend _ ?_
  unfold Blocks.closeChecks
  split
  · exact hc.enterHalted _
  · rename_i hq
    refine ⟨hc, hg.resolve_right fun ⟨hh, hm⟩ => hq ?_⟩
    simp [hh, hm]

theorem Blocks.Sound.finish {b : Blocks} (h : b.Sound) (s : State) (p : Port) : (s.finish p b).blocks.Keeps :=
  s.finish_keeps p h.claims (h.guarded.symm.imp_right fun hh => ⟨hh, h.awake⟩)

theorem Blocks.Keeps.finish {b : Blocks} (h : b.Keeps) (s : State) (p : Port) : (s.finish p b).blocks.Keeps :=
  s.finish_keeps p h.1 (.inl h.2)

/-! ### How a command acts -/

/-- What O6 assumes of the state before a step. -/
structure State.Claims (s : State) : Prop where
  apart : ∀ w, s.blocks.inForce = some w → w.image.Apart
  keeps : s.blocks.Keeps

theorem State.Claims.sound {s : State} (h : s.Claims) (hs : ¬s.asleep = true) : s.blocks.Sound := by
  refine h.keeps.sound (fun hm => hs ?_) h.apart
  unfold State.asleep
  rw [hm]
  exact Bool.or_true _

section

variable {s t : State} (hs : s.Claims)

include hs

/-- An event whose change, once settled, can end. -/
theorem State.Claims.event {f : Blocks → Option Blocks} (h : s.event f = .next t)
    (hf : ∀ d, s.blocks.Sound → f s.blocks = some d → t = s.finish s.port d.settle → t.blocks.Keeps) :
    t.blocks.Keeps := by
  unfold State.event at h
  split at h
  · cases h; exact hs.keeps
  · rename_i ha
    split at h
    · cases h; exact hs.keeps
    · rename_i d hd
      cases h
      exact hf d (hs.sound ha) hd rfl

/-- An event that keeps the invariant. -/
theorem State.Claims.event_sound {f : Blocks → Option Blocks} (h : s.event f = .next t)
    (hf : ∀ d, s.blocks.Sound → f s.blocks = some d → d.Sound) : t.blocks.Keeps :=
  hs.event h fun d hb hd e => e ▸ (hf d hb hd).settle.finish s s.port

/-- A timer's event that changes no claim. -/
theorem State.Claims.event_neutral {f : Blocks → Option Blocks} (h : s.event f = .next t)
    (hf : ∀ a b d : Blocks, Blocks.Neutral a b → f b = some d → Blocks.Neutral a d) : t.blocks.Keeps :=
  hs.event_sound h fun d hb hd => (hf _ _ d (.refl _) hd).sound hb

theorem State.Claims.busEvent {x : Bus} {f : Blocks → Option Blocks} (h : s.busEvent x f = .next t)
    (hf : ∀ a b d : Blocks, Blocks.Neutral a b → f b = some d → Blocks.Neutral a d) : t.blocks.Keeps := by
  unfold State.busEvent at h
  split at h
  · cases h; exact hs.keeps
  split at h
  · cases h; exact hs.keeps
  rename_i d hd
  have hn := hf _ _ d (.refl _) hd
  have hk := hn.keeps hs.keeps
  cases h
  split
  · exact (((Blocks.Neutral.refl d).startPoll x).keeps hk).finish _ _
  · rename_i hm
    exact ((hk.sound hm (hn.inForce ▸ hs.apart)).settle.of_neutral (·.startPoll x)).finish _ _

theorem State.Claims.recordWriteEnd {q : Bool} (h : s.storeEvent (fun b => b.recordWriteEnd q) = .next t) :
    t.blocks.Keeps := by
  unfold State.storeEvent at h
  split at h
  · cases h; exact hs.keeps
  split at h
  · cases h; exact hs.keeps
  rename_i d hd
  cases h
  rcases Blocks.recordWriteEnd_sound hs.keeps hs.apart hd with ⟨hm, hk⟩ | hd
  · rw [if_pos hm]
    exact hk.finish _ _
  · rw [if_neg hd.awake]
    exact hd.settle.finish _ _

theorem State.Claims.request {m : Request → Bool} {f : Blocks → Request → Blocks} (h : s.request m f = .next t)
    (hf : ∀ (b : Blocks) q, b.Sound → (f b q).Sound) : t.blocks.Keeps := by
  unfold State.request at h
  split at h
  · cases h; exact hs.keeps
  rename_i ha
  split at h
  · cases h; exact hs.keeps
  split at h <;> cases h
  · exact (hf _ _ (hs.sound ha)).settle.finish _ _
  · exact hs.keeps

/-- SELF_CHECK (R183): a check that fails takes the supervisor to HALTED. -/
theorem State.Claims.selfCheck {c : SelfCheckCause} (h : s.event (fun b => b.selfCheck c) = .next t) :
    t.blocks.Keeps := by
  refine hs.event h fun d hb hd e => ?_
  subst e
  have hhalt : ∀ r, (s.finish s.port (s.blocks.enterHalted r).settle).blocks.Keeps := fun r =>
    Blocks.Keeps.finish (hs.keeps.1.enterHalted_settle r) _ _
  unfold Blocks.selfCheck at hd
  split at hd
  · obtain rfl := Option.some.inj hd
    exact hhalt _
  · split at hd
    · split at hd
      · split at hd <;> obtain rfl := Option.some.inj hd
        · refine Blocks.Sound.finish (Blocks.Sound.settle ?_) _ _
          exact hb.of_neutral (·.of_eq _ rfl rfl)
        · exact hhalt _
      · cases hd
    · cases hd

/-- R187: the head of the intake list examined. -/
theorem State.Claims.takeHead (c : Nat) (r : List Nat) : (s.takeHead c r).blocks.Keeps := by
  have hans : ∀ o d, (s.blocks.answer c o d).Keeps := fun o d =>
    ((Blocks.Neutral.refl s.blocks).answer c o d).keeps hs.keeps
  unfold State.takeHead
  dsimp only
  split
  · exact hs.keeps.finish _ _
  split
  · exact hs.keeps.finish _ _
  · unfold State.dispatch
    split
    · exact (hans _ _).finish _ _
    · split
      · exact hs.keeps.finish _ _
      · exact (hans _ _).finish _ _

theorem State.Claims.hold : s.hold.blocks.Keeps := by
  have hn : Blocks.Neutral s.blocks s.blocks.cutOff := by
    unfold Blocks.cutOff Blocks.loseWrites
    dsimp only
    split
    · exact (Blocks.Neutral.refl s.blocks).spoilStore.of_eq _ rfl rfl
    · exact (Blocks.Neutral.refl s.blocks).of_eq _ rfl rfl
  exact hn.keeps hs.keeps

end

/-! ### Restarts (R182) -/

/-- R173: the records a restart sets up from the store. -/
theorem Blocks.Bare.readStore {b : Blocks} (h : b.Bare) (ha : ∀ w, b.readStore.inForce = some w → w.image.Apart) :
    b.readStore.Sound := by
  unfold Blocks.readStore at ha ⊢
  split
  · rename_i hc
    rw [if_pos hc] at ha
    exact ⟨h.awake, ha, b.setUp_claimsShown _ (ha _ rfl), .inr (b.setUp_signalsGuarded _)⟩
  · exact h.sound.of_neutral (·.of_eq _ rfl rfl)

theorem Blocks.startUp_inForce (b : Blocks) : b.startUp.inForce = b.inForce := by
  unfold Blocks.startUp
  split
  · exact (Blocks.Neutral.enterObserving b).inForce
  · rfl

theorem Blocks.Sound.startUp {b : Blocks} (h : b.Sound) : b.startUp.Sound := by
  have hm : ∀ m : Mode, m ≠ .halted → (b.setMode m).Sound := fun m hm =>
    ((Blocks.Neutral.refl b).setMode m hm).sound h
  unfold Blocks.startUp
  split
  · exact (Blocks.Neutral.enterObserving b).sound (hm .observing nofun)
  · exact (hm .configuring nofun).of_neutral (·.mark _)

theorem Blocks.hardBase_bare (b : Blocks) : b.hardBase.Bare := ⟨nofun, rfl, rfl, rfl, rfl, rfl, rfl, rfl⟩

theorem Blocks.softBase_bare (b : Blocks) : b.softBase.Bare := ⟨nofun, rfl, rfl, rfl, rfl, rfl, rfl, rfl⟩

theorem State.hardRestart_keeps (s : State) (ha : ∀ w, s.hardRestart.blocks.inForce = some w → w.image.Apart) :
    s.hardRestart.blocks.Keeps := by
  have hin : s.hardRestart.blocks.inForce = s.blocks.loseWrites.hardBase.readStore.inForce :=
    (State.finish_settle_kept _ _ _).inForce.trans (Blocks.startUp_inForce _)
  rw [hin] at ha
  exact ((Blocks.hardBase_bare _).readStore ha).startUp.settle.finish _ _

theorem State.softRestart_keeps (s : State) (ha : ∀ w, s.softRestart.blocks.inForce = some w → w.image.Apart) :
    s.softRestart.blocks.Keeps := by
  unfold State.softRestart at ha ⊢
  dsimp only at ha ⊢
  have hin : s.blocks.loseWrites.softBase.readStore.startUp.settle.inForce =
      s.blocks.loseWrites.softBase.readStore.inForce :=
    (Blocks.Follows.settle (full := true) _).kept.inForce.trans (Blocks.startUp_inForce _)
  have h := fun ha => (Blocks.Bare.readStore s.blocks.loseWrites.softBase_bare ha).startUp.settle
  generalize s.blocks.loseWrites.softBase.readStore.startUp.settle = d at ha hin h ⊢
  rw [(State.finish_kept _ _ _).inForce] at ha
  replace h := h (hin ▸ ha)
  have hd : ({ d with work := { d.work with dirty := allRecords } } : Blocks).Sound := h.of_neutral (·.of_eq _ rfl rfl)
  exact hd.finish _ _

end Sys2Proof.Machine
end

section

namespace Sys2Proof.Machine

/-! ### Every command keeps the claims -/

section

variable {s t : State} (hs : s.Claims)

include hs

/-- The request commands, by the owner each acts on. -/
theorem State.Claims.served {f : Blocks → Request → Blocks} {m : Request → Bool} (h : s.request m f = .next t)
    (hf : ∀ (a b : Blocks) q, Blocks.Neutral a b → Blocks.Neutral a (f b q)) : t.blocks.Keeps :=
  hs.request h fun _ q hb => (hf _ _ q (.refl _)).sound hb

/-- An EXECUTE of an operation (R155). -/
theorem State.Claims.executed {op : Blocks → Element → Nat → Blocks} {m : Request → Bool}
    (h : s.request m (fun b q => b.execute q op) = .next t) (hop : ∀ (d : Blocks) e c, d.Sound → (op d e c).Sound) :
    t.blocks.Keeps :=
  hs.request h fun _ q hb => hb.execute q op hop

/-- A telegram received on a line. -/
theorem State.Claims.received {hd : TelegramHead} {n : Byte} {act : Blocks → Nat → Blocks}
    (h : s.event (fun b => b.receiveLine hd n act) = .next t)
    (hact : ∀ (c : Blocks) k, c.Sound → (act c k).Sound) : t.blocks.Keeps :=
  hs.event_sound h fun _ hb e => hb.receiveLine hact e

/-- What the port's own commands leave. -/
theorem State.Claims.port {p : Port} (h : (.next { s with port := p } : Host.Outcome State Fault Refusal) = .next t) :
    t.blocks.Keeps := by
  cases h
  exact hs.keeps

end

theorem exec_keeps {c : Instr} {s t : State} (hs : s.Claims)
    (ht : ∀ w, t.blocks.inForce = some w → w.image.Apart) (h : exec c s = .next t) : t.blocks.Keeps := by
  cases c with
  | hardRestart => cases h; exact s.hardRestart_keeps ht
  | post v =>
    change execPost v s = _ at h
    unfold execPost at h
    (repeat' split at h) <;> cases h
    · exact hs.keeps
    · exact hs.keeps.finish _ _
    · exact hs.keeps
  | noticeRead => exact hs.port h
  | noticeMaskWrite v => exact hs.port h
  | restart =>
    change execRestart s = _ at h
    unfold execRestart at h
    split at h <;> cases h
    · exact hs.keeps
    · exact s.softRestart_keeps ht
  | clearStray => exact hs.port h
  | registerWriteNoEffect r v => cases h; exact hs.keeps
  | hostMemoryAccess x =>
    change execHostMemoryAccess x s = _ at h
    unfold execHostMemoryAccess at h
    (repeat' split at h) <;> cases h <;> exact hs.keeps
  | keyLevelChange l =>
    change execKeyLevelChange l s = _ at h
    unfold execKeyLevelChange at h
    split at h <;> cases h
    · exact hs.keeps
    · exact Blocks.Neutral.keeps (b := s.blocks) ((Blocks.Neutral.refl _).of_eq _ rfl rfl) hs.keeps
  | takeCell =>
    change execTakeCell s = _ at h
    unfold execTakeCell at h
    (repeat' split at h) <;> cases h
    · exact hs.keeps
    · exact hs.keeps
    · exact hs.takeHead _ _
  | setRoute => exact hs.request h fun _ q hb => hb.setRoute q
  | cancelRoute => exact hs.request h fun _ q hb => hb.cancelRoute q
  | callPoints => exact hs.request h fun _ q hb => hb.callPoints q
  | applyReminder => exact hs.served h fun _ _ q hb => hb.applyReminder q
  | removeReminder => exact hs.served h fun _ _ q hb => hb.removeReminder q
  | applyStandingRestriction => exact hs.served h fun _ _ q hb => hb.applyStanding q
  | grantPossession => exact hs.request h fun _ q hb => hb.grantPossession q
  | liftPossession => exact hs.request h fun _ q hb => hb.liftPossession q
  | arm => exact hs.served h fun _ _ q hb => hb.arm q
  | restoreSection => exact hs.executed h fun _ e c hb => hb.of_neutral (·.restoreSection e c)
  | emergencyRelease => exact hs.executed h fun _ e c hb => hb.emergencyRelease e.number c
  | removeStanding => exact hs.executed h fun _ e c hb => hb.of_neutral (·.removeStanding e c)
  | forceLift => exact hs.executed h fun _ e c hb => hb.forceLift e c
  | tokenRestore => exact hs.executed h fun _ e c hb => hb.of_neutral (·.tokenRestore e c)
  | receptionRelease => exact hs.executed h fun _ e c hb => hb.receptionRelease e c
  | acknowledgeAlarm => exact hs.served h fun _ _ q hb => hb.acknowledgeAlarm q
  | loadSegment => exact hs.served h fun _ _ q hb => hb.loadSegment q
  | loadReset => exact hs.served h fun _ _ q hb => hb.loadReset q
  | commitTables => exact hs.request h fun _ q hb => hb.commitTables q
  | leaveService => exact hs.served h fun _ _ q hb => hb.leaveService q
  | commandTelegramEnd x => exact hs.busEvent (f := (·.telegramEnd x)) h fun _ _ _ hb e => hb.telegramEnd x e
  | replyComplete x cs =>
    exact hs.busEvent (f := (·.replyComplete x cs)) h fun _ _ _ hb e => hb.replyComplete x cs e
  | replyTimeout x => exact hs.busEvent (f := (·.replyTimeout x)) h fun _ _ _ hb e => hb.replyTimeout x e
  | confirmationTimerExpiry n =>
    exact hs.event_neutral (f := (·.confirmationExpiry n)) h fun _ _ _ hb e => hb.confirmationExpiry n e
  | moveTimerExpiry n => exact hs.event_neutral (f := (·.moveExpiry n)) h fun _ _ _ hb e => hb.moveExpiry n e
  | approachTimerExpiry n =>
    exact hs.event_sound (f := (·.routeTimerExpiry n .approach)) h fun _ hb e => hb.routeTimerExpiry e
  | emergencyTimerExpiry n =>
    exact hs.event_sound (f := (·.routeTimerExpiry n .emergency)) h fun _ hb e => hb.routeTimerExpiry e
  | entryWaitExpiry n =>
    exact hs.event_sound (f := (·.entryWaitExpiry n)) h fun _ hb e => hb.entryWaitExpiry e
  | waitingEntryExpiry n =>
    exact hs.event_sound (f := (·.waitingExpiry n false .expired)) h fun _ hb e => hb.waitingExpiry e
  | tokenWaitEntryExpiry n =>
    exact hs.event_sound (f := (·.waitingExpiry n true .borderRefused)) h fun _ hb e => hb.waitingExpiry e
  | overlapTimerExpiry n => exact hs.event_sound (f := (·.overlapExpiry n)) h fun _ hb e => hb.overlapExpiry e
  | lineStateInterval =>
    exact hs.event_neutral (f := Blocks.lineStateInterval) h fun _ _ _ hb e => hb.lineStateInterval e
  | linkSilenceTimeout p => exact hs.event_sound (f := (·.linkSilence p)) h fun _ hb e => hb.linkSilence e
  | tokenWaitExpiry n =>
    exact hs.event_neutral (f := (·.tokenWaitExpiry n)) h fun _ _ _ hb e => hb.tokenWaitExpiry e
  | handoverSendTime n =>
    exact hs.event_neutral (f := (·.handoverSendTime n)) h fun _ _ _ hb e => hb.handoverSendTime e
  | lineState hd vs => exact hs.event_sound (f := (·.onLineState hd vs)) h fun _ hb e => hb.onLineState e
  | tokenAsk hd n =>
    exact hs.received (act := Blocks.onTokenAsk) h fun _ k hb => hb.of_neutral (·.onTokenAsk k)
  | tokenGive hd n =>
    exact hs.received (act := Blocks.onTokenGive) h fun _ k hb => hb.of_neutral (·.onTokenGive k)
  | tokenDecline hd n =>
    exact hs.received (act := Blocks.endTokenAsk) h fun _ k hb => hb.of_neutral (·.endTokenAsk k)
  | entryAsk hd n r i =>
    exact hs.event_sound (f := fun b => b.receiveLine hd n fun c k => c.onEntryAsk k r (readIdentity b.freeIndex i)) h
      fun _ hb e => hb.receiveLine (fun _ k hc => hc.onEntryAsk k r _) e
  | entryGrant hd n r =>
    exact hs.received (act := (·.onEntryGrant · r)) h fun _ k hb => hb.of_neutral (·.onEntryGrant k r)
  | entryDeny hd n r => exact hs.received (act := (·.onEntryDeny · r)) h fun _ k hb => hb.onEntryDeny k r
  | entryFree hd n r => exact hs.received (act := (·.onEntryFree · r)) h fun _ k hb => hb.onEntryFree k r
  | trainPass hd n i =>
    exact hs.event_sound (f := fun b => b.receiveLine hd n fun c k => c.onTrainPass k (readIdentity b.freeIndex i)) h
      fun _ hb e => hb.receiveLine (fun _ k hc => hc.of_neutral (·.onTrainPass k _)) e
  | trainTaken hd n =>
    exact hs.received (act := Blocks.onTrainTaken) h fun _ k hb => hb.of_neutral (·.updLine k _)
  | invalidBorderTelegram p cs =>
    exact hs.event_neutral (f := (·.onInvalidTelegram p cs)) h fun _ _ _ hb e => hb.onInvalidTelegram e
  | armEntryExpiry => exact hs.event_neutral (f := Blocks.armExpiry) h fun _ _ _ hb e => hb.armExpiry e
  | recordWriteEnd q => exact hs.recordWriteEnd h
  | commitWriteEnd q =>
    exact hs.event (f := (·.commitWriteEnd q)) h fun d hb e ht' => by
      subst ht'
      exact (hb.commitWriteEnd e ((State.finish_settle_kept s s.port d).inForce ▸ ht)).settle.finish _ _
  | selfCheck c => exact hs.selfCheck h
  | timeLockExpiry =>
    exact hs.event_neutral (f := Blocks.timeLockExpiry) h fun _ _ _ hb e => hb.timeLockExpiry e
  | resetAsserted =>
    change execResetAsserted s = _ at h
    unfold execResetAsserted at h
    split at h <;> cases h
    · exact hs.keeps
    · exact hs.hold

/-- Settles O6: a command keeps the invariant of its blocks (`Blocks.Sound`), or takes them to HALTED; a millisecond
of the clock touches no record. -/
theorem stepsKeepTheClaims : Obligations.StepsKeepTheClaims := by
  unfold Obligations.StepsKeepTheClaims
  refine ⟨⟨Blocks.claimsShown_of_empty rfl rfl rfl rfl rfl, Blocks.signalsGuarded_of_empty rfl rfl⟩, ?_⟩
  intro s t hs ht hc hg h
  unfold step at h
  split at h
  · cases h
    have hk : s.tick.blocks.Keeps := by
      unfold State.tick
      split
      · exact ⟨hc, hg⟩
      · exact Blocks.Neutral.keeps (b := s.blocks) ((Blocks.Neutral.refl _).of_eq _ rfl rfl) ⟨hc, hg⟩
    exact hk
  · rename_i c rest _
    exact exec_keeps (s := { s with pending := rest }) ⟨hs, hc, hg⟩ ht h

end Sys2Proof.Machine
end

section

namespace Sys2Proof.Machine

/-! PROOF. The availability stage and the choice of the protection (R51, R52, R89 to R93, R97). -/

/-! ### The availability stage (R45, R51) -/

/-- R51: the first of the four tests that fails, or the entry made. -/
theorem Blocks.availability_cases (b : Blocks) (e : RouteEntry) (route cell : Nat) (sweep : Bool)
    (identity : Option Identity) :
    (b.freeSlot = none → b.availability e route sweep identity cell =
      .unavailable { element := .route route, reason := .setFull }) ∧
    ∀ slot, b.freeSlot = some slot →
      (∀ line, b.tokenCondition e = .askable line → b.availability e route sweep identity cell = .askable line) ∧
      (∀ line, b.tokenCondition e = .unavailable line →
        b.availability e route sweep identity cell = .unavailable { element := .line line, reason := .border }) ∧
      (b.tokenCondition e = .met →
        (∀ f, b.protection slot e = .error f → b.availability e route sweep identity cell = .unavailable f) ∧
        ∀ p, b.protection slot e = .ok p →
          (∀ f, b.claim (.slot slot) (b.routeClaim slot e sweep identity p) = .error f →
            b.availability e route sweep identity cell = .unavailable f) ∧
          ∀ d, b.claim (.slot slot) (b.routeClaim slot e sweep identity p) = .ok d →
            b.availability e route sweep identity cell =
              .applied (d.createEntry slot e route sweep identity cell p)) := by
  unfold Blocks.availability
  constructor
  · intro h
    rw [h]
    rfl
  · intro slot hslot
    rw [hslot]
    refine ⟨fun line h => ?_, fun line h => ?_, fun h => ⟨fun f hp => ?_, fun p hp => ⟨fun f hc => ?_, fun d hc => ?_⟩⟩⟩
    · simp only [h]
    · simp only [h]
      rfl
    · simp only [h, hp]
    · simp only [h, hp, hc]
    · simp only [h, hp, hc]

theorem Blocks.freeSlot_iff (b : Blocks) (slot : Nat) : b.freeSlot = some slot ↔
    b.routes[slot]? = some none ∧ ∀ m < slot, b.routes[m]? ≠ some none := by
  unfold Blocks.freeSlot
  rw [List.findIdx?_eq_some_iff_getElem]
  constructor
  · rintro ⟨hlt, hnone, hbefore⟩
    refine ⟨by rw [List.getElem?_eq_getElem hlt, Option.isNone_iff_eq_none.mp hnone], fun m hm he => ?_⟩
    obtain ⟨h', he'⟩ := List.getElem?_eq_some_iff.mp he
    exact hbefore m hm (by rw [he']; rfl)
  · rintro ⟨hs, hbefore⟩
    obtain ⟨hlt, he⟩ := List.getElem?_eq_some_iff.mp hs
    refine ⟨hlt, by rw [he]; rfl, fun m hm hn => hbefore m hm ?_⟩
    rw [List.getElem?_eq_getElem (hm.trans hlt), Option.isNone_iff_eq_none.mp hn]

/-- R51: the claim set of a route in its order. -/
theorem Blocks.routeClaim_eq (b : Blocks) (slot : Nat) (e : RouteEntry) (sweep : Bool) (identity : Option Identity)
    (p : Assignment) : b.routeClaim slot e sweep identity p =
      e.path.map (fun n => { hold := .sec n (.route slot), condition := if sweep then .sweep else .clear
                             identity := identity }) ++
      (e.points.map (fun q => Hold.point q.point .path q.pos) ++ [Hold.signalEntry e.entry slot] ++
        p.overlap.toList.flatMap (fun n => b.overlapHolds n slot) ++
        (e.flanks.zip p.flanks).map (fun x : FlankPair => (x.1.assigned x.2).hold)).map Hold.item := by
  unfold Blocks.routeClaim
  simp only [List.map_append, List.map_map, List.append_assoc]
  cases p.overlap <;> simp <;> rfl

/-! ### The token condition (R52) -/

theorem Blocks.tokenCondition_signal (b : Blocks) {e : RouteEntry} {n : Nat} (h : e.exit = .signal n) :
    b.tokenCondition e = .met := by
  unfold Blocks.tokenCondition
  rw [h]

theorem Blocks.tokenCondition_line (b : Blocks) {e : RouteEntry} {line : Nat} {k : LineEntry} {l : LineRec}
    (h : e.exit = .line line) (hk : b.lineEntry line = some k) (hl : b.lineRec line = some l) :
    (k.mode = .outbound → b.tokenCondition e = .met) ∧
    (k.mode = .bidirectional →
      (l.token = some .held → b.tokenCondition e = .met) ∧
      (l.token = some .notHeld → b.tokenCondition e =
        if b.linkUp (line / 4) then .askable line else .unavailable line) ∧
      (l.token = some .blocked → b.tokenCondition e = .unavailable line)) := by
  unfold Blocks.tokenCondition
  simp only [h, hk, hl]
  refine ⟨fun hm => by rw [hm], fun hm => ⟨fun ht => by rw [hm, ht], fun ht => ?_, fun ht => by rw [hm, ht]⟩⟩
  rw [hm, ht]
  rfl

/-! ### The choice of an overlap (R89, R97) -/

/-- R89: the items of an overlap choice. -/
def Blocks.overlapItems (b : Blocks) (slot n : Nat) : List ClaimItem := (b.overlapHolds n slot).map Hold.item

theorem Blocks.overlapItems_eq (b : Blocks) {slot n : Nat} {o : OverlapEntry} (h : b.overlapEntry n = some o) :
    b.overlapItems slot n =
      o.sections.map (fun m => { hold := .sec m (.overlap slot), condition := .clear, identity := none }) ++
      o.points.map (fun p => { hold := .point p.point .overlap p.pos, condition := .clear, identity := none }) := by
  unfold Blocks.overlapItems Blocks.overlapHolds OverlapEntry.holds
  rw [h]
  simp only [List.map_append, List.map_map]
  rfl

theorem Blocks.overlapItems_none (b : Blocks) {slot n : Nat} (h : b.overlapEntry n = none) :
    b.overlapItems slot n = [] := by
  unfold Blocks.overlapItems Blocks.overlapHolds
  rw [h]
  rfl

/-- R97: an overlap choice that can be claimed whole. -/
def Blocks.overlapFree (b : Blocks) (slot n : Nat) : Bool := (b.checkClaim (b.overlapItems slot n)).isNone

theorem Blocks.overlapFree_iff (b : Blocks) (slot n : Nat) :
    b.overlapFree slot n = true ↔ ∀ i ∈ b.overlapItems slot n, b.unavailable i = none := by
  unfold Blocks.overlapFree Blocks.checkClaim
  rw [Option.isNone_iff_eq_none, List.findSome?_eq_none_iff]

theorem Blocks.not_overlapFree (b : Blocks) {slot n : Nat} (h : ∃ i ∈ b.overlapItems slot n, b.unavailable i ≠ none) :
    ¬b.overlapFree slot n = true := by
  obtain ⟨i, hi, hu⟩ := h
  exact fun hn => hu ((b.overlapFree_iff slot n).mp hn i hi)

theorem Blocks.chooseOverlap_of_find {b : Blocks} {slot n : Nat} {choices : List Nat}
    (h : choices.find? (b.overlapFree slot) = some n) : b.chooseOverlap slot choices = .ok (some n) := by
  unfold Blocks.overlapFree Blocks.overlapItems at h
  unfold Blocks.chooseOverlap
  cases choices with
  | nil => cases h
  | cons first rest => simp only [h]

/-- R97: with no choice available, the first unavailable element of the first. -/
theorem Blocks.chooseOverlap_of_none {b : Blocks} {slot first : Nat} {rest : List Nat} {f : Finding}
    (h : (first :: rest).find? (b.overlapFree slot) = none) (hf : b.checkClaim (b.overlapItems slot first) = some f) :
    b.chooseOverlap slot (first :: rest) = .error f := by
  unfold Blocks.overlapFree Blocks.overlapItems at h
  unfold Blocks.overlapItems at hf
  unfold Blocks.chooseOverlap
  simp only [h, hf]

/-- R97: the first overlap choice that is available whole. -/
theorem Blocks.chooseOverlap_first (b : Blocks) (slot : Nat) (before : List Nat) (n : Nat) (after : List Nat)
    (hb : ∀ m ∈ before, ∃ i ∈ b.overlapItems slot m, b.unavailable i ≠ none)
    (hn : ∀ i ∈ b.overlapItems slot n, b.unavailable i = none) :
    b.chooseOverlap slot (before ++ n :: after) = .ok (some n) := by
  refine Blocks.chooseOverlap_of_find ?_
  rw [List.find?_append, List.find?_eq_none.mpr fun m hm => b.not_overlapFree (hb m hm), Option.none_or]
  exact List.find?_cons_of_pos ((b.overlapFree_iff slot n).mpr hn)

theorem Blocks.chooseOverlap_error (b : Blocks) (slot first : Nat) (rest : List Nat) (f : Finding)
    (h : ∀ m ∈ first :: rest, ∃ i ∈ b.overlapItems slot m, b.unavailable i ≠ none)
    (hf : (b.overlapItems slot first).findSome? b.unavailable = some f) :
    b.chooseOverlap slot (first :: rest) = .error f :=
  Blocks.chooseOverlap_of_none (List.find?_eq_none.mpr fun m hm => b.not_overlapFree (h m hm)) hf

theorem Blocks.protection_cases (b : Blocks) (slot : Nat) (e : RouteEntry) :
    (∀ f, b.chooseOverlap slot e.overlaps = .error f → b.protection slot e = .error f) ∧
    ∀ o, b.chooseOverlap slot e.overlaps = .ok o →
      (∀ f, b.chooseFlanks e.flanks = .error f → b.protection slot e = .error f) ∧
      ∀ ps, b.chooseFlanks e.flanks = .ok ps → b.protection slot e = .ok { overlap := o, flanks := ps } := by
  unfold Blocks.protection
  refine ⟨fun f h => by simp only [h], fun o h => ⟨fun f hf => by simp only [h, hf], fun ps hp => by simp only [h, hp]⟩⟩

/-! ### The choice of the flank elements (R90 to R92) -/

theorem Blocks.chooseFlank_cases (b : Blocks) (f : FlankEntry) :
    (b.unavailable f.primary.hold.item = none → b.chooseFlank f = .ok { substitute := false, released := false }) ∧
    ∀ x, b.unavailable f.primary.hold.item = some x →
      (f.substitute = none → b.chooseFlank f = .error x) ∧
      ∀ y, f.substitute = some y →
        (b.unavailable y.hold.item = none → b.chooseFlank f = .ok { substitute := true, released := false }) ∧
        (b.unavailable y.hold.item ≠ none → b.chooseFlank f = .error x) := by
  unfold Blocks.chooseFlank
  refine ⟨fun h => by rw [h], fun x h => ⟨fun hs => by simp only [h, hs], fun y hs => ⟨fun hy => ?_, fun hy => ?_⟩⟩⟩
  · simp only [h, hs, hy]
    rfl
  · simp only [h, hs, Option.isNone_iff_eq_none, if_neg hy]

theorem Blocks.chooseFlanks_cons_error (b : Blocks) {f : FlankEntry} (fs : List FlankEntry) {x : Finding}
    (h : b.chooseFlank f = .error x) : b.chooseFlanks (f :: fs) = .error x := by
  rw [Blocks.chooseFlanks, h]

theorem Blocks.chooseFlanks_cons_ok (b : Blocks) {f : FlankEntry} (fs : List FlankEntry) {p : FlankPart}
    (h : b.chooseFlank f = .ok p) : b.chooseFlanks (f :: fs) = (b.chooseFlanks fs).map (p :: ·) := by
  rw [Blocks.chooseFlanks, h]
  dsimp only
  cases b.chooseFlanks fs <;> rfl

theorem Blocks.chooseFlanks_ok_iff (b : Blocks) (fs : List FlankEntry) :
    ∀ ps, b.chooseFlanks fs = .ok ps ↔ fs.map b.chooseFlank = ps.map Except.ok := by
  induction fs with
  | nil => intro ps; cases ps <;> simp [Blocks.chooseFlanks]
  | cons f fs ih =>
    intro ps
    cases hf : b.chooseFlank f with
    | error x =>
      rw [b.chooseFlanks_cons_error fs hf]
      cases ps <;> simp [hf]
    | ok p =>
      rw [b.chooseFlanks_cons_ok fs hf]
      cases ps with
      | nil => cases b.chooseFlanks fs <;> simp [Except.map]
      | cons q qs =>
        rw [List.map_cons, List.map_cons, List.cons.injEq, ← ih, hf]
        cases b.chooseFlanks fs <;> simp [Except.map]

theorem Blocks.chooseFlanks_error_iff (b : Blocks) (fs : List FlankEntry) (x : Finding) :
    b.chooseFlanks fs = .error x ↔ ∃ before f after, fs = before ++ f :: after ∧
      (∀ g ∈ before, ∃ p, b.chooseFlank g = .ok p) ∧ b.chooseFlank f = .error x := by
  constructor
  · induction fs with
    | nil => exact fun h => nomatch h
    | cons f fs ih =>
      intro h
      cases hf : b.chooseFlank f with
      | error y =>
        cases (b.chooseFlanks_cons_error fs hf).symm.trans h
        exact ⟨[], f, fs, rfl, by simp, hf⟩
      | ok p =>
        rw [b.chooseFlanks_cons_ok fs hf] at h
        have hfs : b.chooseFlanks fs = .error x := by
          cases hc : b.chooseFlanks fs <;> rw [hc] at h <;> cases h
          rfl
        obtain ⟨before, g, after, rfl, hb, hg⟩ := ih hfs
        exact ⟨f :: before, g, after, rfl, List.forall_mem_cons.mpr ⟨⟨p, hf⟩, hb⟩, hg⟩
  · rintro ⟨before, f, after, rfl, hb, hf⟩
    induction before with
    | nil => exact b.chooseFlanks_cons_error after hf
    | cons g before ih =>
      obtain ⟨⟨p, hp⟩, hb⟩ := List.forall_mem_cons.mp hb
      rw [List.cons_append, b.chooseFlanks_cons_ok _ hp, ih hb]
      rfl

/-! ### A point claim applied (R40, R93) -/

/-- R40: the claim entered at the point, its pending call toward the other position overtaken, before any drive. -/
def Blocks.pointClaimed (b : Blocks) (n : Nat) (k : ClaimKind) (pos : Position) (p : PointRec) : Blocks :=
  Blocks.updPoint
    (if p.ref = some pos then b
     else (b.updPoint n (fun p => { p with pendingCall := none })).answerOpt p.pendingCall .overtaken .none)
    n (fun p => { p with
      pathCount := p.pathCount + (if k = .path then 1 else 0)
      overlapCount := p.overlapCount + (if k = .overlap then 1 else 0)
      flankCount := p.flankCount + (if k = .flank then 1 else 0)
      claimed := some pos })

theorem Blocks.applyPointClaim_eq (b : Blocks) {n : Nat} {p : PointRec} (k : ClaimKind) (pos : Position)
    (hp : b.pointRec n = some p) : b.applyPointClaim n k pos =
      if ¬(p.ref = some pos ∧ (p.state = .atRest ∨ p.state = .moving)) ∧
          (k = .flank ∧ 0 < p.pathCount + p.overlapCount + p.flankCount → Config.flankDrivesClaimed b.freeIndex n = true)
      then ((b.pointClaimed n k pos p).drive n pos).1 else b.pointClaimed n k pos p := by
  have hclaim : (if p.ref ≠ some pos then b.overtakeCall n else b).updPoint n
      (fun p => { p.withCount k (· + 1) with claimed := some pos }) = b.pointClaimed n k pos p := by
    have hf : (fun p : PointRec => { p.withCount k (· + 1) with claimed := some pos }) = fun p => { p with
        pathCount := p.pathCount + (if k = .path then 1 else 0)
        overlapCount := p.overlapCount + (if k = .overlap then 1 else 0)
        flankCount := p.flankCount + (if k = .flank then 1 else 0)
        claimed := some pos } := by
      funext p
      cases k <;> rfl
    have hover : b.overtakeCall n =
        (b.updPoint n (fun p => { p with pendingCall := none })).answerOpt p.pendingCall .overtaken .none := by
      unfold Blocks.overtakeCall
      rw [hp]
    unfold Blocks.pointClaimed
    rw [hf, hover]
    simp only [ne_eq, ite_not]
  have hneeds : p.needsMove pos = true ↔ ¬ (p.ref = some pos ∧ (p.state = .atRest ∨ p.state = .moving)) := by
    simp [PointRec.needsMove, imp_iff_not_or]
  unfold Blocks.applyPointClaim
  rw [hp]
  dsimp only
  rw [hclaim]
  refine if_congr ?_ rfl rfl
  have hdrives : (!(decide (k = .flank) && p.hasClaim) || Config.flankDrivesClaimed b.freeIndex n) = true ↔
      (k = .flank ∧ 0 < p.pathCount + p.overlapCount + p.flankCount →
        Config.flankDrivesClaimed b.freeIndex n = true) := by
    rw [imp_iff_not_or, Bool.or_eq_true, Bool.not_eq_true', Bool.and_eq_false_iff, not_and_or]
    simp [PointRec.hasClaim]
  rw [Bool.and_eq_true, hneeds, hdrives]

/-- Settles O34: the tests of the availability stage in turn; the first overlap choice by `List.find?`, the flank
entries by induction on the list; the drive of a claimed point by whether it needs a move. -/
theorem availabilityChoosesTheProtection : Obligations.AvailabilityChoosesTheProtection := by
  unfold Obligations.AvailabilityChoosesTheProtection
  refine ⟨?_, Blocks.freeSlot_iff, Blocks.routeClaim_eq, ?_, Blocks.protection_cases, ?_, ?_, ?_, ?_⟩
  · intro b e route cell sweep identity x hx
    subst hx
    exact b.availability_cases e route cell sweep identity
  · exact fun b e => ⟨fun n h => b.tokenCondition_signal h, fun line k l h hk hl => b.tokenCondition_line h hk hl⟩
  · intro b slot items hsome hnone
    obtain rfl : items = b.overlapItems slot := by
      funext n
      cases ho : b.overlapEntry n with
      | none => rw [hnone n ho, b.overlapItems_none ho]
      | some o => rw [hsome n o ho, b.overlapItems_eq ho]
    exact ⟨rfl, b.chooseOverlap_first slot, b.chooseOverlap_error slot⟩
  · intro b f free hpoint hsignal
    have hfree : ∀ e, free e = b.unavailable e.hold.item := by
      intro e
      cases e with
      | point n pos => exact hpoint n pos
      | signal n => exact hsignal n
    simp only [hfree]
    exact b.chooseFlank_cases f
  · exact fun b fs => ⟨b.chooseFlanks_ok_iff fs, b.chooseFlanks_error_iff fs⟩
  · intro b c n k pos p hp hc
    obtain rfl : c = b.pointClaimed n k pos p := hc
    rw [b.applyPointClaim_eq k pos hp]
    refine ⟨fun h => if_neg fun hn => hn.1 h, fun h => ⟨fun hk => ?_, fun hk => if_pos ⟨h, fun hf => ?_⟩⟩⟩
    · simp only [h, hk, not_false_eq_true, and_self, true_and, forall_const]
    · rcases hk with hk | hk
      · exact absurd hf.1 hk
      · omega

end Sys2Proof.Machine
end

section

namespace Sys2Proof.Machine

/-! PROOF. SET ROUTE at the availability stage, and a Route Set entry by its proofs (R51 to R62, R70, R71). -/

/-! ### What the proofs ask of the records (R55) -/

theorem Blocks.restsIn_iff (b : Blocks) (p : PointPos) : b.restsIn p = true ↔
    ∃ v, b.pointRec p.point = some v ∧ v.state = .atRest ∧ v.ref = some p.pos := by
  unfold Blocks.restsIn
  rw [Option.any_eq_true]
  simp only [Bool.and_eq_true, decide_eq_true_eq, beq_iff_eq]

theorem Blocks.showsStop_iff (b : Blocks) (n : Nat) :
    b.showsStop n = true ↔ ∃ v, b.signalRec n = some v ∧ v.shown = .stop := by
  unfold Blocks.showsStop
  rw [Option.any_eq_true]
  simp only [decide_eq_true_eq]

theorem Blocks.unitTrusted_iff (b : Blocks) (n : Nat) :
    b.unitTrusted n = true ↔ ∃ v, b.unitRec n = some v ∧ (v.state = .active ∨ v.state = .suspect) := by
  unfold Blocks.unitTrusted
  rw [Option.any_eq_true]
  simp only [decide_eq_true_eq]

theorem Blocks.meetsClaim_iff (b : Blocks) (sweep : Bool) (n : Nat) : b.meetsClaim sweep n = true ↔
    b.occupancy n = some .clear ∨ (sweep = true ∧ b.occupancy n = some .restoring) := by
  unfold Blocks.meetsClaim Blocks.isClear
  simp only [Bool.or_eq_true, Bool.and_eq_true, beq_iff_eq]

/-- A list none of whose items fails a test. -/
theorem find?_not_eq_none {α : Type} (l : List α) (q : α → Bool) :
    l.find? (fun x => !q x) = none ↔ ∀ x ∈ l, q x = true := by
  simp [List.find?_eq_none]

section

variable (b : Blocks) (e : RouteEntry) (r : RouteRec)

theorem Blocks.unmetSection_eq_none : b.unmetSection e r = none ↔ ∀ n ∈ e.path.drop r.released,
    b.occupancy n = some .clear ∨ (r.sweep = true ∧ b.occupancy n = some .restoring) := by
  unfold Blocks.unmetSection unreleased
  rw [find?_not_eq_none]
  simp only [Blocks.meetsClaim_iff]

/-- R55, proof 5: the overlap part. -/
def unmetOverlap (r : RouteRec) : Option Finding :=
  r.overlap.bind fun o =>
    if o.state = .locked then none else some { element := .overlap o.number, reason := .overlapNotLocked }

theorem unmetOverlap_eq_none (r : RouteRec) : unmetOverlap r = none ↔ ∀ o, r.overlap = some o → o.state = .locked := by
  unfold unmetOverlap
  cases r.overlap <;> simp

/-- R55: the five proofs in their order. -/
theorem Blocks.unmetProof_eq : b.unmetProof e r =
    (((b.claimedPoints e r).find? (fun p => !b.restsIn p)).map
      (fun p => ({ element := .point p.point, reason := .pointNotProved } : Finding))).or
    ((((flankSignals e r).find? (fun n => !b.showsStop n)).map
      (fun n => ({ element := .signal n, reason := .flankSignalNotStop } : Finding))).or
    ((((b.routeUnits e).find? (fun n => !b.unitTrusted n)).map
      (fun n => ({ element := .unit n, reason := .unitNotActive } : Finding))).or
    (((b.unmetSection e r).map (fun n => ({ element := .sec n, reason := .sectionNotClear } : Finding))).or
    (unmetOverlap r)))) := by
  unfold Blocks.unmetProof unmetOverlap
  cases r.overlap <;> rfl

theorem Blocks.unmetProof_eq_none : b.unmetProof e r = none ↔
    (∀ p ∈ b.claimedPoints e r, ∃ v, b.pointRec p.point = some v ∧ v.state = .atRest ∧ v.ref = some p.pos) ∧
    (∀ n ∈ flankSignals e r, ∃ v, b.signalRec n = some v ∧ v.shown = .stop) ∧
    (∀ n ∈ b.routeUnits e, ∃ v, b.unitRec n = some v ∧ (v.state = .active ∨ v.state = .suspect)) ∧
    (∀ n ∈ e.path.drop r.released,
      b.occupancy n = some .clear ∨ (r.sweep = true ∧ b.occupancy n = some .restoring)) ∧
    ∀ o, r.overlap = some o → o.state = .locked := by
  rw [b.unmetProof_eq]
  simp only [Option.or_eq_none_iff, Option.map_eq_none_iff, find?_not_eq_none, Blocks.restsIn_iff, Blocks.showsStop_iff,
    Blocks.unitTrusted_iff, Blocks.unmetSection_eq_none, unmetOverlap_eq_none]

/-- R55: the first proof that fails. -/
theorem Blocks.unmetProof_first :
    (∀ p, (b.claimedPoints e r).find? (fun p => !b.restsIn p) = some p →
      b.unmetProof e r = some { element := .point p.point, reason := .pointNotProved }) ∧
    ((∀ p ∈ b.claimedPoints e r, b.restsIn p = true) →
      (∀ n, (flankSignals e r).find? (fun n => !b.showsStop n) = some n →
        b.unmetProof e r = some { element := .signal n, reason := .flankSignalNotStop }) ∧
      ((∀ n ∈ flankSignals e r, b.showsStop n = true) →
        (∀ n, (b.routeUnits e).find? (fun n => !b.unitTrusted n) = some n →
          b.unmetProof e r = some { element := .unit n, reason := .unitNotActive }) ∧
        ((∀ n ∈ b.routeUnits e, b.unitTrusted n = true) →
          (∀ n, b.unmetSection e r = some n →
            b.unmetProof e r = some { element := .sec n, reason := .sectionNotClear }) ∧
          (∀ o, b.unmetSection e r = none → r.overlap = some o → o.state ≠ .locked →
            b.unmetProof e r = some { element := .overlap o.number, reason := .overlapNotLocked })))) := by
  rw [b.unmetProof_eq]
  refine ⟨fun p hp => by rw [hp]; rfl, fun h1 => ?_⟩
  rw [(find?_not_eq_none _ _).mpr h1]
  refine ⟨fun n hn => by rw [hn]; rfl, fun h2 => ?_⟩
  rw [(find?_not_eq_none _ _).mpr h2]
  refine ⟨fun n hn => by rw [hn]; rfl, fun h3 => ?_⟩
  rw [(find?_not_eq_none _ _).mpr h3]
  refine ⟨fun n hn => by rw [hn]; rfl, fun o hs ho hl => ?_⟩
  rw [hs]
  unfold unmetOverlap
  rw [ho, Option.bind_some, if_neg hl]
  rfl

end

/-! ### The entry made (R53, R98) -/

theorem Blocks.newOverlapPart_eq (b : Blocks) {n : Nat} {x : OverlapState} {o : OverlapEntry}
    (ho : b.overlapEntry n = some o) (hx : x = .locked ∨ x = .claimed)
    (h : x = .locked ↔ ∀ q ∈ o.points, ∃ v, b.pointRec q.point = some v ∧ v.state = .atRest ∧ v.ref = some q.pos) :
    b.newOverlapPart n = { number := n, state := x, expiry := none } := by
  have hrest : b.overlapAtRest n = true ↔ x = .locked := by
    unfold Blocks.overlapAtRest
    rw [ho, h]
    simp only [List.all_eq_true, Blocks.restsIn_iff]
  unfold Blocks.newOverlapPart
  by_cases hl : x = .locked
  · rw [if_pos (hrest.mpr hl), hl]
  · rw [if_neg fun q => hl (hrest.mp q), hx.resolve_left hl]

/-! ### An entry by its proofs (R55 to R62) -/

section

variable {b : Blocks} {slot : Nat} {e : RouteEntry} {r : RouteRec} (h : b.entryAt slot = some (e, r))

include h

theorem Blocks.reactProofs_setting (hs : r.state = .setting) : (b.unmetProof e r ≠ none → b.reactProofs slot = b) ∧
    (b.unmetProof e r = none →
      b.reactProofs slot = (b.updRoute slot (fun r => { r with state := .locked })).actLocked slot e r) := by
  unfold Blocks.reactProofs
  simp only [h, hs]
  refine ⟨fun hf => ?_, fun hf => by rw [hf]⟩
  obtain ⟨f, hf⟩ := Option.ne_none_iff_exists'.mp hf
  rw [hf]

theorem Blocks.reactProofs_locked (hs : r.state = .locked) :
    (∀ f, b.unmetProof e r = some f →
      b.reactProofs slot = b.updRoute slot (fun r => { r with state := .setting, reason := some f })) ∧
    (b.unmetProof e r = none → b.reactProofs slot = b.actLocked slot e r) := by
  unfold Blocks.reactProofs
  simp only [h, hs]
  exact ⟨fun f hf => by rw [hf], fun hf => by rw [hf]⟩

theorem Blocks.reactProofs_cleared (hs : r.state = .cleared) :
    (∀ f, (b.unmetProof e r).or (unmetGrant r) = some f →
      b.reactProofs slot = b.holdEntry slot e r f .conflict f.detail) ∧
    ((b.unmetProof e r).or (unmetGrant r) = none → ∀ g, b.signalRec e.entry = some g →
      (g.lampFault = true → b.reactProofs slot =
        b.holdEntry slot e r { element := .signal e.entry, reason := .lampFault } .lampFault .none) ∧
      (g.lampFault = false → b.reactProofs slot = b)) := by
  unfold Blocks.reactProofs
  simp only [h, hs]
  refine ⟨fun f hf => by rw [hf], fun hf g hg => ?_⟩
  rw [hf, hg]
  simp only [Option.any_some]
  exact ⟨fun hl => if_pos hl, fun hl => if_neg (by simp [hl])⟩

theorem Blocks.reactProofs_other (h1 : r.state ≠ .setting) (h2 : r.state ≠ .locked) (h3 : r.state ≠ .cleared) :
    b.reactProofs slot = b := by
  unfold Blocks.reactProofs
  simp only [h]

/-- R58: the proved signal answers the open cell. -/
theorem Blocks.reactProved_cleared {c : Nat} {g : SignalRec} (hs : r.state = .cleared) (hc : r.cell = some c)
    (hg : b.signalRec e.entry = some g) : b.reactProved slot =
      if g.proved then (b.updRoute slot (fun r => { r with cell := none })).answer c .set (.routePlace 1 slot 4)
      else b := by
  unfold Blocks.reactProved
  simp only [h, hs, hc, hg, Option.any_some, Option.isSome_some, true_and]
  rfl

/-- R60, R62, R70, R71: the occupation of a section not yet released, by the state of the entry. -/
theorem Blocks.reactOccupation_cases {i : Nat} (o : Occupation) (hi : r.released ≤ i) :
    (r.state = .setting ∨ r.state = .locked ∨ r.state = .stalled →
      b.reactOccupation slot i o = b.unexpectedOccupation slot o.sec r) ∧
    (r.state = .cleared → i = 0 → b.reactOccupation slot i o = b.passage slot e r) ∧
    (r.state = .cleared → i ≠ 0 → ∀ f,
      f = (b.unmetProof e r).getD { element := .sec o.sec, reason := .sectionNotClear } →
      b.reactOccupation slot i o = b.holdEntry slot e r f .conflict f.detail) ∧
    (r.state = .held ∨ r.state = .cancelling ∨ (r.state = .emergency ∧ o.marked = false) → i = 0 →
      b.reactOccupation slot i o = b.passedAtStop slot e) ∧
    (r.state = .passing ∨ (r.state = .emergency ∧ (i ≠ 0 ∨ o.marked = true)) ∨
        ((r.state = .held ∨ r.state = .cancelling) ∧ i ≠ 0) → b.reactOccupation slot i o = b) := by
  unfold Blocks.reactOccupation
  simp only [h, if_neg (Nat.not_lt.mpr hi)]
  refine ⟨?_, ?_, ?_, ?_, ?_⟩
  · rintro (hs | hs | hs) <;> simp only [hs]
  · intro hs h0
    simp only [hs, if_pos h0]
  · intro hs h0 f hf
    simp only [hs, if_neg h0, hf]
    rfl
  · rintro (hs | hs | ⟨hs, hm⟩) h0
    · simp only [hs, if_pos h0]
    · simp only [hs, if_pos h0]
    · simp only [hs, if_pos (And.intro h0 hm)]
  · rintro (hs | ⟨hs, hm⟩ | ⟨hs | hs, h0⟩)
    · simp only [hs]
    · have hn : ¬(i = 0 ∧ o.marked = false) := fun q => hm.elim (· q.1) fun hm => by simp [hm] at q
      simp only [hs, if_neg hn]
    · simp only [hs, if_neg h0]
    · simp only [hs, if_neg h0]

/-- R59: a claimed point that has become FAILED. -/
theorem Blocks.reactFailure_cases {n : Nat} {f : Finding} (hp : ∃ p ∈ b.claimedPoints e r, p.point = n)
    (hf : f = Finding.mk' (.point n) .pointFailed) :
    (r.state = .setting → b.reactFailure slot n = b.stall slot r f) ∧
    (∀ x, r.state = .stalled → r.reason = some x → b.reactFailure slot n =
      if x.reason = .pointFailed then b.updRoute slot (fun r => { r with reason := some f }) else b) := by
  have hany : (b.claimedPoints e r).any (fun p => p.point == n) = true := by
    obtain ⟨p, hmem, hp⟩ := hp
    exact List.any_eq_true.mpr ⟨p, hmem, beq_iff_eq.mpr hp⟩
  unfold Blocks.reactFailure
  simp only [h, if_pos hany, ← hf]
  refine ⟨fun hs => by simp only [hs], fun x hs hx => ?_⟩
  simp only [hs, hx, Option.any_some, decide_eq_true_eq]

end

/-! ### From LOCKED on (R56, R57, R135) -/

section

variable (b : Blocks) (slot : Nat) (e : RouteEntry) (r : RouteRec)

theorem Blocks.actLocked_clears (h : r.border = none ∨ r.border.map (·.grant) = some .granted) :
    b.actLocked slot e r = b.clearEntry slot e r := by
  unfold Blocks.actLocked
  cases hb : r.border with
  | none => rfl
  | some p =>
    have hg : p.grant = .granted := by simpa [hb] using h
    simp only [hg]

theorem Blocks.actLocked_border {p : BorderPart} (h : r.border = some p) :
    (p.grant = .asked ∨ p.grant = .lost → b.actLocked slot e r = b) ∧
    (p.grant = .none → b.actLocked slot e r = b.askEntry slot p.line r) := by
  unfold Blocks.actLocked
  simp only [h]
  exact ⟨fun hg => by rcases hg with hg | hg <;> simp only [hg], fun hg => by simp only [hg]⟩

end

/-- R33: a command to the signal of an entry. -/
theorem Blocks.commandSignal_cases (b : Blocks) (slot : Nat) {n : Nat} {g : SignalRec} (x : Aspect)
    (hg : b.signalRec n = some g) :
    (g.owningSlot ≠ some slot → b.commandSignal slot n x = b.failCheck) ∧
    (g.owningSlot = some slot → b.commandSignal slot n x = b.setCommanded n x) := by
  unfold Blocks.commandSignal
  simp only [hg]
  exact ⟨fun h => if_neg h, fun h => if_pos h⟩

theorem Blocks.setCommanded_same (b : Blocks) {n : Nat} {g : SignalRec} {x : Aspect} (hg : b.signalRec n = some g)
    (hx : g.commanded = x) : b.setCommanded n x = b := by
  unfold Blocks.setCommanded
  simp only [hg, if_pos hx]

/-- R33, R35: a change of aspect ends the lamp fault. -/
theorem Blocks.setCommanded_alarms (b : Blocks) {n : Nat} {g : SignalRec} {x : Aspect} (hg : b.signalRec n = some g)
    (hx : g.commanded ≠ x) : (b.setCommanded n x).work.alarms = b.work.alarms ++
      (if g.lampFault then [.ended .signalLampFault (.signal n) b.clock] else []) := by
  obtain ⟨_, _, _, _, _, he⟩ := b.updSignal_frame n (fun r : SignalRec =>
    { r with commanded := x, proved := false, matchCount := 0, mismatchCount := 0, lampFault := false })
  unfold Blocks.setCommanded
  simp only [hg, if_neg hx, he]
  cases g.lampFault
  · exact (List.append_nil _).symm
  · rfl

/-! ### SET ROUTE at the availability stage (R47 to R54) -/

/-- R47 to R50: the request whose availability is looked for. -/
theorem Blocks.setRoute_new {b : Blocks} {q : Request} {e : RouteEntry} (hm : b.mode = .service)
    (hp : b.routeParameter q = none) (hs : b.slotOf q.setRoute.route = none) (hw : b.placeOf q.setRoute.route = none)
    (he : b.routeEntry q.setRoute.route = some e) : b.setRoute q = b.setRouteNew q e := by
  unfold Blocks.setRoute
  simp only [hp, hs, hw, he]
  exact if_neg fun h => h hm

/-- R53, R54: the outcome stage. -/
theorem Blocks.setRouteNew_cases {b : Blocks} (q : Request) {e : RouteEntry} (h : b.restrictionStage e = none) :
    (∀ d, b.availability e q.setRoute.route q.setRoute.sweep q.setRoute.identity q.cell = .applied d →
      b.setRouteNew q e = d) ∧
    (∀ l, b.availability e q.setRoute.route q.setRoute.sweep q.setRoute.identity q.cell = .askable l →
      b.setRouteNew q e = (b.askToken l).wait
        { route := q.setRoute.route, deferred := false, sweep := q.setRoute.sweep, identity := q.setRoute.identity
          storeTime := q.setRoute.store, cell := q.cell
          expiry := some (Clock.after q.takenAt (if q.setRoute.store = 0 then 5000 else 1000 * q.setRoute.store)) }) ∧
    (∀ f, b.availability e q.setRoute.route q.setRoute.sweep q.setRoute.identity q.cell = .unavailable f →
      b.setRouteNew q e = if q.setRoute.store = 0 then b.answer q.cell (refusal f).1 (refusal f).2 else b.wait
        { route := q.setRoute.route, deferred := false, sweep := q.setRoute.sweep, identity := q.setRoute.identity
          storeTime := q.setRoute.store, cell := q.cell
          expiry := some (Clock.after q.takenAt (1000 * q.setRoute.store)) }) := by
  unfold Blocks.setRouteNew
  simp only [h]
  exact ⟨fun d hd => by simp only [hd], fun l hl => by simp only [hl], fun f hf => by simp only [hf]⟩

theorem Blocks.wait_cases (b : Blocks) (w : WaitingRec) :
    (b.waiting.length < 16 → b.wait w = { b with waiting := b.waiting ++ [w] }) ∧
    (16 ≤ b.waiting.length → b.wait w = b.answer w.cell .waitFull .none) := by
  unfold Blocks.wait
  exact ⟨fun h => if_neg (by omega), fun h => if_pos h⟩

/-- A row that serves its request with an answer to it alone. -/
theorem State.serves_answer {s : State} {c : Instr} {k : RequestKind} {q : Request} {o : CellOutcome} {d : Detail}
    (h : s.serving k q) (hx : exec c s = .next (s.served (s.blocks.answer q.cell o d))) :
    s.serves c q s.blocks o d := by
  obtain ⟨-, -, -, -, -, hw⟩ := id h
  refine ⟨hx, ?_⟩
  rw [hx]
  exact State.served_answer h s.blocks rfl (by rw [hw]; rfl) (by rw [hw]; rfl) o d

/-- SET ROUTE once availability is looked for: what each finding does. -/
theorem setRoute_availability {q : Request} {s : State} {e : RouteEntry} (h : s.serving .setRoute q)
    (hm : s.blocks.mode = .service) (hp : s.blocks.routeParameter q = none)
    (hs : s.blocks.slotOf q.setRoute.route = none) (hw : s.blocks.placeOf q.setRoute.route = none)
    (he : s.blocks.routeEntry q.setRoute.route = some e) :
    exec .setRoute s = .next (s.served (s.blocks.setRouteNew q e)) := by
  rw [← Blocks.setRoute_new hm hp hs hw he]
  exact State.serving_next s .setRoute Blocks.setRoute q h

/-- R53, R46: an unavailable request refused, waiting, or turned away. -/
theorem setRoute_unavailable {q : Request} {s : State} {e : RouteEntry} {f : Finding} (h : s.serving .setRoute q)
    (hnew : exec .setRoute s = .next (s.served (s.blocks.setRouteNew q e))) (hr : s.blocks.restrictionStage e = none)
    (hf : s.blocks.availability e q.setRoute.route q.setRoute.sweep q.setRoute.identity q.cell = .unavailable f) :
    (q.setRoute.store = 0 → s.serves .setRoute q s.blocks (refusal f).1 (refusal f).2) ∧
    (0 < q.setRoute.store → s.blocks.waiting.length < 16 → ∀ x : Blocks, x = { s.blocks with
        waiting := s.blocks.waiting ++ [
          { route := q.setRoute.route, deferred := false, sweep := q.setRoute.sweep
            identity := q.setRoute.identity, storeTime := q.setRoute.store
            expiry := some (Clock.after q.takenAt (1000 * q.setRoute.store)), cell := q.cell }] } →
      exec .setRoute s = .next (s.served x) ∧ goesOn (exec .setRoute s) (fun t => x.After t.blocks)) ∧
    (0 < q.setRoute.store → 16 ≤ s.blocks.waiting.length → s.serves .setRoute q s.blocks .waitFull .none) := by
  obtain ⟨-, -, hun⟩ := Blocks.setRouteNew_cases q hr
  rw [hun f hf] at hnew
  refine ⟨fun h0 => ?_, fun h0 hl x hx => ?_, fun h0 hl => ?_⟩
  · rw [if_pos h0] at hnew
    exact State.serves_answer h hnew
  · rw [if_neg (by omega), (s.blocks.wait_cases _).1 hl, ← hx] at hnew
    refine ⟨hnew, ?_⟩
    rw [hnew]
    obtain ⟨-, -, -, -, -, hw⟩ := h
    subst hx
    exact State.served_open s _ rfl (by show s.blocks.work.answers = []; rw [hw]; rfl)
      (by show s.blocks.work.alarms = []; rw [hw]; rfl)
  · rw [if_neg (by omega), (s.blocks.wait_cases _).2 hl] at hnew
    exact State.serves_answer h hnew

/-- Settles O33: the stages of SET ROUTE in turn, and an entry by the cases of its state. -/
theorem setRouteClaimsOrWaits : Obligations.SetRouteClaimsOrWaits := by
  unfold Obligations.SetRouteClaimsOrWaits
  refine ⟨?_, ?_, fun _ => rfl, fun b e r => ⟨b.unmetProof_eq_none e r, b.unmetProof_first e r⟩, ?_, ?_⟩
  · intro q s e h hm hp hs hw he hr
    have hnew := setRoute_availability h hm hp hs hw he
    obtain ⟨happ, hask, -⟩ := Blocks.setRouteNew_cases q hr
    obtain ⟨-, hav⟩ := s.blocks.availability_cases e q.setRoute.route q.cell q.setRoute.sweep q.setRoute.identity
    refine ⟨fun slot p b hslot htok hprot hcl => ?_, fun f hf => setRoute_unavailable h hnew hr hf,
      fun line hslot htok => ?_⟩
    · obtain ⟨-, -, hmet⟩ := hav slot hslot
      obtain ⟨-, hok⟩ := hmet htok
      rw [hnew, happ _ ((hok p hprot).2 b hcl)]
    · obtain ⟨slot, hslot⟩ := Option.ne_none_iff_exists'.mp hslot
      obtain ⟨haskable, -, -⟩ := hav slot hslot
      rw [hnew, hask line (haskable line htok)]
  · intro b c slot route cell e sweep identity p part hnone hsome hentry hc
    obtain rfl : part = p.overlap.map b.newOverlapPart := by
      cases ho : p.overlap with
      | none => exact hnone ho
      | some n =>
        obtain ⟨x, hpart, hx, hiff⟩ := hsome n ho
        obtain ⟨o, hoe⟩ := Option.ne_none_iff_exists'.mp (hentry n ho)
        rw [hpart, Option.map_some, b.newOverlapPart_eq hoe hx (hiff o hoe)]
    subst hc
    rfl
  · intro b slot e r h
    exact ⟨Blocks.reactProofs_setting h, Blocks.reactProofs_locked h, Blocks.reactProofs_cleared h,
      Blocks.reactProofs_other h, fun c g => Blocks.reactProved_cleared h, fun i o => Blocks.reactOccupation_cases h o,
      fun n f => Blocks.reactFailure_cases h⟩
  · intro b slot e r
    refine ⟨b.actLocked_clears slot e r, fun p hp => ?_, fun n g x hg => ?_⟩
    · obtain ⟨hstay, hask⟩ := b.actLocked_border slot e r hp
      refine ⟨hstay, fun hn hc => ?_, fun hn hc => ?_⟩
      · rw [hask hn]
        exact if_neg (by simp [hc])
      · rw [hask hn]
        exact if_pos hc
    · obtain ⟨hfail, hset⟩ := b.commandSignal_cases slot x hg
      refine ⟨hfail, fun ho hx => (hset ho).trans (b.setCommanded_same hg hx), fun ho hx => ?_⟩
      rw [hset ho]
      refine ⟨?_, b.setCommanded_alarms hg hx⟩
      rw [b.setCommanded_rec, hg, Option.map_some, if_pos rfl, SignalRec.commandedTo, if_neg hx]

end Sys2Proof.Machine
end

section

namespace Sys2Proof.Machine

/-! PROOF. The waiting list: its timers, its passes and its entries (R43, R54, R65 to R67). -/

/-- An event that answers one cell, without alarms. -/
theorem State.ended_answer {s : State} (x : Blocks) {cell : Nat} (hc : cell < 32)
    (hflight : s.port.isInFlight cell = true) (hi : x.freeIndex = s.blocks.freeIndex) (ha : x.work.answers = [])
    (hl : x.work.alarms = []) (o : CellOutcome) (d : Detail) :
    (s.ended (x.answer cell o d)).answered cell o d ∧ x.After (s.ended (x.answer cell o d)).blocks := by
  have e : (x.answer cell o d).work.answers = [{ cell := cell, outcome := o, detail := d }] := by
    show x.work.answers ++ _ = _
    rw [ha]
    rfl
  refine ⟨State.ended_answered s _ { cell := cell, outcome := o, detail := d } e hflight hc, ?_⟩
  refine (Blocks.After.of_silent s s.port (x.answer cell o d) hi ?_ hl).of_work x.work rfl
    (Blocks.quiet_congr rfl rfl rfl rfl rfl rfl rfl)
  rw [e]
  exact Port.writeAnswers_one _ _ _ hflight

/-! ### The timers (R54, R66) -/

theorem Blocks.waitingExpiry_due {b : Blocks} {route : Nat} {w : WaitingRec} (o : CellOutcome)
    (hw : b.waiting.find? (fun w => w.route == route) = some w) (hd : w.deferred = false)
    (ht : Clock.due b.clock w.expiry = true) :
    b.waitingExpiry route (decide (w.storeTime = 0)) o = some ((b.unwait route).answer w.cell o .none) := by
  unfold Blocks.waitingExpiry
  rw [hw]
  exact if_pos ⟨hd, rfl, ht⟩

/-! ### The follow-ups (R43, R65) -/

/-- R43, R65: one round of the follow-ups. -/
theorem Blocks.settleRounds_succ (b : Blocks) (n : Nat) : Blocks.settleRounds (n + 1) b =
    if (b.reactRound.work.freed = true ∨ b.reactRound.work.tokenHeld = true) ∧ b.reactRound.mode = .service then
      Blocks.settleRounds n b.reactRound.clearFreed.waitingPass
    else b.reactRound.clearFreed := by
  rw [Blocks.settleRounds]
  simp only [Bool.and_eq_true, Bool.or_eq_true, beq_iff_eq]

/-- R65: the entries a pass examines. -/
theorem Blocks.waitingPass_eq (b : Blocks) : b.waitingPass = b.waiting.foldl (fun d w =>
    if w.deferred = false ∧ w ∈ d.waiting then d.examine w else d) b := by
  unfold Blocks.waitingPass
  congr 1
  funext d w
  simp only [Bool.and_eq_true, Bool.not_eq_true', List.contains_iff_mem]

/-! ### One entry examined (R65) -/

section

variable {b : Blocks} {w : WaitingRec} {e : RouteEntry} (he : b.routeEntry w.route = some e)

include he

theorem Blocks.examine_refused {o : CellOutcome} {f : Finding} (hr : b.restrictionStage e = some (o, f)) :
    b.examine w = (b.unwait w.route).answer w.cell o f.detail := by
  unfold Blocks.examine
  simp only [he, hr]

variable (hr : b.restrictionStage e = none)

include hr

theorem Blocks.examine_applied {d : Blocks}
    (ha : (b.unwait w.route).availability e w.route w.sweep w.identity w.cell = .applied d) : b.examine w = d := by
  unfold Blocks.examine
  simp only [he, hr, ha]

theorem Blocks.examine_askable {line : Nat}
    (ha : (b.unwait w.route).availability e w.route w.sweep w.identity w.cell = .askable line) :
    b.examine w = b.askToken line := by
  unfold Blocks.examine
  simp only [he, hr, ha]

theorem Blocks.examine_unavailable {f : Finding}
    (ha : (b.unwait w.route).availability e w.route w.sweep w.identity w.cell = .unavailable f) :
    b.examine w = if w.storeTime = 0 ∧ b.tokenCondition e = .met then
      (b.unwait w.route).answer w.cell .conflict f.detail else b := by
  unfold Blocks.examine
  simp only [he, hr, ha]

end

/-- Settles O48: the two timers as events with one answer, and each examination by what availability finds. -/
theorem waitingListIsServed : Obligations.WaitingListIsServed := by
  unfold Obligations.WaitingListIsServed
  refine ⟨?_, ?_, Blocks.waitingPass_eq, ?_, fun _ => rfl⟩
  · intro route w s x hawake hset hw hd ht hc hflight hx
    obtain rfl : x = s.blocks.unwait route := hx
    have hs : s.blocks.work = Work.empty := eq_of_beq hset
    have hanswer := fun o => State.ended_answer (s := s) (s.blocks.unwait route) hc hflight rfl
      (congrArg Work.answers hs) (congrArg Work.alarms hs) o .none
    have hdue := fun o => Blocks.waitingExpiry_due o hw hd ht
    refine ⟨fun h0 => ?_, fun h0 => ?_⟩
    · have hexec : exec (.waitingEntryExpiry route) s =
          .next (s.ended ((s.blocks.unwait route).answer w.cell .expired .none)) :=
        State.event_next s (fun b => b.waitingExpiry route false .expired) _ hawake
          (by rw [← hdue .expired, decide_eq_false h0])
      refine ⟨hexec, ?_⟩
      rw [hexec]
      exact hanswer .expired
    · have hexec : exec (.tokenWaitEntryExpiry route) s =
          .next (s.ended ((s.blocks.unwait route).answer w.cell .borderRefused .none)) :=
        State.event_next s (fun b => b.waitingExpiry route true .borderRefused) _ hawake
          (by rw [← hdue .borderRefused, decide_eq_true h0])
      refine ⟨hexec, ?_⟩
      rw [hexec]
      exact hanswer .borderRefused
  · intro b d n hd
    subst hd
    exact b.settleRounds_succ n
  · intro b x w e he hx
    obtain rfl : x = b.unwait w.route := hx
    obtain ⟨-, hav⟩ := (b.unwait w.route).availability_cases e w.route w.cell w.sweep w.identity
    refine ⟨fun o f hr => Blocks.examine_refused he hr, fun hr => ⟨fun slot p d hslot htok hprot hcl => ?_,
      fun line hslot htok => ?_, fun f hf => Blocks.examine_unavailable he hr hf⟩⟩
    · obtain ⟨-, -, hmet⟩ := hav slot hslot
      obtain ⟨-, hok⟩ := hmet htok
      exact Blocks.examine_applied he hr ((hok p hprot).2 d hcl)
    · obtain ⟨slot, hslot⟩ := Option.ne_none_iff_exists'.mp hslot
      obtain ⟨haskable, -, -⟩ := hav slot hslot
      exact Blocks.examine_askable he hr (haskable line htok)

end Sys2Proof.Machine
end

section

namespace Sys2Proof.Machine

/-! PROOF. What a valid reply delivers to the element table (R20 to R26, R28, R29, R34), and a drive (R30). -/

/-! ### A section report (R21 to R24, R26) -/

/-- The occupancy of a section after a report. -/
def SectionRec.reported (r : SectionRec) (e : SectionEntry) (st : SectionStatus) : Occupancy :=
  match st with
  | .fault => .disturbed
  | .disturbed => .disturbed
  | .occupied => if r.occupancy = .disturbed ∧ e.kind ≠ .circuit then .disturbed else .occupied
  | .clear =>
    if r.occupancy = .occupied ∨ (r.occupancy = .disturbed ∧ e.kind = .circuit) then
      (if e.delay = 0 then .clear else .clearing)
    else r.occupancy

/-- The confirmation timer a report starts. -/
def SectionEntry.confirmAt (e : SectionEntry) (o : Occupancy) (t : Clock) : Option Clock :=
  if o = .clearing then some (Clock.after t e.delay) else none

section

variable {b : Blocks} {n : Nat} {e : SectionEntry} {r : SectionRec} (t : Clock)

/-- R21, R22: a section that begins to clear. -/
theorem Blocks.beginClearing_eq (b : Blocks) (n : Nat) (e : SectionEntry) (t : Clock) (o : Occupancy)
    (ho : o = if e.delay = 0 then .clear else .clearing) :
    b.beginClearing n e.delay t = b.setOccupancy n o t (e.confirmAt o t) := by
  unfold Blocks.beginClearing SectionEntry.confirmAt
  by_cases hd : e.delay = 0
  · rw [if_pos hd] at ho
    subst ho
    rw [if_pos hd]
    rfl
  · rw [if_neg hd] at ho
    subst ho
    rw [if_neg hd]
    rfl

variable (he : b.sectionEntry n = some e) (hr : b.sectionRec n = some r)

include he hr

/-- R20 to R24: a report as a change of occupancy, with the raise of R26. -/
theorem Blocks.sectionReport_eq (st : SectionStatus) : b.sectionReport n st t =
    if r.reported e st = r.occupancy then b
    else if r.reported e st = .disturbed then
      (b.setOccupancy n .disturbed t none).raiseAlarm .sectionDisturbed (.sec n) t
    else b.setOccupancy n (r.reported e st) t (e.confirmAt (r.reported e st) t) := by
  have hocc : b.occupancy n = some r.occupancy := by
    unfold Blocks.occupancy
    rw [hr]
    rfl
  unfold Blocks.sectionReport
  rw [he, hocc]
  dsimp only
  cases st with
  | fault => cases r.occupancy <;> rfl
  | disturbed => cases r.occupancy <;> rfl
  | occupied =>
    unfold SectionRec.reported
    cases r.occupancy with
    | disturbed =>
      by_cases hk : e.kind = .circuit
      · simp [hk, SectionEntry.confirmAt]
      · simp [hk]
    | _ => simp [SectionEntry.confirmAt]
  | clear =>
    have hclear : ∀ o : Occupancy, r.occupancy = o → o ≠ .clear → o ≠ .clearing →
        b.beginClearing n e.delay t =
          if (if e.delay = 0 then Occupancy.clear else .clearing) = o then b
          else if (if e.delay = 0 then Occupancy.clear else .clearing) = .disturbed then
            (b.setOccupancy n .disturbed t none).raiseAlarm .sectionDisturbed (.sec n) t
          else b.setOccupancy n (if e.delay = 0 then .clear else .clearing) t
            (e.confirmAt (if e.delay = 0 then .clear else .clearing) t) := by
      intro o _ h1 h2
      rw [b.beginClearing_eq n e t _ rfl]
      by_cases hd : e.delay = 0
      · simp [hd, h1.symm]
      · simp [hd, h2.symm]
    unfold SectionRec.reported
    cases ho : r.occupancy with
    | occupied => simpa using hclear _ ho nofun nofun
    | disturbed =>
      by_cases hk : e.kind = .circuit
      · simpa [hk] using hclear _ ho nofun nofun
      · simp [hk]
    | _ => simp

theorem Blocks.sectionReport_same {st : SectionStatus} (h : r.reported e st = r.occupancy) :
    b.sectionReport n st t = b := by
  rw [Blocks.sectionReport_eq t he hr, if_pos h]

/-- R21 to R26: a report that changes the occupancy: the blocks, but for what the notices read. -/
theorem Blocks.sectionReport_change {st : SectionStatus} (h : r.reported e st ≠ r.occupancy) : ∃ d ts os,
    b.sectionReport n st t = { b with
      sections := b.sections.set n (r.withOccupancy (r.reported e st) t (e.confirmAt (r.reported e st) t))
      work := { b.work with
        dirty := d
        alarms := b.work.alarms ++
          (if r.reported e st = .disturbed then [.raised .sectionDisturbed (.sec n) t]
           else if r.occupancy = .disturbed then [.ended .sectionDisturbed (.sec n) t]
           else [])
        freed := if r.reported e st = .clear then true else b.work.freed
        touched := ts
        occupations := os } } := by
  rw [Blocks.sectionReport_eq t he hr, if_neg h]
  by_cases hd : r.reported e st = .disturbed
  · rw [hd] at h ⊢
    obtain ⟨d, ts, os, eq⟩ := b.setOccupancy_eq n .disturbed t none r hr (Ne.symm h)
    rw [if_pos rfl, eq, if_neg (Ne.symm h)]
    exact ⟨_, _, _, rfl⟩
  · obtain ⟨d, ts, os, eq⟩ := b.setOccupancy_eq n (r.reported e st) t (e.confirmAt (r.reported e st) t) r hr (Ne.symm h)
    rw [if_neg hd, eq, if_neg hd]
    refine ⟨d, ts, os, ?_⟩
    split <;> simp

end

/-- R25: the record of a section whose occupancy has changed. -/
theorem SectionRec.withOccupancy_eq (r : SectionRec) (o : Occupancy) (t : Clock) (c : Option Clock) :
    r.withOccupancy o t c = { r with
      occupancy := o
      passage := r.passage || (o = .occupied && (r.owner.code = 1 || r.owner.code = 3))
      identity := if o = .clear ∨ o = .disturbed then none else r.identity
      changedAt := t
      confirm := c } := by
  unfold SectionRec.withOccupancy
  cases r.owner <;> rfl

theorem Blocks.withSections_rec (b : Blocks) (n m : Nat) (r : SectionRec) :
    (b.sections.set n r)[m]? = if n = m then (b.sectionRec m).map (fun _ => r) else b.sectionRec m :=
  getElem?_set_map b.sections n m r

/-- A report as the statement of R21 to R26 gives it. -/
theorem Blocks.sectionReport_effect {b : Blocks} {n : Nat} {e : SectionEntry} {r : SectionRec} (st : SectionStatus)
    (t : Clock) (he : b.sectionEntry n = some e) (hr : b.sectionRec n = some r) :
    (r.reported e st = r.occupancy → b.sectionReport n st t = b) ∧
    (r.reported e st ≠ r.occupancy → (b.sectionReport n st t).sectionRec n = some { r with
      occupancy := r.reported e st
      passage := r.passage || (r.reported e st = .occupied && (r.owner.code = 1 || r.owner.code = 3))
      identity := if r.reported e st = .clear ∨ r.reported e st = .disturbed then none else r.identity
      changedAt := t
      confirm := if r.reported e st = .clearing then some (Clock.after t e.delay) else none }) ∧
    (∀ m, m ≠ n → (b.sectionReport n st t).sectionRec m = b.sectionRec m) ∧
    (b.sectionReport n st t).points = b.points ∧ (b.sectionReport n st t).signals = b.signals ∧
    (b.sectionReport n st t).work.alarms = b.work.alarms ++
      (if r.reported e st = r.occupancy then []
       else if r.reported e st = .disturbed then [.raised .sectionDisturbed (.sec n) t]
       else if r.occupancy = .disturbed then [.ended .sectionDisturbed (.sec n) t]
       else []) ∧
    ((b.sectionReport n st t).work.freed = true ↔
      b.work.freed = true ∨ (r.reported e st = .clear ∧ r.occupancy ≠ .clear)) := by
  by_cases h : r.reported e st = r.occupancy
  · rw [Blocks.sectionReport_same t he hr h, if_pos h, List.append_nil, h]
    exact ⟨fun _ => rfl, fun q => absurd rfl q, fun _ _ => rfl, rfl, rfl, rfl, by simp⟩
  · obtain ⟨d, ts, os, eq⟩ := Blocks.sectionReport_change t he hr h
    rw [eq, if_neg h]
    refine ⟨fun q => absurd q h, fun _ => ?_, fun m hm => ?_, rfl, rfl, rfl, ?_⟩
    · refine (b.withSections_rec n n _).trans ?_
      rw [if_pos rfl, hr, Option.map_some, SectionRec.withOccupancy_eq]
      rfl
    · exact (b.withSections_rec n m _).trans (if_neg (Ne.symm hm))
    · show (if r.reported e st = .clear then true else b.work.freed) = true ↔ _
      by_cases hc : r.reported e st = .clear
      · rw [hc] at h
        simp [hc, Ne.symm h]
      · simp [hc]

/-! ### A point's detection (R28, R29) -/

theorem detectedPosition_eq_some (ds : List (Option Position)) (pos : Position) (h : ds ≠ []) :
    detectedPosition ds = some pos ↔ ∀ x ∈ ds, x = some pos := by
  obtain ⟨d, ds, rfl⟩ := List.exists_cons_of_ne_nil h
  have hall : ∀ p : Position, (d :: ds).all (· == some p) = true ↔ ∀ x ∈ d :: ds, x = some p := by
    intro p
    simp only [List.all_eq_true, beq_iff_eq]
  unfold detectedPosition
  simp only [hall]
  by_cases hn : ∀ x ∈ d :: ds, x = some Position.normal
  · have hd := hn d List.mem_cons_self
    rw [if_pos hn]
    cases pos with
    | normal => exact ⟨fun _ => hn, fun _ => rfl⟩
    | reverse => exact ⟨nofun, fun hr => absurd (hd.symm.trans (hr d List.mem_cons_self)) nofun⟩
  · rw [if_neg hn]
    by_cases hr : ∀ x ∈ d :: ds, x = some Position.reverse
    · rw [if_pos hr]
      cases pos with
      | normal => exact ⟨nofun, fun q => absurd q hn⟩
      | reverse => exact ⟨fun _ => hr, fun _ => rfl⟩
    · rw [if_neg hr]
      cases pos with
      | normal => exact ⟨nofun, fun q => absurd q hn⟩
      | reverse => exact ⟨nofun, fun q => absurd q hr⟩

section

variable {b : Blocks} {n : Nat} {p : PointRec} (hp : b.pointRec n = some p)

include hp

/-- R29, R69: a point comes to rest. -/
theorem Blocks.pointAtRest_effect (pos : Position) :
    (b.pointAtRest n pos).pointRec n =
      some { p with ref := some pos, state := .atRest, moveTimer := none, pendingCall := none } ∧
    (b.pointAtRest n pos).work.freed = true ∧
    (b.pointAtRest n pos).work.answers = b.work.answers ++
      p.pendingCall.toList.map (fun c => { cell := c, outcome := .done, detail := .none }) ∧
    (b.pointAtRest n pos).work.alarms = b.work.alarms ∧
    (∀ m, m ≠ n → (b.pointAtRest n pos).pointRec m = b.pointRec m) ∧
    (b.pointAtRest n pos).sections = b.sections ∧ (b.pointAtRest n pos).signals = b.signals := by
  have hrec := fun m => b.updPoint_rec n m (fun p =>
    { p with ref := some pos, state := .atRest, moveTimer := none, pendingCall := none })
  obtain ⟨ps, us, x, y, d, e⟩ := b.updPoint_frame n (fun p =>
    { p with ref := some pos, state := .atRest, moveTimer := none, pendingCall := none })
  unfold Blocks.pointAtRest
  simp only [hp, Blocks.answerOpt_eq]
  rw [e] at hrec ⊢
  refine ⟨?_, rfl, rfl, rfl, fun m hm => ?_, rfl, rfl⟩
  · refine (hrec n).trans ?_
    rw [if_pos rfl, hp]
    rfl
  · exact (hrec m).trans (if_neg (Ne.symm hm))

/-- R29: which reports bring a point to rest, which lose its detection, and which leave it. -/
theorem Blocks.applyDetection_cases (t : Clock) {pos : Option Position} (hpos : pos = detectedPosition p.detection) :
    (∀ x, pos = some x → p.state = .unknown ∨
        (p.state = .moving ∨ p.state = .failed ∨ p.state = .lostDetection) ∧ pos = p.ref →
      b.applyDetection n t =
        if p.state = .lostDetection then (b.pointAtRest n x).endAlarm .pointDetectionLost (.point n) t
        else if p.state = .failed then (b.pointAtRest n x).endAlarm .pointFailed (.point n) t
        else b.pointAtRest n x) ∧
    (p.state = .atRest → pos ≠ p.ref → b.applyDetection n t =
      (b.updPoint n (fun p => { p with state := .lostDetection })).raiseAlarm .pointDetectionLost (.point n) t) ∧
    ((p.state = .unknown ∧ pos = none) ∨ (p.state = .atRest ∧ pos = p.ref) ∨
        ((p.state = .moving ∨ p.state = .failed ∨ p.state = .lostDetection) ∧ (pos = none ∨ pos ≠ p.ref)) →
      b.applyDetection n t = b) := by
  unfold Blocks.applyDetection
  simp only [hp, ← hpos]
  refine ⟨fun x hx h => ?_, fun hs hne => ?_, fun h => ?_⟩
  · subst hx
    rcases h with hs | ⟨hs | hs | hs, href⟩
    · simp [hs]
    · simp [hs, ← href]
    · simp [hs, ← href]
    · simp [hs, ← href]
  · simp only [hs, if_neg hne]
  · rcases h with ⟨hs, hn⟩ | ⟨hs, hn⟩ | ⟨hs, hn⟩
    · simp only [hs, hn]
    · simp only [hs, if_pos hn]
    · have hno : ∀ x, pos = some x → p.ref ≠ some x := by
        rintro x rfl href
        rcases hn with hn | hn
        · cases hn
        · exact hn href.symm
      cases hq : pos with
      | none => rcases hs with hs | hs | hs <;> simp only [hs]
      | some x => rcases hs with hs | hs | hs <;> simp only [hs, if_neg (hno x hq)]

end

/-- R29: the table of the states and the detected position. -/
theorem PointRec.detection_outcomes (p : PointRec) (pos : Option Position) :
    (∃ x, pos = some x ∧ (p.state = .unknown ∨
      (p.state = .moving ∨ p.state = .failed ∨ p.state = .lostDetection) ∧ pos = p.ref)) ∨
    (p.state = .atRest ∧ pos ≠ p.ref) ∨
    ((p.state = .unknown ∧ pos = none) ∨ (p.state = .atRest ∧ pos = p.ref) ∨
      ((p.state = .moving ∨ p.state = .failed ∨ p.state = .lostDetection) ∧ (pos = none ∨ pos ≠ p.ref))) := by
  have hmoved : p.state = .moving ∨ p.state = .failed ∨ p.state = .lostDetection → (∃ x, pos = some x ∧ pos = p.ref) ∨
      (pos = none ∨ pos ≠ p.ref) := by
    intro _
    cases pos with
    | none => exact .inr (.inl rfl)
    | some x => exact (em (some x = p.ref)).imp (fun h => ⟨x, rfl, h⟩) .inr
  cases hs : p.state with
  | unknown =>
    cases pos with
    | none => exact .inr (.inr (.inl ⟨rfl, rfl⟩))
    | some x => exact .inl ⟨x, rfl, .inl rfl⟩
  | atRest => exact (em (pos = p.ref)).elim (fun h => .inr (.inr (.inr (.inl ⟨rfl, h⟩)))) fun h => .inr (.inl ⟨rfl, h⟩)
  | _ =>
    rcases hmoved (by simp [hs]) with ⟨x, hx, h⟩ | h
    · exact .inl ⟨x, hx, .inr ⟨by simp, h⟩⟩
    · exact .inr (.inr (.inr (.inr ⟨by simp, h⟩)))

/-- R29: what a detection report does to a point. -/
theorem Blocks.applyDetection_effect {b : Blocks} {n : Nat} (t : Clock) {p : PointRec} {pos : Option Position}
    (hp : b.pointRec n = some p) (hpos : pos = detectedPosition p.detection) :
    ((p.state = .unknown ∧ pos ≠ none) ∨
        (p.state = .moving ∨ p.state = .failed ∨ p.state = .lostDetection) ∧ pos ≠ none ∧ pos = p.ref →
      (b.applyDetection n t).pointRec n =
        some { p with ref := pos, state := .atRest, moveTimer := none, pendingCall := none } ∧
      (b.applyDetection n t).work.freed = true ∧
      (b.applyDetection n t).work.answers = b.work.answers ++
        p.pendingCall.toList.map (fun c => { cell := c, outcome := .done, detail := .none }) ∧
      (b.applyDetection n t).work.alarms = b.work.alarms ++
        (if p.state = .lostDetection then [.ended .pointDetectionLost (.point n) t]
         else if p.state = .failed then [.ended .pointFailed (.point n) t] else [])) ∧
    (p.state = .atRest → pos ≠ p.ref →
      (b.applyDetection n t).pointRec n = some { p with state := .lostDetection } ∧
      (b.applyDetection n t).work.answers = b.work.answers ∧ (b.applyDetection n t).work.freed = b.work.freed ∧
      (b.applyDetection n t).work.alarms = b.work.alarms ++ [.raised .pointDetectionLost (.point n) t]) ∧
    ((p.state = .unknown ∧ pos = none) ∨ (p.state = .atRest ∧ pos = p.ref) ∨
        ((p.state = .moving ∨ p.state = .failed ∨ p.state = .lostDetection) ∧ (pos = none ∨ pos ≠ p.ref)) →
      b.applyDetection n t = b) ∧
    (∀ m, m ≠ n → (b.applyDetection n t).pointRec m = b.pointRec m) ∧
    (b.applyDetection n t).sections = b.sections ∧ (b.applyDetection n t).signals = b.signals := by
  obtain ⟨hrest, hlost, hsame⟩ := Blocks.applyDetection_cases hp t hpos
  have hlostRec := fun m => b.updPoint_rec n m (fun p => { p with state := .lostDetection })
  obtain ⟨_, _, _, _, _, hframe⟩ := b.updPoint_frame n (fun p => { p with state := .lostDetection })
  refine ⟨fun h => ?_, fun hs hne => ?_, hsame, ?_⟩
  · have hne : pos ≠ none := by rcases h with h | h; exacts [h.2, h.2.1]
    obtain ⟨x, rfl⟩ := Option.ne_none_iff_exists'.mp hne
    rw [hrest x rfl (h.imp And.left fun h => ⟨h.1, h.2.2⟩)]
    obtain ⟨h1, h2, h3, h4, -⟩ := Blocks.pointAtRest_effect hp x
    split
    · exact ⟨h1, h2, h3, congrArg (· ++ _) h4⟩
    split
    · exact ⟨h1, h2, h3, congrArg (· ++ _) h4⟩
    · exact ⟨h1, h2, h3, h4.trans (List.append_nil _).symm⟩
  · rw [hlost hs hne]
    refine ⟨(hlostRec n).trans (by rw [if_pos rfl, hp]; rfl), ?_⟩
    rw [hframe]
    exact ⟨rfl, rfl, rfl⟩
  · have hothers : ∀ d : Blocks, (∃ x, d = (b.pointAtRest n x) ∨
        d = (b.pointAtRest n x).endAlarm .pointDetectionLost (.point n) t ∨
        d = (b.pointAtRest n x).endAlarm .pointFailed (.point n) t) →
        (∀ m, m ≠ n → d.pointRec m = b.pointRec m) ∧ d.sections = b.sections ∧ d.signals = b.signals := by
      rintro d ⟨x, rfl | rfl | rfl⟩ <;> exact (Blocks.pointAtRest_effect hp x).2.2.2.2
    rcases p.detection_outcomes pos with ⟨x, hx, h⟩ | ⟨hs, hne⟩ | h
    · rw [hrest x hx h]
      refine hothers _ ⟨x, ?_⟩
      split
      · exact .inr (.inl rfl)
      split
      · exact .inr (.inr rfl)
      · exact .inl rfl
    · rw [hlost hs hne]
      refine ⟨fun m hm => (hlostRec m).trans (if_neg (Ne.symm hm)), ?_⟩
      rw [hframe]
      exact ⟨rfl, rfl⟩
    · rw [hsame h]
      exact ⟨fun _ _ => rfl, rfl, rfl⟩

/-! ### A signal's reply (R34) -/

theorem Aspect.shownBy_iff (a : Aspect) (s : Shown) : a.shownBy s = true ↔
    (a, s) ∈ [(Aspect.stop, Shown.stop), (.proceed, .proceed), (.restricted, .restricted)] := by
  cases a <;> cases s <;> decide

theorem Blocks.signalReport_effect {b : Blocks} {n : Nat} (shown : Shown) (sent : Option SlotValue) (t : Clock)
    {r : SignalRec} (hr : b.signalRec n = some r) :
    (sent ≠ some (.signal r.commanded) →
      (b.signalReport n shown sent t).signalRec n = some { r with shown := shown } ∧
      (b.signalReport n shown sent t).work.alarms = b.work.alarms) ∧
    (sent = some (.signal r.commanded) → (b.signalReport n shown sent t).signalRec n = some (r.counted shown) ∧
      (b.signalReport n shown sent t).work.alarms = b.work.alarms ++
        (if (r.counted shown).lampFault = true ∧ r.lampFault = false then [.raised .signalLampFault (.signal n) t]
         else if r.lampFault = true ∧ (r.counted shown).lampFault = false then [.ended .signalLampFault (.signal n) t]
         else [])) ∧
    (∀ m, m ≠ n → (b.signalReport n shown sent t).signalRec m = b.signalRec m) ∧
    (b.signalReport n shown sent t).sections = b.sections ∧ (b.signalReport n shown sent t).points = b.points := by
  unfold Blocks.signalReport
  simp only [hr]
  by_cases hs : sent = some (.signal r.commanded)
  · have hrec := fun m => b.updSignal_rec n m (fun r => r.counted shown)
    obtain ⟨_, _, _, _, _, hf⟩ := b.updSignal_frame n (fun r => r.counted shown)
    simp only [not_true_eq_false, false_implies, ne_eq, hs, true_and, forall_const]
    rw [hf] at hrec ⊢
    have hn := (hrec n).trans (by rw [if_pos rfl, hr]; rfl : _ = some (r.counted shown))
    have hm := fun m (q : m ≠ n) => (hrec m).trans (if_neg (Ne.symm q))
    cases hv : (r.counted shown).lampFault <;> cases hl : r.lampFault
    · exact ⟨⟨hn, (List.append_nil _).symm⟩, hm, rfl, rfl⟩
    · exact ⟨⟨hn, rfl⟩, hm, rfl, rfl⟩
    · exact ⟨⟨hn, rfl⟩, hm, rfl, rfl⟩
    · exact ⟨⟨hn, (List.append_nil _).symm⟩, hm, rfl, rfl⟩
  · have hrec := fun m => b.updSignal_rec n m (fun r => { r with shown := shown })
    obtain ⟨_, _, _, _, _, hf⟩ := b.updSignal_frame n (fun r => { r with shown := shown })
    simp only [if_neg hs]
    refine ⟨fun _ => ⟨(hrec n).trans (by rw [if_pos rfl, hr]; rfl), ?_⟩, fun q => absurd q hs,
      fun m q => (hrec m).trans (if_neg (Ne.symm q)), ?_, ?_⟩ <;> rw [hf]

theorem SignalRec.counted_matched {r : SignalRec} {shown : Shown}
    (h : (r.commanded, shown) ∈ [(Aspect.stop, Shown.stop), (.proceed, .proceed), (.restricted, .restricted)]) :
    r.counted shown = { r with
      shown := shown, mismatchCount := 0, matchCount := min 2 (r.matchCount + 1)
      proved := r.proved || 2 ≤ r.matchCount + 1, lampFault := false } :=
  if_pos ((Aspect.shownBy_iff _ _).mpr h)

theorem SignalRec.counted_mismatched {r : SignalRec} {shown : Shown}
    (h : (r.commanded, shown) ∉ [(Aspect.stop, Shown.stop), (.proceed, .proceed), (.restricted, .restricted)]) :
    r.counted shown = { r with
      shown := shown, matchCount := 0, proved := false, mismatchCount := min 2 (r.mismatchCount + 1)
      lampFault := r.lampFault || 2 ≤ r.mismatchCount + 1 } :=
  if_neg fun q => h ((Aspect.shownBy_iff _ _).mp q)

/-! ### A drive (R30) -/

section

variable {b : Blocks} {n : Nat} {target : Position} {e : PointEntry} {p : PointRec} (he : b.pointEntry n = some e)
  (hp : b.pointRec n = some p)

include he hp

theorem Blocks.driveAllowed_iff : b.driveAllowed n = true ↔
    p.possessed = false ∧ (b.occupancy e.sec = some .clear ∨ b.occupancy e.sec = some .restoring) := by
  unfold Blocks.driveAllowed
  simp only [he, hp, Bool.and_eq_true, Bool.not_eq_true', Bool.or_eq_true, beq_iff_eq]

theorem Blocks.drive_moving (hs : p.state = .moving) (hr : p.ref = some target) : b.drive n target = (b, true) := by
  have hm : p.movingTo target = true := by
    unfold PointRec.movingTo
    simp [hs, hr]
  unfold Blocks.drive
  simp only [he, hp, if_pos hm]

variable (hm : p.state ≠ .moving ∨ p.ref ≠ some target)

include hm

omit he hp in
theorem PointRec.not_movingTo : ¬p.movingTo target = true := by
  unfold PointRec.movingTo
  simp only [Bool.and_eq_true, decide_eq_true_eq, beq_iff_eq, not_and_or]
  exact hm

theorem Blocks.drive_refused
    (h : p.possessed = true ∨ (b.occupancy e.sec ≠ some .clear ∧ b.occupancy e.sec ≠ some .restoring)) :
    b.drive n target = (b, false) := by
  have hno : ¬b.driveAllowed n = true := by
    rw [Blocks.driveAllowed_iff he hp]
    rintro ⟨hpos, hocc⟩
    rcases h with h | ⟨h1, h2⟩
    · rw [h] at hpos
      cases hpos
    · exact hocc.elim h1 h2
  unfold Blocks.drive
  simp only [he, hp, if_neg (PointRec.not_movingTo hm), if_neg hno]

/-- R30: a drive that starts. -/
theorem Blocks.drive_starts (h1 : p.possessed = false)
    (h2 : b.occupancy e.sec = some .clear ∨ b.occupancy e.sec = some .restoring) :
    (b.drive n target).2 = true ∧
    (b.drive n target).1.pointRec n = some { p with
      ref := some target, state := .moving, moveTimer := some (Clock.after b.clock (1000 * e.limit)) } ∧
    (b.drive n target).1.work.alarms = b.work.alarms ++
      (if p.state = .failed then [.ended .pointFailed (.point n) b.clock]
       else if p.state = .lostDetection then [.ended .pointDetectionLost (.point n) b.clock] else []) ∧
    ∀ m, m ≠ n → (b.drive n target).1.pointRec m = b.pointRec m := by
  have hrec := fun m => b.updPoint_rec n m (fun p =>
    { p with ref := some target, state := .moving, moveTimer := some (Clock.after b.clock (1000 * e.limit)) })
  obtain ⟨_, _, _, _, _, hf⟩ := b.updPoint_frame n (fun p =>
    { p with ref := some target, state := .moving, moveTimer := some (Clock.after b.clock (1000 * e.limit)) })
  unfold Blocks.drive
  simp only [he, hp, if_neg (PointRec.not_movingTo hm), if_pos ((Blocks.driveAllowed_iff he hp).mpr ⟨h1, h2⟩)]
  rw [hf] at hrec ⊢
  have hn := (hrec n).trans (by rw [if_pos rfl, hp]; rfl : _ = some { p with
    ref := some target, state := .moving, moveTimer := some (Clock.after b.clock (1000 * e.limit)) })
  have hothers := fun m (q : m ≠ n) => (hrec m).trans (if_neg (Ne.symm q))
  by_cases hfail : p.state = .failed
  · simp only [hfail, if_true, reduceCtorEq, if_false]
    exact ⟨trivial, hn, rfl, hothers⟩
  · by_cases hlost : p.state = .lostDetection
    · simp only [hlost, reduceCtorEq, if_false, if_true]
      exact ⟨trivial, hn, rfl, hothers⟩
    · simp only [if_neg hfail, if_neg hlost]
      exact ⟨trivial, hn, (List.append_nil _).symm, hothers⟩

end

end Sys2Proof.Machine
end

section

namespace Sys2Proof.Machine

/-! PROOF. The loss of a field unit (R36). -/

/-- A record that a fold over distinct numbers changes, each number its own, while the blocks keep a property. -/
theorem foldl_each {ρ : Type} (get : Blocks → Nat → Option ρ) (g : Blocks → Nat → Blocks) (f : Nat → ρ → ρ)
    (P : Blocks → Prop) (hP : ∀ b n, P b → P (g b n))
    (hg : ∀ b n m, P b → get (g b n) m = (get b m).map (fun r => if n = m then f m r else r)) (m : Nat) (l : List Nat)
    (hl : l.Nodup) : ∀ b, P b → get (l.foldl g b) m = (get b m).map (fun r => if m ∈ l then f m r else r) := by
  induction l with
  | nil => exact fun b _ => by simp
  | cons n l ih =>
    intro b hb
    obtain ⟨hn, hl⟩ := List.nodup_cons.mp hl
    rw [List.foldl_cons, ih hl _ (hP b n hb), hg b n m hb, Option.map_map]
    refine congrArg (Option.map · (get b m)) (funext fun r => ?_)
    by_cases e : n = m
    · subst e
      simp [hn]
    · simp [e, Ne.symm e]

/-! ### One element of the unit -/

/-- R36: the record of a section whose unit is lost. -/
def SectionRec.lost (t : Clock) (r : SectionRec) : SectionRec :=
  { r with
    occupancy := .disturbed, identity := none, confirm := none
    changedAt := if r.occupancy = .disturbed then r.changedAt else t }

/-- R36: the record of a point with an end on a unit that is lost. -/
def PointRec.lost (e : PointEntry) (unit : Nat) (p : PointRec) : PointRec :=
  { p with
    detection := (p.detection.zip e.ends).map (fun c => if c.2.unit = unit then none else c.1)
    state := if p.state = .atRest then .lostDetection else p.state }

/-- R36: the record of a signal whose unit is lost. -/
def SignalRec.lost (r : SignalRec) : SignalRec :=
  { r with shown := .dark, proved := false, matchCount := 0, mismatchCount := 0, lampFault := false }

/-- What the parts of a loss leave: the image, "elements freed" and the answers. -/
def Blocks.lossRest (b : Blocks) : Option WorkingCopy × Bool × List Answer := (b.inForce, b.work.freed, b.work.answers)

section

variable (b : Blocks) (n : Nat) (t : Clock)

theorem Blocks.loseSection_rec (m : Nat) :
    (b.loseSection n t).sectionRec m = (b.sectionRec m).map (fun r => if n = m then r.lost t else r) := by
  unfold Blocks.loseSection
  rw [Blocks.updSection_rec]
  by_cases hs : ∀ r, b.sectionRec n = some r → r.occupancy = .disturbed
  · rw [b.setOccupancy_same n _ t none hs]
    by_cases e : n = m
    · subst e
      rw [if_pos rfl]
      cases hr : b.sectionRec n with
      | none => rfl
      | some r => simp [SectionRec.lost, hs r hr]
    · simp [e]
  · push Not at hs
    obtain ⟨r, hr, ho⟩ := hs
    obtain ⟨_, _, _, eq⟩ := b.setOccupancy_eq n .disturbed t none r hr ho
    have hrec : (b.setOccupancy n .disturbed t none).sectionRec m =
        if n = m then (b.sectionRec m).map (fun _ => r.withOccupancy .disturbed t none) else b.sectionRec m := by
      rw [eq]
      exact b.withSections_rec n m _
    rw [hrec]
    by_cases e : n = m
    · subst e
      simp [hr, SectionRec.lost, SectionRec.withOccupancy_eq, ho]
    · simp [e]

theorem Blocks.loseSection_rest : ((b.loseSection n t).points, (b.loseSection n t).signals,
    (b.loseSection n t).work.alarms, (b.loseSection n t).lossRest) = (b.points, b.signals, b.work.alarms, b.lossRest) := by
  have hrest : ∀ c : Blocks, c.loseSection n t = (c.setOccupancy n .disturbed t none).updSection n
    (fun r => { r with identity := none, confirm := none }) := fun _ => rfl
  have hupd : ∀ c : Blocks, ((c.updSection n (fun r => { r with identity := none, confirm := none })).points,
      (c.updSection n (fun r => { r with identity := none, confirm := none })).signals,
      (c.updSection n (fun r => { r with identity := none, confirm := none })).work.alarms,
      (c.updSection n (fun r => { r with identity := none, confirm := none })).lossRest) =
      (c.points, c.signals, c.work.alarms, c.lossRest) := fun c => by
    obtain ⟨_, _, e⟩ := c.updSection_frame n (fun r => { r with identity := none, confirm := none })
    rw [e]
    rfl
  rw [hrest, hupd]
  by_cases hs : ∀ r, b.sectionRec n = some r → r.occupancy = .disturbed
  · rw [b.setOccupancy_same n _ t none hs]
  · push Not at hs
    obtain ⟨r, hr, ho⟩ := hs
    obtain ⟨_, _, _, eq⟩ := b.setOccupancy_eq n .disturbed t none r hr ho
    rw [eq, if_neg ho, if_neg nofun]
    rfl

theorem Blocks.losePoint_rec (unit m : Nat) {i : Image} (hi : b.image? = some i) : (b.losePoint n unit).pointRec m =
    (b.pointRec m).map (fun p => if n = m then ((i.points[m]?).map fun e => p.lost e unit).getD p else p) := by
  have hentry : b.pointEntry n = i.points[n]? := by
    unfold Blocks.pointEntry
    rw [hi]
    rfl
  unfold Blocks.losePoint
  rw [hentry]
  cases he : i.points[n]? with
  | none =>
    by_cases e : n = m
    · subst e
      simp [he]
    · simp [e]
  | some k =>
    refine (b.updPoint_rec n m _).trans ?_
    by_cases e : n = m
    · subst e
      simp [he, PointRec.lost]
    · simp [e]

theorem Blocks.losePoint_rest (unit : Nat) : ((b.losePoint n unit).sections, (b.losePoint n unit).signals,
    (b.losePoint n unit).work.alarms, (b.losePoint n unit).lossRest) =
      (b.sections, b.signals, b.work.alarms, b.lossRest) := by
  unfold Blocks.losePoint
  split
  · rfl
  · rename_i e _
    obtain ⟨_, _, _, _, _, eq⟩ := b.updPoint_frame n (fun p => p.lost e unit)
    refine Eq.trans (congrArg (fun d : Blocks => (d.sections, d.signals, d.work.alarms, d.lossRest)) eq) rfl

theorem Blocks.loseSignal_rec (m : Nat) :
    (b.loseSignal n t).signalRec m = (b.signalRec m).map (fun r => if n = m then r.lost else r) := by
  have hupd := b.updSignal_rec n m SignalRec.lost
  have hlost : (b.loseSignal n t).signalRec m = (b.updSignal n SignalRec.lost).signalRec m ∨
      (b.loseSignal n t).signalRec m = b.signalRec m ∧ b.signalRec n = none := by
    unfold Blocks.loseSignal
    split
    · rename_i hn
      exact .inr ⟨rfl, hn⟩
    · dsimp only
      split <;> exact .inl rfl
  rcases hlost with h | ⟨h, hn⟩
  · rw [h, hupd]
    by_cases e : n = m <;> simp [e]
  · rw [h]
    by_cases e : n = m
    · subst e
      simp [hn]
    · simp [e]

/-- R36, R35: the loss of a signal ends its lamp fault. -/
theorem Blocks.loseSignal_alarms : (b.loseSignal n t).work.alarms = b.work.alarms ++
    (if (b.signalRec n).any (·.lampFault) then [.ended .signalLampFault (.signal n) t] else []) := by
  obtain ⟨_, _, _, _, _, eq⟩ := b.updSignal_frame n SignalRec.lost
  unfold Blocks.loseSignal
  cases hr : b.signalRec n with
  | none => exact (List.append_nil _).symm
  | some r =>
    change (if r.lampFault then (b.updSignal n SignalRec.lost).endAlarm .signalLampFault (.signal n) t
      else b.updSignal n SignalRec.lost).work.alarms = _
    rw [eq]
    cases hl : r.lampFault
    · simp [hl]
    · simp [hl, Blocks.endAlarm]

theorem Blocks.loseSignal_rest : ((b.loseSignal n t).sections, (b.loseSignal n t).points, (b.loseSignal n t).lossRest) =
    (b.sections, b.points, b.lossRest) := by
  obtain ⟨_, _, _, _, _, eq⟩ := b.updSignal_frame n SignalRec.lost
  unfold Blocks.loseSignal
  split
  · rfl
  · change (fun d : Blocks => (d.sections, d.points, d.lossRest))
      (if _ then (b.updSignal n SignalRec.lost).endAlarm .signalLampFault (.signal n) t
        else b.updSignal n SignalRec.lost) = _
    rw [eq]
    split <;> rfl

/-- What the derivation of slots leaves. -/
def Blocks.tableRest (b : Blocks) :
    List SectionRec × List PointRec × List SignalRec × List AlarmOp × Option WorkingCopy × Bool × List Answer :=
  (b.sections, b.points, b.signals, b.work.alarms, b.lossRest)

theorem Blocks.refreshSignal_rest : (b.refreshSignal n).tableRest = b.tableRest := by
  obtain ⟨_, _, _, _, e⟩ := b.refreshSignal_frame n
  rw [e]
  rfl

theorem Blocks.refreshPoint_rest : (b.refreshPoint n).tableRest = b.tableRest := by
  obtain ⟨_, _, _, _, e⟩ := b.refreshPoint_frame n
  rw [e]
  rfl

end

/-! ### The elements of the unit in turn -/

section

variable (l : List Nat) (hl : l.Nodup) (b : Blocks) (t : Clock)

theorem Blocks.loseSections_rest : ((l.foldl (fun b n => b.loseSection n t) b).points,
    (l.foldl (fun b n => b.loseSection n t) b).signals, (l.foldl (fun b n => b.loseSection n t) b).work.alarms,
    (l.foldl (fun b n => b.loseSection n t) b).lossRest) = (b.points, b.signals, b.work.alarms, b.lossRest) :=
  foldl_same (fun b => (b.points, b.signals, b.work.alarms, b.lossRest)) _ (fun b n => b.loseSection_rest n t) l b

theorem Blocks.losePoints_rest (unit : Nat) : ((l.foldl (fun b n => b.losePoint n unit) b).sections,
    (l.foldl (fun b n => b.losePoint n unit) b).signals, (l.foldl (fun b n => b.losePoint n unit) b).work.alarms,
    (l.foldl (fun b n => b.losePoint n unit) b).lossRest) = (b.sections, b.signals, b.work.alarms, b.lossRest) :=
  foldl_same (fun b => (b.sections, b.signals, b.work.alarms, b.lossRest)) _ (fun b n => b.losePoint_rest n unit) l b

theorem Blocks.loseSignals_rest : ((l.foldl (fun b n => b.loseSignal n t) b).sections,
    (l.foldl (fun b n => b.loseSignal n t) b).points, (l.foldl (fun b n => b.loseSignal n t) b).lossRest) =
      (b.sections, b.points, b.lossRest) :=
  foldl_same (fun b => (b.sections, b.points, b.lossRest)) _ (fun b n => b.loseSignal_rest n t) l b

include hl

theorem Blocks.loseSections_rec (m : Nat) : (l.foldl (fun b n => b.loseSection n t) b).sectionRec m =
    (b.sectionRec m).map (fun r => if m ∈ l then r.lost t else r) :=
  foldl_each Blocks.sectionRec _ (fun _ => SectionRec.lost t) (fun _ => True) (fun _ _ h => h)
    (fun b n m _ => b.loseSection_rec n t m) m l hl b trivial

theorem Blocks.losePoints_rec (unit m : Nat) {i : Image} (hi : b.image? = some i) :
    (l.foldl (fun b n => b.losePoint n unit) b).pointRec m = (b.pointRec m).map (fun p =>
      if m ∈ l then ((i.points[m]?).map fun e => p.lost e unit).getD p else p) := by
  refine foldl_each Blocks.pointRec _ (fun m p => ((i.points[m]?).map fun e => p.lost e unit).getD p)
    (fun b => b.image? = some i) (fun b n h => ?_) (fun b n m h => b.losePoint_rec n unit m h) m l hl b hi
  have hin : (b.losePoint n unit).inForce = b.inForce := congrArg (fun x => x.2.2.2.1) (b.losePoint_rest n unit)
  unfold Blocks.image? at h ⊢
  rw [hin, h]

theorem Blocks.loseSignals_rec (m : Nat) : (l.foldl (fun b n => b.loseSignal n t) b).signalRec m =
    (b.signalRec m).map (fun r => if m ∈ l then r.lost else r) :=
  foldl_each Blocks.signalRec _ (fun _ => SignalRec.lost) (fun _ => True) (fun _ _ h => h)
    (fun b n m _ => b.loseSignal_rec n t m) m l hl b trivial

/-- R36: a lamp fault ends with each signal lost that had one. -/
theorem Blocks.loseSignals_alarms (a : AlarmOp) : a ∈ (l.foldl (fun b n => b.loseSignal n t) b).work.alarms ↔
    a ∈ b.work.alarms ∨ ∃ n ∈ l, ∃ r, b.signalRec n = some r ∧ r.lampFault = true ∧
      a = .ended .signalLampFault (.signal n) t := by
  induction l generalizing b with
  | nil => simp
  | cons n l ih =>
    obtain ⟨hn, hl⟩ := List.nodup_cons.mp hl
    have hrec : ∀ m ∈ l, (b.loseSignal n t).signalRec m = b.signalRec m := fun m hm => by
      rw [b.loseSignal_rec n t m]
      have hne : n ≠ m := fun e => hn (e ▸ hm)
      simp [hne]
    have htail : (∃ m ∈ l, ∃ r, (b.loseSignal n t).signalRec m = some r ∧ r.lampFault = true ∧
        a = .ended .signalLampFault (.signal m) t) ↔ ∃ m ∈ l, ∃ r, b.signalRec m = some r ∧ r.lampFault = true ∧
        a = .ended .signalLampFault (.signal m) t :=
      exists_congr fun m => and_congr_right fun hm => by rw [hrec m hm]
    have hhead : (a ∈ if (b.signalRec n).any (·.lampFault) then
        [AlarmOp.ended .signalLampFault (.signal n) t] else []) ↔
        ∃ r, b.signalRec n = some r ∧ r.lampFault = true ∧ a = .ended .signalLampFault (.signal n) t := by
      cases b.signalRec n with
      | none => simp
      | some r => cases hl : r.lampFault <;> simp [hl]
    rw [List.foldl_cons, ih hl, b.loseSignal_alarms n t, htail, List.mem_append, hhead, or_assoc]
    simp only [List.mem_cons, exists_eq_or_imp]

end

/-! ### The whole unit (R36, R44) -/

section

variable {b : Blocks} {i : Image} (hi : b.image? = some i) (unit : Nat) (t : Clock)

include hi

/-- R36: a unit lost, as its sections, points and signals are, before the slots are derived anew. -/
theorem Blocks.loseUnit_tableRest : (b.loseUnit unit t).tableRest =
    ((indicesWhere (fun e : SignalEntry => e.unit == unit) i.signals).foldl (fun b n => b.loseSignal n t)
      ((indicesWhere (fun e : PointEntry => e.ends.any (fun c => c.unit == unit)) i.points).foldl
        (fun b n => b.losePoint n unit)
        ((indicesWhere (fun e : SectionEntry => e.unit == unit) i.sections).foldl (fun b n => b.loseSection n t)
          b))).tableRest := by
  unfold Blocks.loseUnit
  rw [hi]
  dsimp only
  rw [foldl_same Blocks.tableRest _ (fun b n => b.refreshPoint_rest n),
    foldl_same Blocks.tableRest _ (fun b n => b.refreshSignal_rest n)]

theorem Blocks.loseUnit_sectionRec {n : Nat} {e : SectionEntry} {r : SectionRec} (he : i.sections[n]? = some e)
    (hr : b.sectionRec n = some r) :
    (b.loseUnit unit t).sectionRec n = some (if e.unit = unit then r.lost t else r) := by
  have hrest := congrArg (·.1) (Blocks.loseUnit_tableRest hi unit t)
  refine (Blocks.sectionRec_congr hrest n).trans ?_
  refine (Blocks.sectionRec_congr (congrArg (·.1) (Blocks.loseSignals_rest _ _ t)) n).trans ?_
  refine (Blocks.sectionRec_congr (congrArg (·.1) (Blocks.losePoints_rest _ _ unit)) n).trans ?_
  rw [Blocks.loseSections_rec _ (nodup_indicesWhere _ _) b t n, hr, Option.map_some]
  simp [mem_indicesWhere, he]

theorem Blocks.loseUnit_pointRec {n : Nat} {e : PointEntry} {p : PointRec} (he : i.points[n]? = some e)
    (hp : b.pointRec n = some p) : (b.loseUnit unit t).pointRec n =
      some (if e.ends.any (fun c => c.unit == unit) then p.lost e unit else p) := by
  have hrest := congrArg (·.2.1) (Blocks.loseUnit_tableRest hi unit t)
  refine (Blocks.pointRec_congr hrest n).trans ?_
  refine (Blocks.pointRec_congr (congrArg (·.2.1) (Blocks.loseSignals_rest _ _ t)) n).trans ?_
  have hsec := Blocks.loseSections_rest (indicesWhere (fun e : SectionEntry => e.unit == unit) i.sections) b t
  rw [Blocks.losePoints_rec _ (nodup_indicesWhere _ _) _ unit n
    (by unfold Blocks.image? at hi ⊢; rw [show (_ : Blocks).inForce = b.inForce from congrArg (·.2.2.2.1) hsec, hi]),
    Blocks.pointRec_congr (congrArg (·.1) hsec) n, hp, Option.map_some]
  simp [mem_indicesWhere, he]

theorem Blocks.loseUnit_signalRec {n : Nat} {e : SignalEntry} {r : SignalRec} (he : i.signals[n]? = some e)
    (hr : b.signalRec n = some r) :
    (b.loseUnit unit t).signalRec n = some (if e.unit = unit then r.lost else r) := by
  have hrest := congrArg (·.2.2.1) (Blocks.loseUnit_tableRest hi unit t)
  refine (Blocks.signalRec_congr hrest n).trans ?_
  rw [Blocks.loseSignals_rec _ (nodup_indicesWhere _ _) _ t n,
    Blocks.signalRec_congr (congrArg (·.2.1) (Blocks.losePoints_rest _ _ unit)) n,
    Blocks.signalRec_congr (congrArg (·.2.1) (Blocks.loseSections_rest _ b t)) n, hr, Option.map_some]
  simp [mem_indicesWhere, he]

theorem Blocks.loseUnit_alarms (a : AlarmOp) : a ∈ (b.loseUnit unit t).work.alarms ↔
    a ∈ b.work.alarms ∨ ∃ n e r, i.signals[n]? = some e ∧ e.unit = unit ∧ b.signalRec n = some r ∧
      r.lampFault = true ∧ a = .ended .signalLampFault (.signal n) t := by
  have hrest : (b.loseUnit unit t).work.alarms = _ := congrArg (·.2.2.2.1) (Blocks.loseUnit_tableRest hi unit t)
  have hsec := Blocks.loseSections_rest (indicesWhere (fun e : SectionEntry => e.unit == unit) i.sections) b t
  have hpts := fun c => Blocks.losePoints_rest
    (indicesWhere (fun e : PointEntry => e.ends.any (fun x => x.unit == unit)) i.points) c unit
  have hsig : ∀ n, ((indicesWhere (fun e : PointEntry => e.ends.any (fun c => c.unit == unit)) i.points).foldl
      (fun b n => b.losePoint n unit) ((indicesWhere (fun e : SectionEntry => e.unit == unit) i.sections).foldl
        (fun b n => b.loseSection n t) b)).signalRec n = b.signalRec n := fun n =>
    (Blocks.signalRec_congr (congrArg (·.2.1) (hpts _)) n).trans (Blocks.signalRec_congr (congrArg (·.2.1) hsec) n)
  rw [hrest]
  refine (Blocks.loseSignals_alarms _ (nodup_indicesWhere _ _) _ t a).trans (or_congr ?_ ?_)
  · rw [show (_ : Blocks).work.alarms = _ from congrArg (·.2.2.1) (hpts _),
      show (_ : Blocks).work.alarms = b.work.alarms from congrArg (·.2.2.1) hsec]
  · simp only [hsig, mem_indicesWhere, beq_iff_eq]
    constructor
    · rintro ⟨n, ⟨e, he, hu⟩, r, hr, hl, ha⟩
      exact ⟨n, e, r, he, hu, hr, hl, ha⟩
    · rintro ⟨n, e, r, he, hu, hr, hl, ha⟩
      exact ⟨n, ⟨e, he, hu⟩, r, hr, hl, ha⟩

theorem Blocks.loseUnit_lossRest : (b.loseUnit unit t).lossRest = b.lossRest :=
  (congrArg (·.2.2.2.2) (Blocks.loseUnit_tableRest hi unit t)).trans
    ((congrArg (·.2.2) (Blocks.loseSignals_rest _ _ t)).trans
      ((congrArg (·.2.2.2) (Blocks.losePoints_rest _ _ unit)).trans
        (congrArg (·.2.2.2) (Blocks.loseSections_rest _ b t))))

end

end Sys2Proof.Machine
end

section

namespace Sys2Proof.Machine

/-! PROOF. A valid reply and the record of its unit (R113 to R117). -/

/-! ### What leaves the units' states, counts and last statuses -/

/-- The parts of the unit records that the derivation of slots leaves. -/
def Blocks.unitsKept (b : Blocks) : List (UnitState × Nat × Nat × Option (List SlotStatus) × Option Clock) :=
  b.units.map UnitRec.kept

section

variable (b : Blocks) (n : Nat) (t : Clock)

@[simp] theorem Blocks.refreshPoint_unitsKept : (b.refreshPoint n).unitsKept = b.unitsKept :=
  ((Blocks.Follows.refl false b).refreshPoint n).units

@[simp] theorem Blocks.refreshSignal_unitsKept : (b.refreshSignal n).unitsKept = b.unitsKept :=
  ((Blocks.Follows.refl false b).refreshSignal n).units

@[simp] theorem Blocks.updPoint_unitsKept (f : PointRec → PointRec) : (b.updPoint n f).unitsKept = b.unitsKept := by
  unfold Blocks.updPoint
  split
  · rfl
  split
  · rfl
  · exact Blocks.refreshPoint_unitsKept _ n

@[simp] theorem Blocks.updSignal_unitsKept (f : SignalRec → SignalRec) : (b.updSignal n f).unitsKept = b.unitsKept := by
  unfold Blocks.updSignal
  split
  · rfl
  split
  · rfl
  · exact Blocks.refreshSignal_unitsKept _ n

@[simp] theorem Blocks.updSection_unitsKept (f : SectionRec → SectionRec) :
    (b.updSection n f).unitsKept = b.unitsKept := by
  obtain ⟨_, _, e⟩ := b.updSection_frame n f
  rw [e]
  rfl

@[simp] theorem Blocks.setOccupancy_unitsKept (o : Occupancy) (c : Option Clock) :
    (b.setOccupancy n o t c).unitsKept = b.unitsKept := by
  obtain ⟨_, _, _, _, _, _, e⟩ := b.setOccupancy_frame n o t c
  rw [e]
  rfl

@[simp] theorem Blocks.raiseAlarm_unitsKept (k : AlarmKind) (e : Element) :
    (b.raiseAlarm k e t).unitsKept = b.unitsKept := rfl

@[simp] theorem Blocks.endAlarm_unitsKept (k : AlarmKind) (e : Element) : (b.endAlarm k e t).unitsKept = b.unitsKept := rfl

theorem Blocks.sectionReport_unitsKept (st : SectionStatus) : (b.sectionReport n st t).unitsKept = b.unitsKept := by
  unfold Blocks.sectionReport Blocks.disturbByReport Blocks.beginClearing
  (repeat' split) <;> simp

@[simp] theorem Blocks.pointAtRest_unitsKept (p : Position) : (b.pointAtRest n p).unitsKept = b.unitsKept := by
  unfold Blocks.pointAtRest
  split
  · rfl
  · dsimp only
    rw [Blocks.answerOpt_eq]
    exact Blocks.updPoint_unitsKept b n _

theorem Blocks.applyDetection_unitsKept : (b.applyDetection n t).unitsKept = b.unitsKept := by
  unfold Blocks.applyDetection
  (repeat' split) <;> simp

theorem Blocks.signalReport_unitsKept (s : Shown) (v : Option SlotValue) :
    (b.signalReport n s v t).unitsKept = b.unitsKept := by
  unfold Blocks.signalReport
  dsimp only
  (repeat' split) <;> simp

theorem Blocks.deliverSlot_unitsKept (sent : List SlotValue) (q : Bool) (x : Nat × SlotStatus) :
    (b.deliverSlot n sent q t x).unitsKept = b.unitsKept := by
  unfold Blocks.deliverSlot
  split
  · split
    · rfl
    split
    · exact Blocks.sectionReport_unitsKept _ _ _ _
    · rfl
  · split
    · rfl
    split
    · exact Blocks.updPoint_unitsKept _ _ _
    · rfl
  · split
    · rfl
    · exact Blocks.signalReport_unitsKept _ _ _ _ _

theorem Blocks.checkAspects_unitsKept (sent : List SlotValue) (ss : List SlotStatus) :
    (b.checkAspects n sent ss t).unitsKept = b.unitsKept :=
  foldl_same Blocks.unitsKept _ (fun b x => by
    split
    · rfl
    · (repeat' split) <;> rfl) _ _

theorem Blocks.refreshUnit_unitsKept : (b.refreshUnit n).unitsKept = b.unitsKept := by
  unfold Blocks.refreshUnit
  split
  · rfl
  · exact (foldl_same Blocks.unitsKept _ Blocks.refreshPoint_unitsKept _ _).trans
      (foldl_same Blocks.unitsKept _ Blocks.refreshSignal_unitsKept _ _)

theorem Blocks.loseUnit_unitsKept : (b.loseUnit n t).unitsKept = b.unitsKept := by
  have hsec : ∀ (c : Blocks) m, (c.loseSection m t).unitsKept = c.unitsKept := fun c m => by
    unfold Blocks.loseSection
    simp
  have hpoint : ∀ (c : Blocks) m, (c.losePoint m n).unitsKept = c.unitsKept := fun c m => by
    unfold Blocks.losePoint
    split
    · rfl
    · simp
  have hsig : ∀ (c : Blocks) m, (c.loseSignal m t).unitsKept = c.unitsKept := fun c m => by
    unfold Blocks.loseSignal
    split
    · rfl
    · dsimp only
      split <;> simp
  unfold Blocks.loseUnit
  split
  · rfl
  · refine (foldl_same Blocks.unitsKept _ Blocks.refreshPoint_unitsKept _ _).trans ?_
    refine (foldl_same Blocks.unitsKept _ Blocks.refreshSignal_unitsKept _ _).trans ?_
    refine (foldl_same Blocks.unitsKept _ hsig _ _).trans ?_
    exact (foldl_same Blocks.unitsKept _ hpoint _ _).trans (foldl_same Blocks.unitsKept _ hsec _ _)

theorem Blocks.unitSeen_unitsKept : (b.unitSeen n).unitsKept = b.unitsKept := by
  have hsweep : ∀ c : Blocks, c.completeSweep.unitsKept = c.unitsKept := fun c => by
    unfold Blocks.completeSweep
    (repeat' split) <;> rfl
  unfold Blocks.unitSeen
  split
  · exact hsweep _
  · rfl

theorem Blocks.unitAlarms_unitsKept (s : UnitState) : (b.unitAlarms n s t).unitsKept = b.unitsKept := by
  unfold Blocks.unitAlarms
  split <;> rfl

end

/-! ### The record of one unit -/

theorem Blocks.updUnit_rec (b : Blocks) (n m : Nat) (f : UnitRec → UnitRec) :
    (b.updUnit n f).unitRec m = if n = m then (b.unitRec m).map f else b.unitRec m := by
  unfold Blocks.unitRec
  rw [b.updUnit_units, List.getElem?_modify]
  by_cases e : n = m
  · simp [e]
  · simp [e]

/-- The unit has a record with these state, counts, last status and last reply. -/
def Blocks.UnitIs (b : Blocks) (n : Nat) (k : UnitState × Nat × Nat × Option (List SlotStatus) × Option Clock) : Prop :=
  ∃ v, b.unitRec n = some v ∧ v.kept = k

namespace Blocks.UnitIs

variable {b d : Blocks} {n : Nat} {k : UnitState × Nat × Nat × Option (List SlotStatus) × Option Clock}

theorem of_kept (h : b.UnitIs n k) (e : d.unitsKept = b.unitsKept) : d.UnitIs n k := by
  obtain ⟨v, hv, hk⟩ := h
  have hmap : (d.unitRec n).map UnitRec.kept = some k := by
    refine (getElem?_map_eq (f := UnitRec.kept) e n).trans ?_
    rw [show b.units[n]? = some v from hv, Option.map_some, hk]
  obtain ⟨w, hw, hwk⟩ := Option.map_eq_some_iff.mp hmap
  exact ⟨w, hw, hwk⟩

theorem updUnit {f : UnitRec → UnitRec} {k' : UnitState × Nat × Nat × Option (List SlotStatus) × Option Clock}
    (h : b.UnitIs n k) (hf : ∀ v, v.kept = k → (f v).kept = k') : (b.updUnit n f).UnitIs n k' := by
  obtain ⟨v, hv, hk⟩ := h
  exact ⟨f v, by rw [b.updUnit_rec, if_pos rfl, hv]; rfl, hf v hk⟩

theorem updUnit_other {f : UnitRec → UnitRec} {m : Nat} (h : b.UnitIs n k) (hm : m ≠ n) :
    (b.updUnit m f).UnitIs n k := by
  obtain ⟨v, hv, hk⟩ := h
  exact ⟨v, by rw [b.updUnit_rec, if_neg hm, hv], hk⟩

/-- R110: a poll leaves a unit that is not UNKNOWN. -/
theorem poll {x : Bus} {m : Nat} (h : b.UnitIs n k) (hk : k.1 ≠ .unknown) : (b.poll x m).UnitIs n k := by
  have hbus : ∀ r, (b.setBus x r).UnitIs n k := fun r => h.of_kept (by cases x <;> rfl)
  unfold Blocks.poll
  split
  · dsimp only
    refine UnitIs.of_kept (b := (b.setBus x _).updUnit m _) ?_ rfl
    by_cases e : m = n
    · subst e
      refine (hbus _).updUnit fun v hv => ?_
      have hs : v.state ≠ .unknown := by
        rw [← hv] at hk
        exact hk
      rw [if_neg fun q => hs q.1]
      exact hv
    · exact (hbus _).updUnit_other e
  · exact h

theorem startPoll {x : Bus} (h : b.UnitIs n k) (hk : k.1 ≠ .unknown) : (b.startPoll x).UnitIs n k := by
  have hbus : ∀ r, (b.setBus x r).unitsKept = b.unitsKept := fun r => by cases x <;> rfl
  unfold Blocks.startPoll
  dsimp only
  split
  · exact h
  split
  · exact ((h.of_kept (hbus _)).of_kept (d := (b.setBus x _).mark _) rfl).poll hk
  split
  · exact h
  · exact (h.of_kept (hbus _)).poll hk

end Blocks.UnitIs

/-! ### A valid reply (R113, R115, R117) -/

theorem replyState_cases (s : UnitState) (good : Nat) (ok : Bool) :
    (replyState s good ok).1 = .active ∨ (replyState s good ok).1 = .syncing ∨ (replyState s good ok).1 = .fault := by
  unfold replyState
  split
  · split
    · exact .inl rfl
    · exact .inl rfl
    · exact .inr (.inl rfl)
    · exact .inr (.inl rfl)
    · split
      · exact .inl rfl
      · exact .inr (.inl rfl)
  · exact .inr (.inr rfl)

/-- R116, R117: the last status of a unit after a reply that makes its state s. -/
def UnitRec.lastAfter (u : UnitRec) (s : UnitState) (statuses : List SlotStatus) : Option (List SlotStatus) :=
  if s = .active then some statuses
  else if s = .fault ∧ u.state ≠ .fault then none
  else u.lastStatus

theorem UnitRec.lastAfter_active (u : UnitRec) (ss : List SlotStatus) : u.lastAfter .active ss = some ss := rfl

theorem UnitRec.lastAfter_syncing (u : UnitRec) (ss : List SlotStatus) : u.lastAfter .syncing ss = u.lastStatus := rfl

theorem UnitRec.lastAfter_fault (u : UnitRec) (ss : List SlotStatus) :
    u.lastAfter .fault ss = if u.state = .fault then u.lastStatus else none := by
  unfold UnitRec.lastAfter
  by_cases h : u.state = .fault <;> simp [h]

/-- R115: the record of the unit after a valid reply. -/
theorem Blocks.takeReply_unit {b : Blocks} {x : Bus} {ex : Exchange} {u : UnitRec} (ok : Bool)
    (statuses : List SlotStatus) (hu : b.unitRec ex.unit = some u) (v : UnitState × Nat)
    (hv : v = replyState u.state u.good (ok && !anyWrongAspect ex.sent statuses)) :
    (b.takeReply x ex u ok statuses).UnitIs ex.unit (v.1, 0, v.2, u.lastAfter v.1 statuses, some b.clock) := by
  obtain ⟨state, good⟩ := v
  dsimp only
  have hstate : state = .active ∨ state = .syncing ∨ state = .fault := by
    have := replyState_cases u.state u.good (ok && !anyWrongAspect ex.sent statuses)
    rwa [← hv] at this
  have h0 : (b.closeExchange x).UnitIs ex.unit u.kept :=
    UnitIs.of_kept (b := b) ⟨u, hu, rfl⟩ (by cases x <;> rfl)
  have h1 := h0.updUnit (f := fun u => { u with miss := 0, lastReply := some b.clock })
    (k' := (u.state, 0, u.good, u.lastStatus, some b.clock)) fun w hw => by
      simp only [UnitRec.kept, Prod.mk.injEq] at hw ⊢
      simp [hw]
  have h2 := h1.of_kept (Blocks.checkAspects_unitsKept _ ex.unit b.clock ex.sent statuses)
  have h3 := h2.updUnit (f := fun u => { u with state := state, good := good })
    (k' := (state, 0, good, u.lastStatus, some b.clock)) fun w hw => by
      simp only [UnitRec.kept, Prod.mk.injEq] at hw ⊢
      simp [hw]
  unfold Blocks.takeReply
  dsimp only
  rw [← hv]
  dsimp only
  generalize Blocks.updUnit _ ex.unit (fun u => { u with state := state, good := good }) = c at h3 ⊢
  have h4 : (if u.state = state then c else c.refreshUnit ex.unit).UnitIs ex.unit
      (state, 0, good, u.lastStatus, some b.clock) := by
    split
    · exact h3
    · exact h3.of_kept (Blocks.refreshUnit_unitsKept c ex.unit)
  generalize (if u.state = state then c else c.refreshUnit ex.unit) = d at h4 ⊢
  have halarms := fun c : Blocks => Blocks.unitAlarms_unitsKept c ex.unit b.clock
  rcases hstate with rfl | rfl | rfl
  · have h5 : (d.deliver ex.unit (decide (u.state ≠ .active)) u.lastStatus ex.sent statuses b.clock).UnitIs ex.unit
        (.active, 0, good, some statuses, some b.clock) := by
      unfold Blocks.deliver
      refine UnitIs.updUnit (k := (.active, 0, good, u.lastStatus, some b.clock)) ?_ fun w hw => by
        simp only [UnitRec.kept, Prod.mk.injEq] at hw ⊢
        simp [hw]
      refine h4.of_kept ((foldl_same Blocks.unitsKept _ (fun b n => b.applyDetection_unitsKept n _) _ _).trans ?_)
      exact foldl_same Blocks.unitsKept _ (fun c x => c.deliverSlot_unitsKept _ _ _ _ x) _ _
    rw [if_pos rfl, UnitRec.lastAfter_active]
    split
    · exact h5
    · exact (h5.of_kept (halarms _ _)).of_kept (Blocks.unitSeen_unitsKept _ _)
  · rw [if_neg (show ¬UnitState.syncing = .active from nofun), UnitRec.lastAfter_syncing]
    split
    · exact h4
    · exact h4.of_kept (halarms _ _)
  · rw [if_neg (show ¬UnitState.fault = .active from nofun), UnitRec.lastAfter_fault]
    by_cases hf : u.state = .fault
    · rw [if_pos hf, if_pos hf]
      exact h4
    · rw [if_neg hf, if_neg hf]
      refine UnitIs.of_kept (b := (d.unitAlarms ex.unit .fault b.clock).updUnit ex.unit
        (fun u => { u with lastStatus := none })) ?_ (Blocks.loseUnit_unitsKept _ _ _)
      refine (h4.of_kept (halarms d .fault)).updUnit fun w hw => ?_
      simp only [UnitRec.kept, Prod.mk.injEq] at hw ⊢
      simp [hw]

/-! ### REPLY_COMPLETE (R111, R112) -/

theorem Blocks.replyComplete_valid {b : Blocks} {x : Bus} {e : Exchange} {k : UnitEntry} {u : UnitRec}
    {chars : List LineChar} {r : Reply} {ok : Bool} {statuses : List SlotStatus} (hm : b.mode ≠ .halted)
    (he : (b.busRec x).exchange = some e) (hspent : e.spent = false) (htime : e.inTime b.clock = true)
    (hk : b.unitEntry e.unit = some k) (hu : b.unitRec e.unit = some u)
    (hr : collectReply k.slots.length chars = some r) (hv : validReply k e.seq r = some (ok, statuses)) :
    b.replyComplete x chars = some (b.takeReply x e u ok statuses) := by
  unfold Blocks.replyComplete
  simp [he, hk, hu, hspent, htime, hr, hv, hm]

theorem State.asleep_false {s : State} (h : s.asleep = false) : s.held = false ∧ s.blocks.mode ≠ .halted := by
  unfold State.asleep at h
  simpa using h

/-- A valid reply as an event, and the unit after it. -/
theorem State.replyComplete_next {s : State} {x : Bus} {e : Exchange} {k : UnitEntry} {u : UnitRec}
    {chars : List LineChar} {r : Reply} {ok : Bool} {statuses : List SlotStatus} (h : s.asleep = false)
    (he : (s.blocks.busRec x).exchange = some e) (hspent : e.spent = false) (htime : e.inTime s.blocks.clock = true)
    (hk : s.blocks.unitEntry e.unit = some k) (hu : s.blocks.unitRec e.unit = some u)
    (hr : collectReply k.slots.length chars = some r) (hv : validReply k e.seq r = some (ok, statuses)) :
    exec (.replyComplete x chars) s =
      .next (s.finish s.port ((s.blocks.takeReply x e u ok statuses).settle.startPoll x)) := by
  obtain ⟨hheld, hm⟩ := State.asleep_false h
  have hawake : (s.blocks.takeReply x e u ok statuses).mode ≠ .halted :=
    ((Blocks.Neutral.refl s.blocks).takeReply x e u ok statuses).awake hm
  have := State.busEvent_next s x (fun b => b.replyComplete x chars) _ hheld
    (Blocks.replyComplete_valid hm he hspent htime hk hu hr hv)
  rw [if_neg hawake] at this
  exact this

theorem State.finish_startPoll_unit (s : State) (p : Port) {b : Blocks} {x : Bus} {n : Nat}
    {k : UnitState × Nat × Nat × Option (List SlotStatus) × Option Clock} (h : b.UnitIs n k) (hk : k.1 ≠ .unknown) :
    (s.finish p (b.settle.startPoll x)).blocks.UnitIs n k :=
  ((h.of_kept (Blocks.Follows.settle (full := true) b).units).startPoll hk).of_kept (State.finish_kept s p _).units

/-- R113: the table of the states after a reply. -/
theorem UnitRec.after_reply {u v : UnitRec} {q : Bool} {statuses : List SlotStatus} {now : Clock}
    (h : v.kept = ((replyState u.state u.good q).1, 0, (replyState u.state u.good q).2,
      u.lastAfter (replyState u.state u.good q).1 statuses, some now)) :
    v.miss = 0 ∧ v.lastReply = some now ∧
    (q = false → v.state = .fault ∧ v.good = 0 ∧ (u.state ≠ .fault → v.lastStatus = none)) ∧
    (q = true →
      (u.state = .active → v.state = .active) ∧
      (u.state = .suspect → v.state = .active ∧ v.good = 2) ∧
      (u.state = .lost ∨ u.state = .fault → v.state = .syncing ∧ v.good = 1) ∧
      (u.state = .syncing → u.good = 0 → v.state = .syncing ∧ v.good = 1) ∧
      (u.state = .syncing → u.good = 1 → v.state = .active ∧ v.good = 2) ∧
      (v.state = .active → v.lastStatus = some statuses) ∧
      (v.state = .syncing → v.lastStatus = u.lastStatus)) := by
  simp only [UnitRec.kept, Prod.mk.injEq] at h
  obtain ⟨hstate, hmiss, hgood, hlast, hreply⟩ := h
  refine ⟨hmiss, hreply, ?_, ?_⟩
  · rintro rfl
    refine ⟨hstate, hgood, fun hf => ?_⟩
    rw [hlast]
    exact (u.lastAfter_fault statuses).trans (if_neg hf)
  · rintro rfl
    refine ⟨fun hs => ?_, fun hs => ?_, fun hs => ?_, fun hs hg => ?_, fun hs hg => ?_, fun ha => ?_, fun ha => ?_⟩
    · rw [hstate, hs]
      rfl
    · rw [hstate, hgood, hs]
      exact ⟨rfl, rfl⟩
    · rw [hstate, hgood]
      rcases hs with hs | hs <;> rw [hs] <;> exact ⟨rfl, rfl⟩
    · rw [hstate, hgood, hs, hg]
      exact ⟨rfl, rfl⟩
    · rw [hstate, hgood, hs, hg]
      exact ⟨rfl, rfl⟩
    · rw [hlast, ← hstate, ha]
      rfl
    · rw [hlast, ← hstate, ha]
      rfl

end Sys2Proof.Machine
end

section

namespace Sys2Proof.Machine

/-! ### Which statuses are delivered, and to what (R116) -/

theorem delivered_iff (activating : Bool) (last : Option (List SlotStatus)) (k : Nat) (x : SlotStatus) :
    delivered activating last (k, x) = true ↔ activating = true ∨ ∀ l, last = some l → l[k]? ≠ some x := by
  unfold delivered
  cases last <;> simp

section

variable (b : Blocks) (unit k : Nat) (sent : List SlotValue) (isNew : Bool) (t : Clock)

theorem Blocks.deliverSlot_section {n : Nat} (st : SectionStatus) (h : b.sectionAt unit k = some n) :
    b.deliverSlot unit sent isNew t (k, .sec st) = if isNew then b.sectionReport n st t else b := by
  unfold Blocks.deliverSlot
  simp only [h]

theorem Blocks.deliverSlot_point {n j : Nat} (pos : Option Position) (h : b.pointAt unit k = some (n, j)) :
    b.deliverSlot unit sent isNew t (k, .point pos) =
      if isNew then b.updPoint n (fun p => { p with detection := p.detection.set j pos }) else b := by
  unfold Blocks.deliverSlot Blocks.writeDetection
  simp only [h]

theorem Blocks.deliverSlot_signal {n : Nat} (shown : Shown) (h : b.signalAt unit k = some n) :
    b.deliverSlot unit sent isNew t (k, .signal shown) = b.signalReport n shown sent[k]? t := by
  unfold Blocks.deliverSlot
  simp only [h]

end

/-- R34: the alarm of a counted reply. -/
theorem SignalRec.counted_alarms (r : SignalRec) (shown : Shown) (up down : AlarmOp) :
    ((r.commanded, shown) ∈ [(Aspect.stop, Shown.stop), (.proceed, .proceed), (.restricted, .restricted)] →
      (if (r.counted shown).lampFault = true ∧ r.lampFault = false then [up]
       else if r.lampFault = true ∧ (r.counted shown).lampFault = false then [down] else []) =
        if r.lampFault then [down] else []) ∧
    ((r.commanded, shown) ∉ [(Aspect.stop, Shown.stop), (.proceed, .proceed), (.restricted, .restricted)] →
      (if (r.counted shown).lampFault = true ∧ r.lampFault = false then [up]
       else if r.lampFault = true ∧ (r.counted shown).lampFault = false then [down] else []) =
        if r.lampFault = false ∧ 2 ≤ r.mismatchCount + 1 then [up] else []) := by
  refine ⟨fun h => ?_, fun h => ?_⟩
  · rw [SignalRec.counted_matched h]
    cases r.lampFault <;> rfl
  · rw [SignalRec.counted_mismatched h]
    cases r.lampFault <;> simp

/-- Settles O44: the record of the unit by the steps of a valid reply; the delivered statuses by the table of each kind;
the loss of a unit element by element. -/
theorem validReplyMovesTheUnitState : Obligations.ValidReplyMovesTheUnitState := by
  unfold Obligations.ValidReplyMovesTheUnitState
  refine ⟨?_, delivered_iff, ?_, ?_, detectedPosition_eq_some, ?_, ?_, ?_, ?_⟩
  · intro x e k u chars r ok statuses s hawake _ he hspent htime hk hu hunknown hr hv
    have hexec := State.replyComplete_next hawake he hspent htime hk hu hr hv
    refine ⟨hexec, ?_⟩
    rw [hexec]
    have hstate : (replyState u.state u.good (ok && !anyWrongAspect e.sent statuses)).1 ≠ .unknown := by
      rcases replyState_cases u.state u.good (ok && !anyWrongAspect e.sent statuses) with h | h | h <;> rw [h] <;> nofun
    obtain ⟨v, hvrec, hvkept⟩ := s.finish_startPoll_unit s.port (x := x)
      (Blocks.takeReply_unit (x := x) ok statuses hu _ rfl) hstate
    exact ⟨v, hvrec, UnitRec.after_reply hvkept⟩
  · exact fun b unit k n sent isNew t => ⟨fun st h => b.deliverSlot_section unit k sent isNew t st h,
      fun pos j h => b.deliverSlot_point unit k sent isNew t pos h,
      fun shown h => b.deliverSlot_signal unit k sent isNew t shown h⟩
  · intro b d n st t e r o he hr hd ho
    obtain rfl : o = r.reported e st := ho
    subst hd
    exact Blocks.sectionReport_effect st t he hr
  · intro b d n t p pos hp hpos hd
    subst hd
    exact Blocks.applyDetection_effect t hp hpos
  · intro b d n shown sent t r hr hd
    subst hd
    obtain ⟨hother, hcounted, hrest⟩ := Blocks.signalReport_effect shown sent t hr
    obtain ⟨hmatch, hmis⟩ := r.counted_alarms shown (.raised .signalLampFault (.signal n) t)
      (.ended .signalLampFault (.signal n) t)
    refine ⟨hother, fun hs hm => ?_, fun hs hm => ?_, hrest⟩
    · obtain ⟨hrec, hal⟩ := hcounted hs
      rw [hrec, hal, hmatch hm, SignalRec.counted_matched hm]
      exact ⟨rfl, rfl⟩
    · obtain ⟨hrec, hal⟩ := hcounted hs
      rw [hrec, hal, hmis hm, SignalRec.counted_mismatched hm]
      exact ⟨rfl, rfl⟩
  · intro b d unit t i hi hd
    subst hd
    obtain ⟨-, hfreed⟩ := Prod.mk.inj (Blocks.loseUnit_lossRest hi unit t)
    obtain ⟨hfreed, hans⟩ := Prod.mk.inj hfreed
    exact ⟨fun n e r he hr => Blocks.loseUnit_sectionRec hi unit t he hr,
      fun n e p he hp => Blocks.loseUnit_pointRec hi unit t he hp,
      fun n e r he hr => Blocks.loseUnit_signalRec hi unit t he hr, Blocks.loseUnit_alarms hi unit t, hfreed, hans⟩
  · intro b n target e p he hp
    exact ⟨fun hs hr => Blocks.drive_moving he hp hs hr, fun hm => ⟨fun h => Blocks.drive_refused he hp hm h,
      fun h1 h2 => Blocks.drive_starts he hp hm h1 h2⟩⟩

end Sys2Proof.Machine
end

section

namespace Sys2Proof.Machine

/-! PROOF. The derived slots, the urgent list and the polls (R44, R110, R119, R120, R122). -/

/-! ### Telegrams on the line -/

theorem bytesBE16_length (v : Nat) : (bytesBE16 v).length = 2 := rfl

/-- A telegram carries its bytes and the two CRC characters. -/
theorem telegramChars_data (bytes : List Byte) :
    (telegramChars bytes).map (·.data) = bytes ++ bytesBE16 (crc16 bytes).toNat := by
  unfold telegramChars
  dsimp only
  split
  · next h => simpa using h.symm
  · next b bs h =>
    rw [h, List.map_cons, List.map_map]
    exact congrArg (b :: ·) (List.map_id bs)

theorem telegramChars_length (bytes : List Byte) : (telegramChars bytes).length = bytes.length + 2 := by
  rw [← List.length_map (f := (·.data)), telegramChars_data, List.length_append, bytesBE16_length]

/-- The opening character alone is marked, and every stop bit is sent. -/
theorem telegramChars_marks (bytes : List Byte) (k : Nat) (ch : LineChar) (h : (telegramChars bytes)[k]? = some ch) :
    ch.marker = decide (k = 0) ∧ ch.stop = true := by
  unfold telegramChars at h
  dsimp only at h
  split at h
  · simp at h
  · cases k with
    | zero =>
      obtain rfl := Option.some.inj h
      exact ⟨rfl, rfl⟩
    | succ k =>
      rw [List.getElem?_cons_succ, List.getElem?_map] at h
      obtain ⟨d, -, rfl⟩ := Option.map_eq_some_iff.mp h
      exact ⟨rfl, rfl⟩

theorem crc16Ok_telegramChars (bytes : List Byte) : crc16Ok ((telegramChars bytes).map (·.data)) = true := by
  rw [telegramChars_data]
  unfold crc16Ok
  simp [bytesBE16_length]

/-! ### The values of the slots -/

theorem Blocks.unitDown_iff (b : Blocks) (n : Nat) :
    b.unitDown n = true ↔ ∃ u, b.unitRec n = some u ∧ (u.state = .lost ∨ u.state = .fault) := by
  unfold Blocks.unitDown
  cases b.unitRec n <;> simp

/-- R44: a unit LOST or FAULT holds the point. -/
theorem Blocks.pointSlot_down {b : Blocks} {e : PointEntry} (r : PointRec)
    (h : ∃ c ∈ e.ends, b.unitDown c.unit = true) : b.pointSlot e r = .hold := by
  unfold Blocks.pointSlot
  rw [if_pos (List.any_eq_true.mpr h)]

/-- R44: with its units up, the point's own record decides. -/
theorem Blocks.pointSlot_up {b : Blocks} {e : PointEntry} (r : PointRec)
    (h : ∀ c ∈ e.ends, b.unitDown c.unit ≠ true) : b.pointSlot e r =
      if r.state = .moving ∧ r.possessed = false then
        r.ref.elim .hold .drive
      else .hold := by
  unfold Blocks.pointSlot
  rw [if_neg (fun hd => by
    obtain ⟨c, hc, hcd⟩ := List.any_eq_true.mp hd
    exact h c hc hcd)]
  cases r.ref <;> rfl

theorem Blocks.pointSlot_hold {b : Blocks} {e : PointEntry} {r : PointRec} (h : ∀ c ∈ e.ends, b.unitDown c.unit ≠ true)
    (hr : r.state ≠ .moving ∨ r.possessed = true ∨ r.ref = none) : b.pointSlot e r = .hold := by
  rw [b.pointSlot_up r h]
  split
  · next hm =>
    have hnone : r.ref = none := by simpa [hm.1, hm.2] using hr
    rw [hnone]
    rfl
  · rfl

/-! ### A change of a record and the slots that follow it -/

theorem getElem?_set_of_some {α : Type} {l : List α} {n : Nat} {x : α} (h : l[n]? = some x) (y : α) :
    (l.set n y)[n]? = some y :=
  List.getElem?_set_self (List.getElem?_eq_some_iff.mp h).1

/-- R44: a changed signal record takes its slot with it. -/
theorem Blocks.updSignal_of_ne {b : Blocks} {n : Nat} {f : SignalRec → SignalRec} {e : SignalEntry} {r : SignalRec}
    (he : b.signalEntry n = some e) (hr : b.signalRec n = some r) (hf : f r ≠ r) :
    b.updSignal n f =
      (Blocks.mark { b with signals := b.signals.set n (f r) } (.signal n)).setSlot e.unit e.slot
        (b.signalSlot e (f r)) (b.signalSlot e (f r) = .signal .stop) := by
  have hentry : (Blocks.mark { b with signals := b.signals.set n (f r) } (.signal n)).signalEntry n = some e := he
  have hrec : (Blocks.mark { b with signals := b.signals.set n (f r) } (.signal n)).signalRec n = some (f r) :=
    getElem?_set_of_some hr (f r)
  unfold Blocks.updSignal
  rw [hr]
  dsimp only
  rw [if_neg hf]
  unfold Blocks.refreshSignal
  rw [hentry, hrec]
  rfl

/-- R44: a changed point record takes its slots with it, end by end. -/
theorem Blocks.updPoint_of_ne {b : Blocks} {n : Nat} {f : PointRec → PointRec} {e : PointEntry} {p : PointRec}
    (he : b.pointEntry n = some e) (hp : b.pointRec n = some p) (hf : f p ≠ p) :
    b.updPoint n f =
      e.ends.foldl (fun d x => d.setSlot x.unit x.slot (b.pointSlot e (f p)) ((f p).state = .failed))
        (Blocks.mark { b with points := b.points.set n (f p) } (.point n)) := by
  have hentry : (Blocks.mark { b with points := b.points.set n (f p) } (.point n)).pointEntry n = some e := he
  have hrec : (Blocks.mark { b with points := b.points.set n (f p) } (.point n)).pointRec n = some (f p) :=
    getElem?_set_of_some hp (f p)
  unfold Blocks.updPoint
  rw [hp]
  dsimp only
  rw [if_neg hf]
  unfold Blocks.refreshPoint
  rw [hentry, hrec]
  rfl

/-! ### The outgoing image and the urgent list -/

section

variable {b : Blocks} {n slot : Nat} {v : SlotValue} {urgent : Bool} {u : UnitRec}

/-- R119, R122: an image stands in HALTED, and where the slot already carries the value or does not exist. -/
theorem Blocks.setSlot_same (hu : b.unitRec n = some u)
    (h : b.mode = .halted ∨ u.image[slot]? = some v ∨ u.image[slot]? = none) : b.setSlot n slot v urgent = b := by
  rw [List.getElem?_eq_none_iff] at h
  unfold Blocks.setSlot
  rw [hu]
  dsimp only
  rw [if_pos h]

/-- The blocks with a slot of a unit's outgoing image written (R119). -/
def Blocks.imageSet (b : Blocks) (n slot : Nat) (v : SlotValue) (u : UnitRec) : Blocks :=
  Blocks.mark { b with units := b.units.set n { u with image := u.image.set slot v } } (.unit n)

/-- R119: a changed value goes into the image, and an urgent one lists the unit. -/
theorem Blocks.setSlot_changed (hu : b.unitRec n = some u) (hm : b.mode ≠ .halted)
    (h : ∃ x, u.image[slot]? = some x ∧ x ≠ v) : b.setSlot n slot v urgent =
      if urgent then (b.imageSet n slot v u).addUrgent n else b.imageSet n slot v u := by
  obtain ⟨x, hx, hne⟩ := h
  have hlt : ¬ u.image.length ≤ slot := Nat.not_le.mpr (List.getElem?_eq_some_iff.mp hx).1
  unfold Blocks.setSlot
  rw [hu]
  dsimp only
  rw [if_neg (by rintro (h | h | h); exacts [hm h, hne (Option.some.inj (hx.symm.trans h)), hlt h])]
  rfl

end

/-- R119: a unit is listed as urgent once. -/
theorem Blocks.addUrgent_eq {b : Blocks} {n : Nat} {e : UnitEntry} (he : b.unitEntry n = some e) : b.addUrgent n =
    if n ∈ (b.busRec e.bus).urgent then b
    else (b.setBus e.bus { b.busRec e.bus with urgent := (b.busRec e.bus).urgent ++ [n] }).mark (.unit n) := by
  unfold Blocks.addUrgent
  rw [he]
  simp only [List.contains_iff_mem]

end Sys2Proof.Machine
end

section

namespace Sys2Proof.Machine

/-! PROOF. Which unit is polled next, and what the poll does (R110, R120, R122). -/

/-! ### The round robin -/

/-- In a list ordered by address, the search for a property ends at the one entry of the least address that has it. -/
theorem find?_eq_of_least {l : List (Nat × Nat)} {p : Nat × Nat → Bool} {x : Nat × Nat}
    (hl : l.Pairwise (fun u v => u.1 ≤ v.1)) (hx : x ∈ l) (hp : p x = true)
    (hleast : ∀ y ∈ l, p y = true → x.1 ≤ y.1) (hone : ∀ y ∈ l, y.1 = x.1 → y = x) : l.find? p = some x := by
  cases hf : l.find? p with
  | none => exact absurd hp (List.find?_eq_none.mp hf x hx)
  | some y =>
    obtain ⟨hy, before, after, rfl, hbefore⟩ := List.find?_eq_some_iff_append.mp hf
    have hmem : y ∈ before ++ y :: after := List.mem_append_right _ List.mem_cons_self
    have hle : y.1 ≤ x.1 := by
      rcases List.mem_append.mp hx with h | h
      · exact absurd hp (by simpa using hbefore x h)
      rcases List.mem_cons.mp h with rfl | h
      · exact le_rfl
      · exact List.rel_of_pairwise_cons (List.pairwise_append.mp hl).2.1 h
    rw [hone y hmem (Nat.le_antisymm hle (hleast y hmem hy))]

section

variable {l : List (Nat × Nat)} {position : Option Nat} {x : Nat × Nat}

/-- R120: the next unit by address above the position. -/
theorem nextInRound_above (hl : l.Pairwise (fun u v => u.1 ≤ v.1)) (hx : x ∈ l)
    (hone : ∀ y ∈ l, y.1 = x.1 → y = x) (habove : ∀ p, position = some p → p < x.1)
    (hleast : ∀ y ∈ l, y.1 < x.1 → ∃ p, position = some p ∧ y.1 ≤ p) : nextInRound l position = some x := by
  unfold nextInRound
  rw [find?_eq_of_least hl hx ?_ ?_ hone, Option.some_or]
  · cases position with
    | none => rfl
    | some p => exact decide_eq_true (habove p rfl)
  · intro y hy hp
    by_contra hlt
    obtain ⟨p, rfl, hle⟩ := hleast y hy (Nat.not_le.mp hlt)
    exact absurd (of_decide_eq_true hp) (Nat.not_lt.mpr hle)

/-- R120: above the last address the round begins again at the lowest. -/
theorem nextInRound_wraps (hl : l.Pairwise (fun u v => u.1 ≤ v.1)) (hx : x ∈ l)
    (hone : ∀ y ∈ l, y.1 = x.1 → y = x) {p : Nat} (hp : position = some p)
    (hleast : ∀ y ∈ l, y.1 ≤ p ∧ x.1 ≤ y.1) : nextInRound l position = some x := by
  have hnone : l.find? (fun u => position.all (fun p => p < u.1)) = none := by
    rw [List.find?_eq_none]
    intro y hy
    rw [hp]
    simpa using (hleast y hy).1
  have hhead : l.head? = some x := by
    have hfind : l.head? = l.find? (fun _ => true) := by cases l <;> rfl
    rw [hfind]
    exact find?_eq_of_least hl hx rfl (fun y hy _ => (hleast y hy).2) hone
  unfold nextInRound
  rw [hnone, hhead]
  rfl

end

/-- A bus without units has none to choose. -/
theorem Blocks.busUnits_eq_nil {b : Blocks} {x : Bus}
    (h : ∀ n e, b.unitEntry n = some e → e.address < 32 → e.bus ≠ x) : b.busUnits x = [] := by
  rw [List.eq_nil_iff_forall_not_mem]
  rintro ⟨a, n⟩ hmem
  obtain ⟨ha, e, he, hbus, rfl⟩ := (b.mem_busUnits x a n).mp hmem
  exact h n e he ha hbus

/-! ### The choice of the next unit -/

section

variable {b : Blocks} {x : Bus} {n : Nat} {e : UnitEntry}

/-- R120: an outstanding exchange is left. -/
theorem Blocks.startPoll_busy (h : (b.busRec x).exchange ≠ none) : b.startPoll x = b := by
  unfold Blocks.startPoll
  dsimp only
  rw [if_pos (Option.isSome_iff_ne_none.mpr h)]

/-- R120: the oldest urgent unit is polled first. -/
theorem Blocks.startPoll_urgent {rest : List Nat} (h : (b.busRec x).exchange = none)
    (hu : (b.busRec x).urgent = n :: rest) :
    b.startPoll x = ((b.setBus x { b.busRec x with urgent := rest }).mark (.unit n)).poll x n := by
  unfold Blocks.startPoll
  dsimp only
  rw [if_neg (by simp [h]), hu]

/-- R120: with none urgent the round robin chooses. -/
theorem Blocks.startPoll_round (h : (b.busRec x).exchange = none) (hu : (b.busRec x).urgent = []) :
    b.startPoll x = (nextInRound (b.busUnits x) (b.busRec x).position).elim b
      (fun u => (b.setBus x { b.busRec x with position := some u.1 }).poll x u.2) := by
  unfold Blocks.startPoll
  dsimp only
  rw [if_neg (by simp [h]), hu]
  dsimp only
  cases nextInRound (b.busUnits x) (b.busRec x).position <;> rfl

/-- R120: no unit on the bus, no poll. -/
theorem Blocks.startPoll_empty (h : (b.busRec x).exchange = none) (hu : (b.busRec x).urgent = [])
    (hnone : ∀ n e, b.unitEntry n = some e → e.address < 32 → e.bus ≠ x) : b.startPoll x = b := by
  rw [Blocks.startPoll_round h hu, Blocks.busUnits_eq_nil hnone]
  rfl

/-- R120: the unit the round robin comes to is the next above the position, or the lowest when none is above. -/
theorem Blocks.nextInRound_busUnits (he : b.unitEntry n = some e) (hx : e.bus = x) (ha : e.address < 32)
    (hone : ∀ m k, b.unitEntry m = some k → k.bus = x → k.address = e.address → m = n)
    (hnext : ((∀ y, (b.busRec x).position = some y → y < e.address) ∧
        (∀ m k, b.unitEntry m = some k → k.bus = x → k.address < 32 → k.address < e.address →
          ∃ y, (b.busRec x).position = some y ∧ k.address ≤ y) ∨
      (∃ y, (b.busRec x).position = some y ∧
        ∀ m k, b.unitEntry m = some k → k.bus = x → k.address < 32 → k.address ≤ y ∧ e.address ≤ k.address))) :
    nextInRound (b.busUnits x) (b.busRec x).position = some (e.address, n) := by
  have hmem : (e.address, n) ∈ b.busUnits x := (b.mem_busUnits x _ _).mpr ⟨ha, e, he, hx, rfl⟩
  have hsame : ∀ y ∈ b.busUnits x, y.1 = e.address → y = (e.address, n) := by
    rintro ⟨a, m⟩ hy rfl
    obtain ⟨-, k, hk, hbus, haddr⟩ := (b.mem_busUnits x _ _).mp hy
    rw [hone m k hk hbus haddr]
  rcases hnext with ⟨habove, hleast⟩ | ⟨p, hp, hleast⟩
  · refine nextInRound_above (b.busUnits_by_address x) hmem hsame habove ?_
    rintro ⟨a, m⟩ hy hlt
    obtain ⟨ha', k, hk, hbus, rfl⟩ := (b.mem_busUnits x _ _).mp hy
    exact hleast m k hk hbus ha' hlt
  · refine nextInRound_wraps (b.busUnits_by_address x) hmem hsame hp ?_
    rintro ⟨a, m⟩ hy
    obtain ⟨ha', k, hk, hbus, rfl⟩ := (b.mem_busUnits x _ _).mp hy
    exact hleast m k hk hbus ha'

end

/-! ### A poll -/

@[simp] theorem Blocks.busRec_setBus (b : Blocks) (x : Bus) (r : BusRec) : (b.setBus x r).busRec x = r := by
  cases x <;> rfl

@[simp] theorem Blocks.unitRec_setBus (b : Blocks) (x : Bus) (r : BusRec) (n : Nat) :
    (b.setBus x r).unitRec n = b.unitRec n := by
  cases x <;> rfl

@[simp] theorem Blocks.sent_setBus (b : Blocks) (x : Bus) (r : BusRec) : (b.setBus x r).work.sent = b.work.sent := by
  cases x <;> rfl

@[simp] theorem Blocks.busRec_updUnit (b : Blocks) (n : Nat) (f : UnitRec → UnitRec) (x : Bus) :
    (b.updUnit n f).busRec x = b.busRec x := by
  obtain ⟨_, _, h⟩ := b.updUnit_frame n f
  rw [h]
  rfl

@[simp] theorem Blocks.sent_updUnit (b : Blocks) (n : Nat) (f : UnitRec → UnitRec) :
    (b.updUnit n f).work.sent = b.work.sent := by
  obtain ⟨_, _, h⟩ := b.updUnit_frame n f
  rw [h]

/-- The exchange a poll opens (R110). -/
def UnitRec.pollExchange (u : UnitRec) (n : Nat) (image : List SlotValue) : Exchange :=
  { unit := n, seq := u.nextSeq, sent := image, endTime := none, spent := false }

section

variable {b : Blocks} {n : Nat} {e : UnitEntry} {u : UnitRec}

/-- R110: a poll opens the exchange, moves the unit's record on and sends the command telegram. -/
theorem Blocks.poll_eq (x : Bus) (he : b.unitEntry n = some e) (hu : b.unitRec n = some u) : ∃ c,
    c = (b.setBus x { b.busRec x with exchange := some (u.pollExchange n (b.imageToSend e u)) }).updUnit n
      (UnitRec.polled b.mode) ∧
    b.poll x n = { c with work := { c.work with
      sent := c.work.sent ++ [.command x n (commandChars e.address u.nextSeq (b.imageToSend e u))] } } := by
  refine ⟨_, rfl, ?_⟩
  unfold Blocks.poll
  rw [he, hu]
  dsimp only
  rw [Blocks.setBus_mode]
  rfl

theorem Blocks.poll_exchange (x : Bus) (he : b.unitEntry n = some e) (hu : b.unitRec n = some u) :
    ((b.poll x n).busRec x).exchange = some (u.pollExchange n (b.imageToSend e u)) := by
  obtain ⟨c, hc, h⟩ := Blocks.poll_eq x he hu
  have hbus : (b.poll x n).busRec x = c.busRec x := by rw [h]; rfl
  rw [hbus, hc, Blocks.busRec_updUnit, Blocks.busRec_setBus]

theorem Blocks.poll_unitRec (x : Bus) (he : b.unitEntry n = some e) (hu : b.unitRec n = some u) :
    (b.poll x n).unitRec n = some (u.polled b.mode) := by
  obtain ⟨c, hc, h⟩ := Blocks.poll_eq x he hu
  have hrec : (b.poll x n).unitRec n = c.unitRec n := by rw [h]; rfl
  rw [hrec, hc, Blocks.updUnit_rec, if_pos rfl, Blocks.unitRec_setBus, hu]
  rfl

theorem Blocks.poll_sent (x : Bus) (he : b.unitEntry n = some e) (hu : b.unitRec n = some u) :
    (b.poll x n).work.sent =
      b.work.sent ++ [.command x n (commandChars e.address u.nextSeq (b.imageToSend e u))] := by
  obtain ⟨c, hc, h⟩ := Blocks.poll_eq x he hu
  rw [h, hc, Blocks.sent_updUnit, Blocks.sent_setBus]

end

end Sys2Proof.Machine
end

section

namespace Sys2Proof.Machine

/-! PROOF. O45: the slots follow the records, and the polls carry them. -/

/-- Settles O45: the derived slots and the order of polls from the equations of each operation; the telegram from its
characters. -/
theorem pollsCarryTheDerivedSlots : Obligations.PollsCarryTheDerivedSlots := by
  unfold Obligations.PollsCarryTheDerivedSlots
  refine ⟨fun b e r => rfl, fun b e r => ⟨?hold, fun hup => ?drive⟩, ?signal, ?point, ?slot, ?start, ?poll⟩
  case hold =>
    rintro ⟨c, hc, hdown⟩
    exact Blocks.pointSlot_down r ⟨c, hc, (b.unitDown_iff c.unit).mpr hdown⟩
  case drive =>
    have hnot : ∀ c ∈ e.ends, b.unitDown c.unit ≠ true := by
      intro c hc hdown
      obtain ⟨u, hu, hstate⟩ := (b.unitDown_iff c.unit).mp hdown
      obtain ⟨hlost, hfault⟩ := hup c hc u hu
      exact hstate.elim hlost hfault
    refine ⟨fun x hm hp hr => ?_, Blocks.pointSlot_hold hnot⟩
    rw [b.pointSlot_up r hnot, if_pos ⟨hm, hp⟩, hr]
    rfl
  case signal =>
    rintro b n f e r he hr hf c v rfl rfl
    exact Blocks.updSignal_of_ne he hr hf
  case point =>
    rintro b n f e p he hp hf c rfl
    exact Blocks.updPoint_of_ne he hp hf
  case slot =>
    rintro b c n slot v urgent u hu rfl
    refine ⟨Blocks.setSlot_same hu, fun hm hx => ⟨?_, fun e hurgent he => ?_⟩⟩
    · rintro rfl
      exact Blocks.setSlot_changed hu hm hx
    · subst hurgent
      rw [Blocks.setSlot_changed hu hm hx, if_pos rfl, Blocks.addUrgent_eq (b := b.imageSet n slot v u) he]
      exact ⟨fun hin => if_pos hin, fun hin => if_neg hin⟩
  case start =>
    refine fun b x => ⟨Blocks.startPoll_busy, fun hx => ⟨fun n rest hu => Blocks.startPoll_urgent hx hu,
      fun hu => ⟨Blocks.startPoll_empty hx hu, fun n e he hbus ha hone hnext => ?_⟩⟩⟩
    rw [Blocks.startPoll_round hx hu, Blocks.nextInRound_busUnits he hbus ha hone hnext]
    rfl
  case poll =>
    intro b c x n e u image he hu himage hc
    have hsend : image = b.imageToSend e u := by
      rw [himage]
      rfl
    subst hc
    rw [hsend]
    refine ⟨Blocks.poll_exchange x he hu, Blocks.poll_unitRec x he hu, Blocks.poll_sent x he hu, ?_⟩
    rintro - - d rfl
    exact ⟨by simp [telegramChars_length], by simp [telegramChars_data], telegramChars_marks _,
      crc16Ok_telegramChars _⟩

end Sys2Proof.Machine
end

section

namespace Sys2Proof.Machine

/-! PROOF. The writing of mirror records (R192): the map of 11.1, the stamps, the order of an event's writes, and which
records an event changes. -/

/-! ### The map of the records (11.1) -/

/-- The records of a list stand in the map in the list's order, from address lo to address hi. -/
structure Laid (lo hi : Nat) (rs : List MirrorRec) : Prop where
  ordered : rs.Pairwise (fun r x => r.addr + r.size ≤ x.addr)
  within : ∀ r ∈ rs, lo ≤ r.addr ∧ r.addr + r.size ≤ hi

/-- One record. -/
theorem Laid.single (r : MirrorRec) : Laid r.addr (r.addr + r.size) [r] :=
  ⟨List.pairwise_singleton _ r, by simp⟩

/-- One range after the other. -/
theorem Laid.append {lo mid up hi : Nat} {rs xs : List MirrorRec} (h : Laid lo mid rs) (g : Laid up hi xs)
    (hle : mid ≤ up := by decide) (hlo : lo ≤ mid := by decide) (hhi : up ≤ hi := by decide) :
    Laid lo hi (rs ++ xs) := by
  refine ⟨List.pairwise_append.mpr ⟨h.ordered, g.ordered, fun r hr x hx => ?_⟩, fun r hr => ?_⟩
  · have hr := (h.within r hr).2
    have hx := (g.within x hx).1
    omega
  · rcases List.mem_append.mp hr with hr | hr
    · have := h.within r hr
      omega
    · have := g.within r hr
      omega

/-- The records of one table, one after the other. -/
theorem Laid.table (f : Nat → MirrorRec) (base width count : Nat)
    (hf : ∀ k, (f k).addr = base + width * k ∧ (f k).size = width) :
    Laid base (base + width * count) ((List.range count).map f) := by
  refine ⟨?_, fun r hr => ?_⟩
  · rw [List.pairwise_map]
    refine List.pairwise_lt_range.imp fun {j k} h => ?_
    have hle := Nat.mul_le_mul_left width (Nat.succ_le_of_lt h)
    rw [Nat.mul_succ] at hle
    rw [(hf j).1, (hf j).2, (hf k).1]
    omega
  · obtain ⟨k, hk, rfl⟩ := List.mem_map.mp hr
    have hle := Nat.mul_le_mul_left width (Nat.succ_le_of_lt (List.mem_range.mp hk))
    rw [Nat.mul_succ] at hle
    rw [(hf k).1, (hf k).2]
    omega

/-- Every record but the identity block, in the order of the map. -/
def recordsAbove : List MirrorRec :=
  [.summary] ++ ((List.range 240).map .sec ++ ((List.range 96).map .point ++ ((List.range 128).map .signal ++
    ((List.range 48).map .slot ++ ((List.range 16).map .waiting ++ ((List.range 48).map .unit ++
    ((List.range 4).map .link ++ ((List.range 16).map .line ++ ((List.range 16).map .area ++
    ((List.range 4).map .arm ++ (List.range 64).map .alarm))))))))))

theorem mem_allRecords {r : MirrorRec} (h : r ∈ allRecords) : r ∈ [.identity] ++ recordsAbove := by
  simp only [allRecords, numberedRecords, recordsAbove, List.mem_append, List.mem_cons, List.not_mem_nil] at h ⊢
  tauto

theorem recordsAbove_laid : Laid 0x104 0x5C00 recordsAbove := by
  have alarms := Laid.table .alarm 0x5400 32 64 fun _ => ⟨rfl, rfl⟩
  have arms := (Laid.table .arm 0x5380 16 4 fun _ => ⟨rfl, rfl⟩).append alarms
  have areas := (Laid.table .area 0x5280 16 16 fun _ => ⟨rfl, rfl⟩).append arms
  have lines := (Laid.table .line 0x4F80 48 16 fun _ => ⟨rfl, rfl⟩).append areas
  have links := (Laid.table .link 0x4F00 32 4 fun _ => ⟨rfl, rfl⟩).append lines
  have units := (Laid.table .unit 0x4C00 16 48 fun _ => ⟨rfl, rfl⟩).append links
  have waits := (Laid.table .waiting 0x4A00 32 16 fun _ => ⟨rfl, rfl⟩).append units
  have slots := (Laid.table .slot 0x3E00 64 48 fun _ => ⟨rfl, rfl⟩).append waits
  have signals := (Laid.table .signal 0x3600 16 128 fun _ => ⟨rfl, rfl⟩).append slots
  have points := (Laid.table .point 0x3000 16 96 fun _ => ⟨rfl, rfl⟩).append signals
  have secs := (Laid.table .sec 0x1200 32 240 fun _ => ⟨rfl, rfl⟩).append points
  exact (Laid.single MirrorRec.summary).append secs

theorem allRecords_laid : Laid 0 0x5C00 ([.identity] ++ recordsAbove) :=
  (Laid.single MirrorRec.identity).append recordsAbove_laid

/-- Two records that share no byte. -/
def MirrorRec.Apart (r x : MirrorRec) : Prop := r.addr + r.size ≤ x.addr ∨ x.addr + x.size ≤ r.addr

theorem MirrorRec.Apart.symm {r x : MirrorRec} (h : r.Apart x) : x.Apart r := Or.symm h

/-- No two records of the map share a byte. -/
theorem MirrorRec.apart {r x : MirrorRec} (hr : r ∈ allRecords) (hx : x ∈ allRecords) (hne : r ≠ x) : r.Apart x := by
  have hsymm : Std.Symm MirrorRec.Apart := ⟨fun _ _ => MirrorRec.Apart.symm⟩
  have hall : ([MirrorRec.identity] ++ recordsAbove).Pairwise MirrorRec.Apart := allRecords_laid.ordered.imp Or.inl
  exact hall.forall (mem_allRecords hr) (mem_allRecords hx) hne

/-- No record shares a byte with the generation counter. -/
theorem MirrorRec.apart_counter {r : MirrorRec} (hr : r ∈ allRecords) : r.addr + r.size ≤ 0x100 ∨ 0x104 ≤ r.addr := by
  rcases List.mem_append.mp (mem_allRecords hr) with h | h
  · rw [List.mem_singleton] at h
    subst h
    exact .inl (by decide)
  · exact .inr (recordsAbove_laid.within r h).1

theorem MirrorRec.eight_le_size (r : MirrorRec) : 8 ≤ r.size := by
  cases r <;> exact Nat.le_of_ble_eq_true rfl

/-! ### One record as it stands in memory -/

section

variable (size g : Nat) (body : List Byte)

/-- The opening stamp. -/
theorem take_stampedRecord : (stampedRecord size g body).take 4 = bytesLE 4 g := by
  unfold stampedRecord
  rw [List.append_assoc]
  exact List.take_left' (length_bytesLE 4 g)

theorem length_stampedBody : ((body ++ zeros size).take (size - 8)).length = size - 8 := by
  simp [zeros]
  omega

variable {size}

theorem length_stampedRecord (h : 8 ≤ size) : (stampedRecord size g body).length = size := by
  unfold stampedRecord
  rw [List.length_append, List.length_append, length_bytesLE, length_stampedBody]
  omega

/-- The closing stamp. -/
theorem drop_stampedRecord (h : 8 ≤ size) : (stampedRecord size g body).drop (size - 4) = bytesLE 4 g := by
  unfold stampedRecord
  refine List.drop_left' ?_
  rw [List.length_append, length_bytesLE, length_stampedBody]
  omega

/-- The body and its zero tail, between the stamps. -/
theorem getD_stampedRecord {k : Nat} (h4 : 4 ≤ k) (hk : k < size - 4) :
    (stampedRecord size g body).getD k 0 = body.getD (k - 4) 0 := by
  have hbody : k - 4 < size - 8 := by omega
  unfold stampedRecord
  rw [List.append_assoc, List.getD_append_right _ _ _ _ (by rwa [length_bytesLE]), length_bytesLE,
    List.getD_append _ _ _ _ (by rwa [length_stampedBody])]
  simp only [List.getD_eq_getElem?_getD, List.getElem?_take, if_pos hbody, zeros]
  rcases Nat.lt_or_ge (k - 4) body.length with hlt | hge
  · rw [List.getElem?_append_left hlt]
  · rw [List.getElem?_append_right hge, List.getElem?_eq_none hge, List.getElem?_replicate]
    split <;> rfl

end

/-! ### The writes of an event -/

/-- Every byte after one record is written: the counter, the record, and every other byte as before. -/
theorem Memory.read_writeMirror (m : Memory) (r : MirrorRec) (g : Nat) (body : List Byte) (a : Nat) :
    (m.writeMirror r g body).read a =
      if 0x100 ≤ a ∧ a < 0x104 then (bytesLE 4 g).getD (a - 0x100) 0
      else if r.addr ≤ a ∧ a < r.addr + r.size then (stampedRecord r.size g body).getD (a - r.addr) 0
      else m.read a := by
  unfold Memory.writeMirror
  rw [Memory.read_write, Memory.read_write, length_bytesLE, length_stampedRecord _ _ r.eight_le_size]

section

variable (body : MirrorRec → List Byte)

/-- A byte of no record written and not of the counter is as it was. -/
theorem Memory.read_writeMirrors_off {a : Nat} (hc : a < 0x100 ∨ 0x104 ≤ a) (rs : List MirrorRec) :
    ∀ (m : Memory) (g : Nat), (∀ r ∈ rs, a < r.addr ∨ r.addr + r.size ≤ a) →
      (Memory.writeMirrors body m g rs).read a = m.read a := by
  induction rs with
  | nil => intro m g _; rfl
  | cons r rs ih =>
    intro m g h
    have hr := h r List.mem_cons_self
    unfold Memory.writeMirrors
    rw [ih _ _ fun x hx => h x (List.mem_cons_of_mem r hx), Memory.read_writeMirror, if_neg (by omega),
      if_neg (by omega)]

/-- Each record written holds its body, stamped with its own generation. -/
theorem Memory.read_writeMirrors_at {j : Nat} {r : MirrorRec} (hj : j < r.size) (rs : List MirrorRec) :
    ∀ (m : Memory) (g k : Nat), rs.Nodup → (∀ x ∈ rs, x ∈ allRecords) → rs[k]? = some r →
      (Memory.writeMirrors body m g rs).read (r.addr + j) =
        (stampedRecord r.size (generationAfter g (k + 1)) (body r)).getD j 0 := by
  induction rs with
  | nil => intro m g k _ _ hk; simp at hk
  | cons x rs ih =>
    intro m g k hnodup hall hk
    obtain ⟨hx, hrest⟩ := List.nodup_cons.mp hnodup
    unfold Memory.writeMirrors
    cases k with
    | zero =>
      obtain rfl := Option.some.inj hk
      have hcounter := MirrorRec.apart_counter (hall x List.mem_cons_self)
      rw [Memory.read_writeMirrors_off body (by omega) rs, Memory.read_writeMirror, if_neg (by omega),
        if_pos (by omega), Nat.add_sub_cancel_left]
      · rfl
      · intro y hy
        have hapart := MirrorRec.apart (hall x List.mem_cons_self) (hall y (List.mem_cons_of_mem x hy))
          (by rintro rfl; exact hx hy)
        unfold MirrorRec.Apart at hapart
        omega
    | succ k => exact ih _ _ k hrest (fun y hy => hall y (List.mem_cons_of_mem x hy)) hk

/-- The counter holds the generation of the last record written. -/
theorem Memory.read_writeMirrors_counter {j : Nat} (hj : j < 4) (rs : List MirrorRec) : ∀ (m : Memory) (g : Nat),
    (∀ x ∈ rs, x ∈ allRecords) → rs ≠ [] → (Memory.writeMirrors body m g rs).read (0x100 + j) =
      (bytesLE 4 (generationAfter g rs.length)).getD j 0 := by
  induction rs with
  | nil => intro m g _ h; exact absurd rfl h
  | cons x rs ih =>
    intro m g hall _
    unfold Memory.writeMirrors
    cases rs with
    | nil =>
      show (m.writeMirror x (nextGeneration g) (body x)).read (0x100 + j) = _
      rw [Memory.read_writeMirror, if_pos (by omega), Nat.add_sub_cancel_left]
      rfl
    | cons y rs => exact ih _ _ (fun z hz => hall z (List.mem_cons_of_mem x hz)) (List.cons_ne_nil y rs)

end

/-! ### The order of the writes -/

theorem insertRecord_perm (priority : MirrorRec → Nat) (r : MirrorRec) (rs : List MirrorRec) :
    (insertRecord priority r rs).Perm (r :: rs) := by
  induction rs with
  | nil => exact List.Perm.refl _
  | cons x xs ih =>
    unfold insertRecord
    split
    · exact List.Perm.refl _
    · exact (ih.cons x).trans (List.Perm.swap r x xs)

/-- R192: the port's order is an order of the records handed over. -/
theorem portOrder_perm (draw : Nat) (rs : List MirrorRec) : (portOrder draw rs).Perm rs := by
  unfold portOrder
  induction rs with
  | nil => exact List.Perm.refl _
  | cons r rs ih => exact (insertRecord_perm _ r _).trans (ih.cons r)

/-! ### The port's part -/

section

variable (p : Port) (b : Blocks) (rs : List MirrorRec)

theorem Port.writeMirrors_mirrorMem : (p.writeMirrors b rs).mirrorMem =
    Memory.writeMirrors (b.mirrorBody p.stray) p.mirrorMem p.generation (portOrder b.freeIndex rs) := by
  unfold Port.writeMirrors
  cases rs with
  | nil => rfl
  | cons r rs => rfl

theorem Port.writeMirrors_generation :
    (p.writeMirrors b rs).generation = generationAfter p.generation rs.length := by
  unfold Port.writeMirrors
  cases rs with
  | nil => rfl
  | cons r rs => rfl

theorem Port.writeMirrors_hostMem : (p.writeMirrors b rs).hostMem = p.hostMem := by
  unfold Port.writeMirrors
  split <;> rfl

/-- R192: the notice MIRROR is latched. -/
theorem Port.writeMirrors_notice (h : rs ≠ []) : (p.writeMirrors b rs).notice.getLsbD 1 = true := by
  unfold Port.writeMirrors
  rw [if_neg (by simpa using h)]
  simp [Notice.mirror]

end

/-! ### Which records an event changes -/

/-- A list without its repetitions has none. -/
theorem nodup_eraseDups {α : Type} [DecidableEq α] (l : List α) : l.eraseDups.Nodup := by
  match l with
  | [] => exact List.nodup_nil
  | x :: xs =>
    rw [List.eraseDups_cons, List.nodup_cons, List.mem_eraseDups]
    exact ⟨by simp, nodup_eraseDups _⟩
termination_by l.length
decreasing_by exact Nat.lt_succ_of_le (List.length_filter_le _ _)

theorem mem_changedPlaces {α : Type} [DecidableEq α] (old new : List α) (k : Nat) :
    k ∈ changedPlaces old new ↔ old[k]? ≠ new[k]? := by
  unfold changedPlaces
  rw [List.mem_filter, List.mem_range, decide_eq_true_iff]
  refine ⟨And.right, fun h => ⟨?_, h⟩⟩
  by_contra hge
  rw [Nat.not_lt, max_le_iff] at hge
  exact h (by rw [List.getElem?_eq_none hge.1, List.getElem?_eq_none hge.2])

/-- R193: the records handed over, the places of the three lists that differ, and the summary block if it differs. -/
theorem mem_changedRecords (p q : Port) (b c : Blocks) (r : MirrorRec) : r ∈ changedRecords p q b c ↔
    r ∈ c.work.dirty ∨ (∃ k, r = .waiting k ∧ b.waiting[k]? ≠ c.waiting[k]?) ∨
      (∃ k, r = .arm k ∧ b.arms[k]? ≠ c.arms[k]?) ∨ (∃ k, r = .alarm k ∧ b.alarms[k]? ≠ c.alarms[k]?) ∨
      (r = .summary ∧ summaryBody b p.stray ≠ summaryBody c q.stray) := by
  have hsummary : r ∈ (if summaryBody b p.stray = summaryBody c q.stray then [] else [MirrorRec.summary]) ↔
      r = .summary ∧ summaryBody b p.stray ≠ summaryBody c q.stray := by
    split
    · next h => simp [h]
    · next h => simp [h]
  have hplace : ∀ {α : Type} [DecidableEq α] (f : Nat → MirrorRec) (old new : List α),
      r ∈ (changedPlaces old new).map f ↔ ∃ k, r = f k ∧ old[k]? ≠ new[k]? := fun f old new => by
    simp only [List.mem_map, mem_changedPlaces, and_comm, eq_comm]
  unfold changedRecords
  dsimp only
  rw [List.mem_eraseDups]
  simp only [List.mem_append, hplace, hsummary, or_assoc]

/-! ### The end of an event -/

theorem Port.closeEvent_mirrorMem (p q : Port) (old new : Blocks) :
    (p.closeEvent q old new).mirrorMem = (p.writeMirrors new (changedRecords q p old new)).mirrorMem := by
  unfold Port.closeEvent
  simp

theorem Port.halt_mirrorMem (p : Port) (old new : Blocks) : (p.halt old new).mirrorMem = p.mirrorMem := by
  unfold Port.halt
  split <;> rfl

/-- R192: the end of an event writes the records the event changed. -/
theorem State.finish_mirrorMem (s : State) (p : Port) (b : Blocks) {c : Blocks}
    (hc : c = (b.closeChecks (Port.writeAnswers b.clock p b.work.answers).2).enterAlarms) :
    (s.finish p b).port.mirrorMem = ((Port.writeAnswers b.clock p b.work.answers).1.writeMirrors c
      (changedRecords s.port (Port.writeAnswers b.clock p b.work.answers).1 s.blocks c)).mirrorMem := by
  subst hc
  unfold State.finish
  dsimp only
  rw [Port.halt_mirrorMem, Port.closeEvent_mirrorMem]

/-- R192: what the writes of one event make of the exchange memory. -/
theorem Port.writeMirrors_written (p : Port) (b : Blocks) (rs : List MirrorRec) (hnodup : rs.Nodup)
    (hall : ∀ r ∈ rs, r ∈ allRecords) : ∃ os : List MirrorRec, os.Perm rs ∧
      (∀ k r, os[k]? = some r → ∀ j, j < r.size → (p.writeMirrors b rs).mirrorMem.read (r.addr + j) =
        (stampedRecord r.size (generationAfter p.generation (k + 1)) (b.mirrorBody p.stray r)).getD j 0) ∧
      (∀ a, (∀ r ∈ rs, a < r.addr ∨ r.addr + r.size ≤ a) → (a < 0x100 ∨ 0x104 ≤ a) →
        (p.writeMirrors b rs).mirrorMem.read a = p.mirrorMem.read a) ∧
      (rs ≠ [] →
        (p.writeMirrors b rs).mirrorMem.readBytes 0x100 4 = bytesLE 4 (generationAfter p.generation rs.length)) := by
  have hperm := portOrder_perm b.freeIndex rs
  have hmem : ∀ r ∈ portOrder b.freeIndex rs, r ∈ rs := fun r hr => hperm.mem_iff.mp hr
  rw [p.writeMirrors_mirrorMem b rs]
  refine ⟨portOrder b.freeIndex rs, hperm, fun k r hk j hj => ?_, fun a ha hc => ?_, fun hne => ?_⟩
  · exact Memory.read_writeMirrors_at _ hj _ _ _ k (hperm.nodup_iff.mpr hnodup) (fun r hr => hall r (hmem r hr)) hk
  · exact Memory.read_writeMirrors_off _ hc _ _ _ fun r hr => ha r (hmem r hr)
  · have hread : ∀ j, j < 4 → _ := fun j hj => Memory.read_writeMirrors_counter (b.mirrorBody p.stray) hj
      (portOrder b.freeIndex rs) p.mirrorMem p.generation (fun r hr => hall r (hmem r hr))
      (fun h => hne (List.perm_nil.mp (h ▸ hperm).symm))
    rw [hperm.length_eq] at hread
    refine List.ext_getElem (by simp [Memory.readBytes]) fun j _ hl => ?_
    have hj : j < 4 := by rwa [length_bytesLE] at hl
    simp [Memory.readBytes, hread j hj, List.getElem?_eq_getElem hl]

end Sys2Proof.Machine
end

section

namespace Sys2Proof.Machine

/-! PROOF. The bytes of a mirror record's body (12.4): bits of a byte, numbers in bytes, packed codes and slices. -/

/-! ### Bits of a byte -/

theorem flag_eq (v : Bool) (k : Nat) : flag v k = 2 ^ k * v.toNat := by
  cases v <;> simp [flag]

theorem toNat_byte (n : Nat) : (byte n).toNat = n % 256 := BitVec.toNat_ofNat n 8

theorem getLsbD_byte {n k : Nat} {v : Bool} (hk : k < 8) (h : n / 2 ^ k % 2 = v.toNat) : (byte n).getLsbD k = v := by
  unfold byte
  rw [BitVec.getLsbD_ofNat, decide_eq_true hk, Bool.true_and, Nat.testBit_eq_decide_div_mod_eq, h]
  cases v <;> rfl

/-- A byte of up to seven bits shows each of them. -/
theorem getLsbD_flags : ∀ a b c d e f g : Bool, ∀ k : Fin 7,
    (byte (flag a 0 + flag b 1 + flag c 2 + flag d 3 + flag e 4 + flag f 5 + flag g 6)).getLsbD k =
      [a, b, c, d, e, f, g][k] := by decide

/-- Four bits above a number below 16. -/
theorem getLsbD_highFlags {n : Nat} (hn : n < 16) (a b c d : Bool) : ∀ m,
    m = n + flag a 4 + flag b 5 + flag c 6 + flag d 7 → m % 16 = n ∧ m < 256 ∧ (byte m).getLsbD 4 = a ∧
      (byte m).getLsbD 5 = b ∧ (byte m).getLsbD 6 = c ∧ (byte m).getLsbD 7 = d := by
  rintro m rfl
  simp only [flag_eq]
  have ha := Bool.toNat_le a
  have hb := Bool.toNat_le b
  have hc := Bool.toNat_le c
  have hd := Bool.toNat_le d
  refine ⟨by omega, by omega, getLsbD_byte (by decide) (by omega), getLsbD_byte (by decide) (by omega),
    getLsbD_byte (by decide) (by omega), getLsbD_byte (by decide) (by omega)⟩

/-- Bits set by a property of the places below a bound. -/
theorem sum_flags_lt (q : Nat → Bool) (n : Nat) : ((List.range n).map (fun k => flag (q k) k)).sum < 2 ^ n := by
  induction n with
  | zero => exact Nat.one_pos
  | succ n ih =>
    have hq := Nat.mul_le_mul_left (2 ^ n) (Bool.toNat_le (q n))
    rw [List.range_succ, List.map_append, List.sum_append, List.map_singleton, List.sum_singleton, flag_eq]
    rw [Nat.pow_succ]
    omega

theorem testBit_sum_flags (q : Nat → Bool) {n k : Nat} (hk : k < n) :
    (((List.range n).map (fun k => flag (q k) k)).sum).testBit k = q k := by
  induction n with
  | zero => exact absurd hk (Nat.not_lt_zero k)
  | succ n ih =>
    have hlt := sum_flags_lt q n
    rw [List.range_succ, List.map_append, List.sum_append, List.map_singleton, List.sum_singleton, flag_eq,
      Nat.add_comm]
    rcases Nat.lt_succ_iff_lt_or_eq.mp hk with hk | rfl
    · rw [Nat.testBit_two_pow_mul_add _ hlt, if_pos hk, ih hk]
    · rw [Nat.testBit_two_pow_mul_add _ hlt, if_neg (Nat.lt_irrefl k), Nat.sub_self]
      cases q k <;> rfl

/-- Each of the first eight parts of a flank list has a bit of its own. -/
theorem getLsbD_flankBits (q : FlankPart → Bool) {fs : List FlankPart} {k : Nat} {f : FlankPart}
    (hlen : fs.length ≤ 8) (hf : fs[k]? = some f) : (byte (flankBits q fs)).getLsbD k = q f := by
  obtain ⟨hk, -⟩ := List.getElem?_eq_some_iff.mp hf
  unfold byte flankBits
  rw [BitVec.getLsbD_ofNat, decide_eq_true (Nat.lt_of_lt_of_le hk hlen), Bool.true_and,
    testBit_sum_flags (fun k => (fs[k]?).any q) hk, hf]
  rfl

/-! ### Numbers in bytes -/

theorem ofBytesLE_bytesLE (k : Nat) : ∀ n, ofBytesLE (bytesLE k n) = n % 256 ^ k := by
  induction k with
  | zero => intro n; simp [bytesLE, ofBytesLE, Nat.mod_one]
  | succ k ih =>
    intro n
    unfold bytesLE ofBytesLE
    have hsplit : n % 256 ^ (k + 1) = n % 256 + 256 * (n / 256 % 256 ^ k) := by rw [Nat.pow_succ', Nat.mod_mul]
    rw [ih, hsplit]
    rfl

theorem optClockBytes_eq (t : Option Clock) : optClockBytes t = clockBytes (t.getD 0) := by
  cases t <;> rfl

/-- The nine bytes of an identity, one by one. -/
theorem identityBytes_eq (i : Option Identity) : ∃ n a b c d e f g h, identityBytes i = [n, a, b, c, d, e, f, g, h] := by
  have hlen : (identityBytes i).length = 9 := by
    cases i <;> simp [identityBytes, zeros]
  match hi : identityBytes i, hlen with
  | [n, a, b, c, d, e, f, g, h], _ => exact ⟨n, a, b, c, d, e, f, g, h, rfl⟩

/-! ### Codes of two bits -/

theorem packed_lt (vs : List Nat) (h : ∀ v ∈ vs, v < 4) : packed vs < 4 ^ vs.length := by
  induction vs with
  | nil => decide
  | cons v vs ih =>
    have hv := h v List.mem_cons_self
    have hvs := ih fun w hw => h w (List.mem_cons_of_mem v hw)
    unfold packed
    rw [List.length_cons, Nat.pow_succ]
    omega

theorem packed_div (vs : List Nat) (h : ∀ v ∈ vs, v < 4) : ∀ k v, vs[k]? = some v → packed vs / 4 ^ k % 4 = v := by
  induction vs with
  | nil => intro k v hv; simp at hv
  | cons w vs ih =>
    intro k v hv
    have hw := h w List.mem_cons_self
    unfold packed
    cases k with
    | zero =>
      obtain rfl := Option.some.inj hv
      omega
    | succ k =>
      have hdiv : (w + 4 * packed vs) / 4 = packed vs := by omega
      rw [Nat.pow_succ', ← Nat.div_div_eq_div_mul, hdiv]
      exact ih (fun x hx => h x (List.mem_cons_of_mem w hx)) k v hv

/-- Up to eight codes of two bits in two bytes. -/
theorem packed_bytes {α : Type} (code : α → Nat) (hcode : ∀ x, code x < 4) {vs : List α} (hlen : vs.length ≤ 8)
    {k : Nat} {v : α} (hv : vs[k]? = some v) :
    ofBytesLE (bytesLE 2 (packed (vs.map code))) / 4 ^ k % 4 = code v := by
  have hall : ∀ c ∈ vs.map code, c < 4 := fun c hc => by
    obtain ⟨x, -, rfl⟩ := List.mem_map.mp hc
    exact hcode x
  have hlt := packed_lt _ hall
  rw [List.length_map] at hlt
  have hle : 4 ^ vs.length ≤ 4 ^ 8 := Nat.pow_le_pow_right (by decide) hlen
  have hsmall : packed (vs.map code) < 256 ^ 2 := Nat.lt_of_lt_of_le hlt hle
  rw [ofBytesLE_bytesLE, Nat.mod_eq_of_lt hsmall]
  exact packed_div _ hall k _ (by rw [List.getElem?_map, hv]; rfl)

theorem SlotValue.code_lt (v : SlotValue) : v.code < 4 := by
  unfold SlotValue.code
  split <;> decide

theorem SlotStatus.code_lt (v : SlotStatus) : v.code < 4 := by
  unfold SlotStatus.code
  split <;> decide

theorem positionCode_lt (p : Option Position) : positionCode p < 4 := by
  cases p with
  | none => decide
  | some p => cases p <;> decide

/-! ### Codes by their place in 12.4 -/

theorem RouteState.code_eq (s : RouteState) :
    ([.setting, .stalled, .locked, .cleared, .held, .passing, .cancelling, .emergency] : List RouteState).idxOf s + 1 =
      s.code := by
  cases s <;> rfl

theorem OverlapState.code_eq (s : OverlapState) :
    ([.claimed, .locked, .timing, .expired] : List OverlapState).idxOf s + 1 = s.code := by
  cases s <;> rfl

theorem Grant.code_eq (g : Grant) : ([.none, .asked, .granted, .lost] : List Grant).idxOf g = g.code := by
  cases g <;> rfl

theorem UnitState.code_eq (s : UnitState) :
    ([.unknown, .syncing, .active, .suspect, .lost, .fault] : List UnitState).idxOf s + 1 = s.code := by
  cases s <;> rfl

theorem UnitState.code_lt (s : UnitState) : s.code < 8 := by
  cases s <;> decide

theorem LinkState.code_eq (s : LinkState) : ([.down, .starting, .up] : List LinkState).idxOf s + 1 = s.code := by
  cases s <;> rfl

theorem Direction.code_eq (d : Direction) :
    ([.unfitted, .outbound, .inbound, .bidirectional] : List Direction).idxOf d = d.code := by
  cases d <;> rfl

theorem Token.code_view_eq (t : Option Token) :
    ([none, some .held, some .notHeld, some .blocked] : List (Option Token)).idxOf t =
      TokenView.code (Token.view t) := by
  cases t with
  | none => rfl
  | some t => cases t <;> rfl

end Sys2Proof.Machine
end

section

namespace Sys2Proof.Machine

/-! PROOF. The bodies of the element table's records (12.4), field by field. -/

/-! ### Sections, points and signals -/

theorem SectionRec.mirror_bits (r : SectionRec) :
    (r.mirror.getD 3 0).getLsbD 0 = r.reminder ∧ (r.mirror.getD 3 0).getLsbD 1 = r.standing ∧
      (r.mirror.getD 3 0).getLsbD 2 = r.passage ∧ (r.mirror.getD 3 0).getLsbD 3 = r.confirm.isSome :=
  have hbits := getLsbD_flags r.reminder r.standing r.passage r.confirm.isSome false false false
  ⟨hbits 0, hbits 1, hbits 2, hbits 3⟩

theorem SectionRec.mirror_fields (r : SectionRec) :
    slice r.mirror 4 9 = identityBytes r.identity ∧ slice r.mirror 16 4 = clockBytes r.changedAt ∧
      slice r.mirror 20 4 = clockBytes (r.confirm.getD 0) := by
  obtain ⟨_, _, _, _, _, _, _, _, _, hi⟩ := identityBytes_eq r.identity
  unfold SectionRec.mirror
  rw [hi, optClockBytes_eq]
  exact ⟨rfl, rfl, rfl⟩

theorem PointRec.mirror_positions (r : PointRec) :
    byteAt r.mirror 1 % 4 = positionCode r.ref ∧ byteAt r.mirror 1 / 4 % 4 = positionCode r.claimed ∧
      byteAt r.mirror 1 / 16 % 4 = positionCode (r.detection[0]?).join ∧
      byteAt r.mirror 1 / 64 = positionCode (r.detection[1]?).join := by
  have hbyte : byteAt r.mirror 1 = (positionCode r.ref + 4 * positionCode r.claimed +
      16 * positionCode (r.detection[0]?).join + 64 * positionCode (r.detection[1]?).join) % 256 := toNat_byte _
  have href := positionCode_lt r.ref
  have hclaimed := positionCode_lt r.claimed
  have hfirst := positionCode_lt (r.detection[0]?).join
  have hsecond := positionCode_lt (r.detection[1]?).join
  rw [hbyte]
  refine ⟨by omega, by omega, by omega, by omega⟩

theorem PointRec.mirror_counts (r : PointRec) :
    byteAt r.mirror 2 % 4 = r.pathCount % 4 ∧ byteAt r.mirror 2 / 4 % 4 = r.overlapCount % 4 ∧
      (r.mirror.getD 2 0).getLsbD 4 = r.reminder ∧ (r.mirror.getD 2 0).getLsbD 5 = r.standing ∧
      (r.mirror.getD 2 0).getLsbD 6 = r.possessed ∧ (r.mirror.getD 2 0).getLsbD 7 = r.moveTimer.isSome := by
  obtain ⟨hlow, hlt, hbits⟩ := getLsbD_highFlags (n := r.pathCount % 4 + 4 * (r.overlapCount % 4)) (by omega)
    r.reminder r.standing r.possessed r.moveTimer.isSome _ rfl
  have hbyte : byteAt r.mirror 2 = _ := (toNat_byte _).trans (Nat.mod_eq_of_lt hlt)
  rw [hbyte]
  refine ⟨by omega, by omega, hbits⟩

theorem PointRec.mirror_timer (r : PointRec) : slice r.mirror 5 3 = (clockBytes (r.moveTimer.getD 0)).take 3 := by
  simp [slice, PointRec.mirror, optClockBytes_eq]

theorem SignalRec.mirror_bits (r : SignalRec) :
    (r.mirror.getD 2 0).getLsbD 0 = r.proved ∧ (r.mirror.getD 2 0).getLsbD 1 = r.lampFault ∧
      (r.mirror.getD 2 0).getLsbD 2 = r.reminder ∧ (r.mirror.getD 2 0).getLsbD 3 = r.standing ∧
      (r.mirror.getD 2 0).getLsbD 4 = r.owningSlot.isSome :=
  have hbits := getLsbD_flags r.proved r.lampFault r.reminder r.standing r.owningSlot.isSome false false
  ⟨hbits 0, hbits 1, hbits 2, hbits 3, hbits 4⟩

theorem SignalRec.mirror_counts (r : SignalRec) (hmatch : r.matchCount < 4) (hmis : r.mismatchCount < 4) :
    byteAt r.mirror 3 % 4 = r.matchCount ∧ byteAt r.mirror 3 / 4 % 4 = r.mismatchCount ∧
      byteAt r.mirror 3 / 16 = r.possessionCount % 4 := by
  have hbyte : byteAt r.mirror 3 = (r.matchCount + 4 * r.mismatchCount + 16 * (r.possessionCount % 4)) % 256 :=
    toNat_byte _
  rw [hbyte]
  refine ⟨by omega, by omega, by omega⟩

/-! ### Route Set slots -/

theorem RouteRec.mirror_head (r : RouteRec) :
    r.mirror[0]? = some (byte (([.setting, .stalled, .locked, .cleared, .held, .passing, .cancelling, .emergency] :
      List RouteState).idxOf r.state + 1)) ∧
      (r.mirror.getD 1 0).getLsbD 0 = r.sweep ∧ slice r.mirror 2 2 = bytesLE 2 r.route ∧
      (r.cell = none → byteAt r.mirror 4 = 0) ∧
      (∀ c, r.cell = some c → r.mirror[4]? = some (byte (128 + c))) ∧ r.mirror[5]? = some (byte r.released) ∧
      r.mirror[6]? = some (byte (r.reason.elim 0 (fun f => f.reason.code))) ∧
      slice r.mirror 8 2 = bytesLE 2 (r.reason.elim 0 (fun f => f.element.number)) := by
  have hsweep : r.mirror.getD 1 0 = byte (flag r.sweep 0) := by simp [RouteRec.mirror]
  rw [hsweep]
  unfold RouteRec.mirror
  refine ⟨by simp [RouteState.code_eq], getLsbD_flags r.sweep false false false false false false 0,
    by simp [slice, bytesLE], fun hc => ?_, fun c hc => ?_, by simp [bytesLE], ?_, ?_⟩
  · simp [hc, bytesLE, byteAt, byte]
  · simp [hc, bytesLE]
  · cases r.reason <;> simp [bytesLE]
  · cases r.reason <;> simp [slice, bytesLE]

theorem RouteRec.mirror_timer (r : RouteRec) :
    slice r.mirror 10 9 = identityBytes r.identity ∧ (r.timer = none → slice r.mirror 19 5 = [0, 0, 0, 0, 0]) ∧
      ∀ v, r.timer = some v →
        slice r.mirror 19 5 = byte (if v.kind = .approach then 1 else 2) :: clockBytes v.expiry := by
  obtain ⟨_, _, _, _, _, _, _, _, _, hi⟩ := identityBytes_eq r.identity
  unfold RouteRec.mirror
  rw [hi]
  refine ⟨by simp [slice, bytesLE], fun hnone => ?_, fun v hv => ?_⟩
  · rw [hnone]
    simp [slice, bytesLE, optClockBytes, byte]
  · have hkind : (if v.kind = .approach then 1 else 2) = v.kind.code := by cases v.kind <;> rfl
    rw [hv, hkind]
    simp [slice, bytesLE, optClockBytes, clockBytes]

theorem RouteRec.mirror_overlap (r : RouteRec) :
    (r.overlap = none → slice r.mirror 24 2 = [0, 0] ∧ slice r.mirror 28 4 = [0, 0, 0, 0]) ∧
      ∀ o, r.overlap = some o → slice r.mirror 24 2 =
          [byte (([.claimed, .locked, .timing, .expired] : List OverlapState).idxOf o.state + 1), byte o.number] ∧
        slice r.mirror 28 4 = clockBytes (o.expiry.getD 0) := by
  obtain ⟨_, _, _, _, _, _, _, _, _, hi⟩ := identityBytes_eq r.identity
  unfold RouteRec.mirror
  rw [hi]
  refine ⟨fun hnone => ?_, fun o ho => ?_⟩
  · rw [hnone]
    simp [slice, optClockBytes_eq, clockBytes, bytesLE, zeros]
  · rw [ho, OverlapState.code_eq]
    simp [slice, optClockBytes_eq, clockBytes, bytesLE, zeros]

theorem RouteRec.mirror_flank (r : RouteRec) :
    r.mirror[32]? = some (byte r.flank.length) ∧
      (r.flank.length ≤ 8 → ∀ k f, r.flank[k]? = some f →
        (r.mirror.getD 33 0).getLsbD k = f.substitute ∧ (r.mirror.getD 34 0).getLsbD k = f.released) := by
  obtain ⟨_, _, _, _, _, _, _, _, _, hi⟩ := identityBytes_eq r.identity
  have hbytes : r.mirror[32]? = some (byte r.flank.length) ∧
      r.mirror.getD 33 0 = byte (flankBits (·.substitute) r.flank) ∧
      r.mirror.getD 34 0 = byte (flankBits (·.released) r.flank) := by
    unfold RouteRec.mirror
    rw [hi]
    cases r.overlap <;> simp [optClockBytes_eq, clockBytes, bytesLE, zeros]
  obtain ⟨hlength, hsubstitute, hreleased⟩ := hbytes
  rw [hsubstitute, hreleased]
  exact ⟨hlength, fun hlen k f hf => ⟨getLsbD_flankBits _ hlen hf, getLsbD_flankBits _ hlen hf⟩⟩

theorem RouteRec.mirror_border (r : RouteRec) :
    (r.border = none → slice r.mirror 35 2 = [0xFF, 0] ∧ slice r.mirror 40 4 = [0, 0, 0, 0]) ∧
      ∀ p, r.border = some p → slice r.mirror 35 2 =
          [byte p.line, byte (([.none, .asked, .granted, .lost] : List Grant).idxOf p.grant)] ∧
        slice r.mirror 40 4 = clockBytes (p.expiry.getD 0) := by
  obtain ⟨_, _, _, _, _, _, _, _, _, hi⟩ := identityBytes_eq r.identity
  unfold RouteRec.mirror
  rw [hi]
  refine ⟨fun hnone => ?_, fun p hp => ?_⟩
  · rw [hnone]
    cases r.overlap <;> simp [slice, optClockBytes_eq, clockBytes, bytesLE, zeros]
  · rw [hp, Grant.code_eq]
    cases r.overlap <;> simp [slice, optClockBytes_eq, clockBytes, bytesLE, zeros]

/-! ### The waiting list, the units and the links -/

theorem WaitingRec.mirror_fields (w : WaitingRec) :
    w.mirror[0]? = some (if w.deferred then 2 else 1) ∧ (w.mirror.getD 1 0).getLsbD 0 = w.sweep ∧
      slice w.mirror 2 2 = bytesLE 2 w.route ∧ w.mirror[4]? = some (byte w.cell) ∧
      slice w.mirror 6 2 = bytesLE 2 w.storeTime ∧ slice w.mirror 8 4 = clockBytes (w.expiry.getD 0) ∧
      slice w.mirror 12 9 = identityBytes w.identity := by
  obtain ⟨_, _, _, _, _, _, _, _, _, hi⟩ := identityBytes_eq w.identity
  unfold WaitingRec.mirror
  rw [hi, optClockBytes_eq]
  refine ⟨?_, getLsbD_flags w.sweep false false false false false false 0, rfl, rfl, rfl, rfl, rfl⟩
  cases w.deferred <;> rfl

theorem UnitRec.mirror_state (u : UnitRec) (urgent : Bool) (hseq : u.nextSeq < 16) :
    byteAt (u.mirror urgent) 0 % 8 =
        ([.unknown, .syncing, .active, .suspect, .lost, .fault] : List UnitState).idxOf u.state + 1 ∧
      byteAt (u.mirror urgent) 0 / 8 % 16 = u.nextSeq ∧ ((u.mirror urgent).getD 0 0).getLsbD 7 = urgent := by
  have hstate := u.state.code_lt
  have hurgent := Bool.toNat_le urgent
  have hbyte : byteAt (u.mirror urgent) 0 = (u.state.code + 8 * u.nextSeq + flag urgent 7) % 256 := toNat_byte _
  rw [hbyte, UnitState.code_eq, flag_eq]
  refine ⟨by omega, by omega, getLsbD_byte (n := u.state.code + 8 * u.nextSeq + flag urgent 7) (by decide) ?_⟩
  rw [flag_eq]
  omega

theorem UnitRec.mirror_counts (u : UnitRec) (urgent : Bool) (hmiss : u.miss < 4) (hgood : u.good < 4) :
    byteAt (u.mirror urgent) 1 % 4 = u.miss ∧ byteAt (u.mirror urgent) 1 / 4 % 4 = u.good ∧
      ((u.mirror urgent).getD 1 0).getLsbD 4 = u.lastStatus.isSome := by
  have hstatus := Bool.toNat_le u.lastStatus.isSome
  have hbyte : byteAt (u.mirror urgent) 1 = (u.miss + 4 * u.good + flag u.lastStatus.isSome 4) % 256 := toNat_byte _
  rw [hbyte, flag_eq]
  refine ⟨by omega, by omega, getLsbD_byte (n := u.miss + 4 * u.good + flag u.lastStatus.isSome 4) (by decide) ?_⟩
  rw [flag_eq]
  omega

theorem UnitRec.mirror_slots (u : UnitRec) (urgent : Bool) :
    (u.image.length ≤ 8 → ∀ (k : Nat) v, u.image[k]? = some v → fieldAt (u.mirror urgent) 2 2 / 4 ^ k % 4 = v.code) ∧
      (u.lastStatus = none → slice (u.mirror urgent) 4 2 = [0, 0]) ∧
      (∀ l, u.lastStatus = some l → l.length ≤ 8 → ∀ (k : Nat) v, l[k]? = some v →
        fieldAt (u.mirror urgent) 4 2 / 4 ^ k % 4 = v.code) ∧
      slice (u.mirror urgent) 6 2 = (clockBytes (u.lastReply.getD 0)).take 2 := by
  have himage : slice (u.mirror urgent) 2 2 = bytesLE 2 (packed (u.image.map SlotValue.code)) := by
    simp [slice, UnitRec.mirror, bytesLE]
  have hstatus : slice (u.mirror urgent) 4 2 =
      bytesLE 2 (packed ((u.lastStatus.getD []).map SlotStatus.code)) := by
    simp [slice, UnitRec.mirror, bytesLE]
  have hreply : slice (u.mirror urgent) 6 2 = (clockBytes (u.lastReply.getD 0)).take 2 := by
    simp [slice, UnitRec.mirror, bytesLE, optClockBytes_eq]
  unfold fieldAt
  rw [himage, hstatus]
  refine ⟨fun hlen k v hv => packed_bytes SlotValue.code SlotValue.code_lt hlen hv, fun hnone => ?_,
    fun l hl hlen k v hv => ?_, hreply⟩
  · rw [hnone]
    rfl
  · rw [hl]
    exact packed_bytes SlotStatus.code SlotStatus.code_lt hlen hv

theorem LinkRec.mirror_fields (l : LinkRec) :
    l.mirror.take 3 =
        [byte (([.down, .starting, .up] : List LinkState).idxOf l.state + 1), byte l.valid, byte l.gap] ∧
      (l.mirror.getD 3 0).getLsbD 0 = l.errorReported ∧ (l.mirror.getD 3 0).getLsbD 1 = l.expected.isSome ∧
      slice l.mirror 4 2 = [l.transmit, l.expected.getD 0] ∧ slice l.mirror 6 2 = bytesLE 2 l.neighbour ∧
      slice l.mirror 8 4 = clockBytes (l.lastValid.getD 0) := by
  have hbits := getLsbD_flags l.errorReported l.expected.isSome false false false false false
  unfold LinkRec.mirror
  rw [LinkState.code_eq, optClockBytes_eq]
  exact ⟨rfl, hbits 0, hbits 1, rfl, rfl, rfl⟩

/-! ### Border lines -/

theorem LineRec.mirror_head (l : LineRec) (d : Direction) :
    (l.mirror d)[0]? = some (byte (([.unfitted, .outbound, .inbound, .bidirectional] : List Direction).idxOf d)) ∧
      (l.mirror d)[1]? =
        some (byte (([none, some .held, some .notHeld, some .blocked] : List (Option Token)).idxOf l.token)) ∧
      slice (l.mirror d) 6 2 = bytesLE 2 (l.entryAsk.getD 0).toNat := by
  rw [Direction.code_eq, Token.code_view_eq]
  exact ⟨rfl, rfl, rfl⟩

theorem LineRec.mirror_bits (l : LineRec) (d : Direction) :
    ((l.mirror d).getD 2 0).getLsbD 0 = l.disagreement ∧ ((l.mirror d).getD 2 0).getLsbD 1 = l.givePending ∧
      ((l.mirror d).getD 2 0).getLsbD 2 = l.tokenAsk.isSome ∧ ((l.mirror d).getD 2 0).getLsbD 3 = l.entryAsk.isSome ∧
      ((l.mirror d).getD 2 0).getLsbD 4 = l.reception.isSome ∧
      ((l.mirror d).getD 2 0).getLsbD 5 = l.reception.any (·.grantSent) ∧
      ((l.mirror d).getD 2 0).getLsbD 6 = l.view.isSome := by
  have hbyte : (l.mirror d).getD 2 0 = byte (flag l.disagreement 0 + flag l.givePending 1 + flag l.tokenAsk.isSome 2 +
      flag l.entryAsk.isSome 3 + flag l.reception.isSome 4 + flag (l.reception.any (·.grantSent)) 5 +
      flag l.view.isSome 6) := rfl
  have hbits := getLsbD_flags l.disagreement l.givePending l.tokenAsk.isSome l.entryAsk.isSome l.reception.isSome
    (l.reception.any (·.grantSent)) l.view.isSome
  rw [hbyte]
  exact ⟨hbits 0, hbits 1, hbits 2, hbits 3, hbits 4, hbits 5, hbits 6⟩

theorem LineRec.mirror_handover (l : LineRec) (d : Direction) :
    (l.handover = none → byteAt (l.mirror d) 3 = 0 ∧ slice (l.mirror d) 19 9 = identityBytes none ∧
        slice (l.mirror d) 32 4 = [0, 0, 0, 0]) ∧
      (∀ v, l.handover = some v → (l.mirror d)[3]? = some (byte (1 + 2 * v.sends)) ∧
        slice (l.mirror d) 19 9 = identityBytes v.identity ∧ slice (l.mirror d) 32 4 = clockBytes v.next) ∧
      (l.mirror d)[4]? = some (byte (l.handedSlot.elim 0 (fun k => 128 + k))) := by
  obtain ⟨_, _, _, _, _, _, _, _, _, hr⟩ := identityBytes_eq (l.reception.bind (·.identity))
  unfold LineRec.mirror
  simp only [hr, optClockBytes_eq]
  refine ⟨fun hnone => ?_, fun v hv => ?_, by cases l.handedSlot <;> rfl⟩
  · rw [hnone]
    exact ⟨rfl, rfl, rfl⟩
  · obtain ⟨_, _, _, _, _, _, _, _, _, hi⟩ := identityBytes_eq v.identity
    rw [hv, Option.bind_some, hi]
    exact ⟨rfl, rfl, rfl⟩

theorem LineRec.mirror_reception (l : LineRec) (d : Direction) :
    (l.reception = none → byteAt (l.mirror d) 5 = 0 ∧ slice (l.mirror d) 8 2 = [0, 0] ∧
        slice (l.mirror d) 10 9 = identityBytes none) ∧
      ∀ r, l.reception = some r → (l.mirror d)[5]? = some (byte r.released) ∧
        slice (l.mirror d) 8 2 = bytesLE 2 r.reference.toNat ∧
        slice (l.mirror d) 10 9 = identityBytes r.identity := by
  unfold LineRec.mirror
  refine ⟨fun hnone => ?_, fun r hr => ?_⟩
  · rw [hnone]
    exact ⟨rfl, rfl, rfl⟩
  · obtain ⟨_, _, _, _, _, _, _, _, _, hi⟩ := identityBytes_eq r.identity
    rw [hr, Option.bind_some, hi]
    exact ⟨rfl, rfl, rfl⟩

/-- The bytes of the neighbour's view, behind both identities. -/
theorem LineRec.mirror_view (l : LineRec) (d : Direction) :
    slice (l.mirror d) 28 4 = clockBytes (l.tokenAsk.getD 0) ∧
      (l.view = none → slice (l.mirror d) 36 4 = [0, 0, 0, 0]) ∧
      ∀ v, l.view = some v → (l.mirror d)[36]? = some (byte (TokenView.code v.token)) ∧
        ((l.mirror d).getD 37 0).getLsbD 0 = v.borderClear ∧ ((l.mirror d).getD 37 0).getLsbD 1 = v.reception.isSome ∧
        ((l.mirror d).getD 37 0).getLsbD 2 = v.outgoing ∧
        slice (l.mirror d) 38 2 = bytesLE 2 (v.reception.getD 0).toNat := by
  obtain ⟨_, _, _, _, _, _, _, _, _, hr⟩ := identityBytes_eq (l.reception.bind (·.identity))
  obtain ⟨_, _, _, _, _, _, _, _, _, hh⟩ := identityBytes_eq (l.handover.bind (·.identity))
  unfold LineRec.mirror
  simp only [hr, hh, optClockBytes_eq]
  refine ⟨rfl, fun hnone => ?_, fun v hv => ?_⟩
  · rw [hnone]
    rfl
  · have hbits := getLsbD_flags v.borderClear v.reception.isSome v.outgoing false false false false
    rw [hv]
    simp only [clockBytes, bytesLE, List.cons_append, List.nil_append]
    exact ⟨rfl, hbits 0, hbits 1, hbits 2, rfl⟩

/-! ### Possessions, the summary and the identity block -/

theorem PossessionRec.mirror_fields (r : PossessionRec) :
    (r.mirror.getD 1 0).getLsbD 0 = r.reference.isSome ∧ (r.mirror.getD 1 0).getLsbD 1 = r.grantedAt.isSome ∧
      slice r.mirror 4 4 = clockBytes (r.grantedAt.getD 0) := by
  have hbits := getLsbD_flags r.reference.isSome r.grantedAt.isSome false false false false false
  unfold PossessionRec.mirror
  rw [optClockBytes_eq]
  exact ⟨hbits 0, hbits 1, rfl⟩

theorem summaryBody_fields (b : Blocks) (x : Option Stray) :
    (summaryBody b x).take 3 =
        [byte b.mode.code, byte b.sweep.stage.code, byte (b.sweep.seen.countP (fun v => v))] ∧
      slice (summaryBody b x) 4 4 = clockBytes (b.sweep.lockExpiry.getD 0) ∧
      slice (summaryBody b x) 8 4 = [byte (b.routes.countP (fun r => r.isSome)), byte b.waiting.length,
        byte b.alarms.length, byte b.arms.length] ∧
      slice (summaryBody b x) 12 3 = [byte (if b.overflow then 1 else 0), byte ((x.map (fun v => v.cause.code)).getD 0),
        byte ((x.map (fun v => v.cell)).getD 0)] := by
  unfold summaryBody
  rw [optClockBytes_eq, List.countP_eq_length_filter, List.countP_eq_length_filter]
  refine ⟨rfl, rfl, rfl, ?_⟩
  cases x <;> rfl

theorem identityBody_fields (valid : Bool) (length area format crc : Nat) :
    fieldAt (identityBody valid length area format crc) 0 2 = 0x4844 ∧
      fieldAt (identityBody valid length area format crc) 2 2 = 0x0416 ∧
      byteAt (identityBody valid length area format crc) 4 = 1 ∧
      ((identityBody valid length area format crc).getD 5 0).getLsbD 0 = valid ∧
      byteAt (identityBody valid length area format crc) 14 = format % 256 := by
  have hmagic : slice (identityBody valid length area format crc) 0 2 = bytesLE 2 0x4844 := rfl
  have hnumber : slice (identityBody valid length area format crc) 2 2 = bytesLE 2 0x0416 := rfl
  unfold fieldAt
  rw [hmagic, hnumber, ofBytesLE_bytesLE, ofBytesLE_bytesLE]
  exact ⟨by decide, by decide, rfl, getLsbD_flags valid false false false false false false 0, toNat_byte format⟩

theorem identityBody_capacities (valid : Bool) (length area format crc : Nat) {k : Nat} (hk : k < 23) :
    fieldAt (identityBody valid length area format crc) (20 + 4 * k) 4 = capacities.getD k 0 := by
  have hbehind : slice (identityBody valid length area format crc) (20 + 4 * k) 4 =
      slice (capacities.flatMap (bytesLE 4) ++ zeros 136) (4 * k) 4 := by
    unfold slice
    rw [← List.drop_drop]
    rfl
  have hfixed : ∀ j : Fin 23, ofBytesLE (slice (capacities.flatMap (bytesLE 4) ++ zeros 136) (4 * j) 4) =
      capacities.getD j 0 := by decide
  unfold fieldAt
  rw [hbehind]
  exact hfixed ⟨k, hk⟩

end Sys2Proof.Machine
end

section

namespace Sys2Proof.Machine

/-! PROOF. O60: the writes of the mirrors, the records an event changes, and what each record shows. -/

/-! ### What a record that is present shows -/

section

variable {b : Blocks} (x : Option Stray) {n : Nat}

theorem Blocks.mirrorBody_sec {r : SectionRec} (h : b.sectionRec n = some r) : b.mirrorBody x (.sec n) = r.mirror := by
  simp [Blocks.mirrorBody, h]

theorem Blocks.mirrorBody_point {r : PointRec} (h : b.pointRec n = some r) : b.mirrorBody x (.point n) = r.mirror := by
  simp [Blocks.mirrorBody, h]

theorem Blocks.mirrorBody_signal {r : SignalRec} (h : b.signalRec n = some r) :
    b.mirrorBody x (.signal n) = r.mirror := by
  simp [Blocks.mirrorBody, h]

theorem Blocks.mirrorBody_slot {r : RouteRec} (h : b.routeRec n = some r) : b.mirrorBody x (.slot n) = r.mirror := by
  simp [Blocks.mirrorBody, h]

theorem Blocks.mirrorBody_waiting {w : WaitingRec} (h : b.waiting[n]? = some w) :
    b.mirrorBody x (.waiting n) = w.mirror := by
  simp [Blocks.mirrorBody, h]

theorem Blocks.mirrorBody_unit {u : UnitRec} (h : b.unitRec n = some u) : b.mirrorBody x (.unit n) =
    u.mirror (b.busA.urgent.contains n || b.busB.urgent.contains n) := by
  simp [Blocks.mirrorBody, h]

theorem Blocks.mirrorBody_link {l : LinkRec} (h : b.linkRec n = some l) : b.mirrorBody x (.link n) = l.mirror := by
  simp [Blocks.mirrorBody, h]

theorem Blocks.mirrorBody_line {e : LineEntry} {l : LineRec} (he : b.lineEntry n = some e)
    (hl : b.lineRec n = some l) : b.mirrorBody x (.line n) = l.mirror e.mode := by
  simp [Blocks.mirrorBody, he, hl]

theorem Blocks.mirrorBody_line_absent (h : b.lineEntry n = none ∨ b.lineRec n = none) :
    b.mirrorBody x (.line n) = [] := by
  unfold Blocks.mirrorBody
  rcases h with h | h
  · simp [h]
  · cases b.lineEntry n <;> simp [h]

theorem Blocks.mirrorBody_area {r : PossessionRec} (h : b.areas[n]? = some r) : b.mirrorBody x (.area n) = r.mirror := by
  simp [Blocks.mirrorBody, h]

theorem Blocks.mirrorBody_arm {a : ArmRec} (h : b.arms[n]? = some a) : b.mirrorBody x (.arm n) = a.mirror := by
  simp [Blocks.mirrorBody, h]

theorem Blocks.mirrorBody_alarm {a : AlarmRec} (h : b.alarms[n]? = some a) : b.mirrorBody x (.alarm n) = a.mirror := by
  simp [Blocks.mirrorBody, h]

end

/-! ### The identity block -/

/-- The identity block shows the store's state and the head of the tables in force, or zeros. -/
theorem Blocks.identityBlock_eq (b : Blocks) : ∃ length area format crc,
    b.identityBlock = identityBody b.stored.valid length area format crc ∧
      (b.inForce = none → length = 0 ∧ area = 0 ∧ format = 0 ∧ crc = 0) ∧
      ∀ w, b.inForce = some w → length = w.image.head.length ∧ area = w.image.head.area ∧
        format = w.image.head.format ∧ crc = w.image.head.crc := by
  unfold Blocks.identityBlock Blocks.image?
  cases b.inForce with
  | none => exact ⟨_, _, _, _, rfl, fun _ => ⟨rfl, rfl, rfl, rfl⟩, (fun w h => nomatch h)⟩
  | some w =>
    refine ⟨_, _, _, _, rfl, (fun h => nomatch h), fun v h => ?_⟩
    obtain rfl := Option.some.inj h
    exact ⟨rfl, rfl, rfl, rfl⟩

theorem identityBody_head (valid : Bool) (length area format crc : Nat) :
    slice (identityBody valid length area format crc) 8 4 = bytesLE 4 length ∧
      slice (identityBody valid length area format crc) 12 2 = bytesLE 2 area ∧
      slice (identityBody valid length area format crc) 16 4 = bytesLE 4 crc := by
  refine ⟨?_, ?_, ?_⟩ <;> simp [slice, identityBody, bytesLE]

theorem identityBody_blank (valid : Bool) :
    slice (identityBody valid 0 0 0 0) 8 12 = List.replicate 12 0 := by
  simp [slice, identityBody, bytesLE, byte, List.replicate]

/-- The identity block, field by field. -/
theorem Blocks.identityBlock_fields (b : Blocks) : ∀ m, m = b.identityBlock →
    fieldAt m 0 2 = 0x4844 ∧ fieldAt m 2 2 = 0x0416 ∧ byteAt m 4 = 1 ∧ (m.getD 5 0).getLsbD 0 = b.stored.valid ∧
      (∀ k, k < 23 → fieldAt m (20 + 4 * k) 4 = capacities.getD k 0) ∧
      (b.inForce = none → slice m 8 12 = List.replicate 12 0) ∧
      ∀ w, b.inForce = some w → slice m 8 4 = bytesLE 4 w.image.head.length ∧
        slice m 12 2 = bytesLE 2 w.image.head.area ∧ byteAt m 14 = w.image.head.format % 256 ∧
        slice m 16 4 = bytesLE 4 w.image.head.crc := by
  rintro m rfl
  obtain ⟨length, area, format, crc, hblock, hnone, hsome⟩ := b.identityBlock_eq
  obtain ⟨hmagic, hnumber, hone, hvalid, hformat⟩ := identityBody_fields b.stored.valid length area format crc
  obtain ⟨hlength, harea, hcrc⟩ := identityBody_head b.stored.valid length area format crc
  rw [hblock]
  refine ⟨hmagic, hnumber, hone, hvalid, fun k hk => identityBody_capacities _ _ _ _ _ hk, fun h => ?_, fun w h => ?_⟩
  · obtain ⟨rfl, rfl, rfl, rfl⟩ := hnone h
    exact identityBody_blank _
  · obtain ⟨rfl, rfl, rfl, rfl⟩ := hsome w h
    exact ⟨hlength, harea, hformat, hcrc⟩

/-! ### The statement -/

/-- Settles O60: the memory after the writes record by record, the changed records by membership, and each body by its
fields. -/
theorem mirrorsShowTheRecords : Obligations.MirrorsShowTheRecords := by
  unfold Obligations.MirrorsShowTheRecords
  refine ⟨?writes, ?stamps, ?generation, rfl, ?close, ?changed, fun b x n => ⟨?sec0, ?point0, ?signal0, ?slot0, ?unit0,
    ?link0, Blocks.mirrorBody_line_absent x, ?area0, ?waiting0, ?arm0, ?alarm0, ?sec, ?point, ?signal, ?slot, ?waiting,
    ?unit, ?link, ?line, ?area, ?arm, ?alarm, ?summary, b.identityBlock_fields⟩⟩
  case writes =>
    intro p b rs hnodup hall
    obtain ⟨os, hperm, hat, hoff, hcounter⟩ := p.writeMirrors_written b rs hnodup hall
    exact ⟨os, hperm, hat, hoff, p.writeMirrors_generation b rs,
      fun hne => ⟨hcounter hne, p.writeMirrors_notice b rs hne⟩, p.writeMirrors_hostMem b rs⟩
  case stamps =>
    intro r g body hsize
    exact ⟨take_stampedRecord r.size g body, drop_stampedRecord g body hsize,
      fun k h4 hk => getD_stampedRecord g body h4 hk⟩
  case generation =>
    intro g hg
    exact if_neg (Nat.ne_of_lt hg)
  case close => exact fun s p b c hc => s.finish_mirrorMem p b hc
  case changed => exact fun p q b c => ⟨nodup_eraseDups _, mem_changedRecords p q b c⟩
  case sec0 | point0 | signal0 | slot0 | unit0 | link0 =>
    intro h
    simp [Blocks.mirrorBody, h]
  case area0 | waiting0 | arm0 | alarm0 =>
    intro h
    simp [Blocks.mirrorBody, List.getElem?_eq_none h]
  case sec =>
    rintro r hr m rfl
    rw [Blocks.mirrorBody_sec x hr]
    obtain ⟨h0, h1, h2, h3⟩ := r.mirror_bits
    exact ⟨rfl, h0, h1, h2, h3, r.mirror_fields⟩
  case point =>
    rintro r hr m rfl
    rw [Blocks.mirrorBody_point x hr]
    obtain ⟨href, hclaimed, hfirst, hsecond⟩ := r.mirror_positions
    obtain ⟨hpath, hoverlap, hreminder, hstanding, hpossessed, htimer⟩ := r.mirror_counts
    exact ⟨rfl, href, hclaimed, hfirst, hsecond, hpath, hoverlap, hreminder, hstanding, hpossessed, htimer, rfl, rfl,
      r.mirror_timer⟩
  case signal =>
    rintro r hr m rfl
    rw [Blocks.mirrorBody_signal x hr]
    obtain ⟨h0, h1, h2, h3, h4⟩ := r.mirror_bits
    exact ⟨rfl, h0, h1, h2, h3, h4, r.mirror_counts, rfl⟩
  case slot =>
    rintro r hr m rfl
    rw [Blocks.mirrorBody_slot x hr]
    obtain ⟨hstate, hsweep, hroute, hnone, hcell, hreleased, hreason, helement⟩ := r.mirror_head
    obtain ⟨hidentity, htimer0, htimer⟩ := r.mirror_timer
    obtain ⟨hoverlap0, hoverlap⟩ := r.mirror_overlap
    obtain ⟨hflank, hparts⟩ := r.mirror_flank
    obtain ⟨hborder0, hborder⟩ := r.mirror_border
    exact ⟨hstate, hsweep, hroute, hnone, hcell, hreleased, hreason, helement, hidentity, htimer0, htimer, hoverlap0,
      hoverlap, hflank, hparts, hborder0, hborder⟩
  case waiting =>
    rintro w hw m rfl
    rw [Blocks.mirrorBody_waiting x hw]
    exact w.mirror_fields
  case unit =>
    rintro u hu m rfl hseq hmiss hgood
    rw [Blocks.mirrorBody_unit x hu]
    obtain ⟨hstate, hnext, hurgent⟩ := u.mirror_state (b.busA.urgent.contains n || b.busB.urgent.contains n) hseq
    obtain ⟨hm, hg, hs⟩ := u.mirror_counts (b.busA.urgent.contains n || b.busB.urgent.contains n) hmiss hgood
    refine ⟨hstate, hnext, ?_, hm, hg, hs, u.mirror_slots _⟩
    rw [hurgent, Bool.or_eq_true, List.contains_iff_mem, List.contains_iff_mem]
  case link =>
    rintro l hl m rfl
    rw [Blocks.mirrorBody_link x hl]
    exact l.mirror_fields
  case line =>
    rintro e l he hl m rfl
    rw [Blocks.mirrorBody_line x he hl]
    obtain ⟨h0, h1, h2, h3, h4, h5, h6⟩ := l.mirror_bits e.mode
    obtain ⟨hmode, htoken, hentry⟩ := l.mirror_head e.mode
    obtain ⟨hhandover0, hhandover, hslot⟩ := l.mirror_handover e.mode
    obtain ⟨hreception0, hreception⟩ := l.mirror_reception e.mode
    obtain ⟨hask, hview0, hview⟩ := l.mirror_view e.mode
    refine ⟨hmode, htoken, h0, h1, h2, h3, h4, h5, h6, hhandover0, hhandover, hslot, hentry, hreception0, hreception,
      hask, hview0, fun v hv => ?_⟩
    obtain ⟨hcode, hrest⟩ := hview v hv
    refine ⟨hcode.trans (congrArg some ?_), hrest⟩
    cases v.token with
    | other c => exact BitVec.ofNat_toNat 8 c
    | none | held | notHeld | blocked => rfl
  case area =>
    rintro r hr m rfl
    rw [Blocks.mirrorBody_area x hr]
    obtain ⟨hreference, hgranted, htime⟩ := r.mirror_fields
    exact ⟨rfl, hreference, hgranted, rfl, htime⟩
  case arm => exact fun a ha => Blocks.mirrorBody_arm x ha
  case alarm => exact fun a ha => Blocks.mirrorBody_alarm x ha
  case summary =>
    rintro m rfl
    exact summaryBody_fields b x

end Sys2Proof.Machine
end

section

namespace Sys2Proof.Machine

/-! PROOF. Every step keeps the lists of the blocks in their bounds (R45, R46, R49, R153, R161, R162, R174). First: the
alarm list and its counter. -/

/-! ### The sequence counter (R162) -/

theorem seqAfter_le {v : Nat} (h : v ≤ 4294967295) : seqAfter v ≤ 4294967295 := by unfold seqAfter; split_ifs <;> omega

theorem advanceSeq_range (xs : List AlarmRec) (fuel : Nat) : ∀ v, 1 ≤ v → v ≤ 4294967295 →
    1 ≤ advanceSeq fuel xs v ∧ advanceSeq fuel xs v ≤ 4294967295 := by
  induction fuel with
  | zero => exact fun v h1 h2 => ⟨h1, h2⟩
  | succ fuel ih =>
    intro v h1 h2
    unfold advanceSeq
    split
    · exact ih _ (seqAfter_pos v) (seqAfter_le h2)
    · exact ⟨h1, h2⟩

/-! ### The alarm list (R161 to R167) -/

/-- An alarm list and its counter in their bounds, as Blocks.InBounds states them. -/
structure AlarmsInBounds (as : List AlarmRec) (n : Nat) : Prop where
  alarms : as.length ≤ 64
  conditions : (as.map (fun a => (a.kind, a.element))).Nodup
  sequences : (as.map (·.seq)).Nodup
  counter : ∀ a ∈ as, a.seq ≠ n
  range : (∀ a ∈ as, 1 ≤ a.seq ∧ a.seq ≤ 4294967295) ∧ 1 ≤ n ∧ n ≤ 4294967295

namespace AlarmsInBounds

theorem empty : AlarmsInBounds [] 1 := ⟨by simp, by simp, by simp, by simp, by simp⟩

variable {as xs : List AlarmRec} {n : Nat} (h : AlarmsInBounds as n)

include h

theorem sublist (hx : xs.Sublist as) : AlarmsInBounds xs n where
  alarms := hx.length_le.trans h.alarms
  conditions := (hx.map _).nodup h.conditions
  sequences := (hx.map _).nodup h.sequences
  counter a ha := h.counter a (hx.subset ha)
  range := ⟨fun a ha => h.range.1 a (hx.subset ha), h.range.2⟩

/-- Entries changed in their state, their times and their repeats. -/
theorem restate (f : AlarmRec → AlarmRec) (hk : ∀ a, (f a).kind = a.kind) (he : ∀ a, (f a).element = a.element)
    (hs : ∀ a, (f a).seq = a.seq) : AlarmsInBounds (as.map f) n where
  alarms := by rw [List.length_map]; exact h.alarms
  conditions := by rw [List.map_map]; simpa only [Function.comp_def, hk, he] using h.conditions
  sequences := by rw [List.map_map]; simpa only [Function.comp_def, hs] using h.sequences
  counter a ha := by
    obtain ⟨x, hx, rfl⟩ := List.mem_map.mp ha
    rw [hs]
    exact h.counter x hx
  range := ⟨fun a ha => by
    obtain ⟨x, hx, rfl⟩ := List.mem_map.mp ha
    rw [hs]
    exact h.range.1 x hx, h.range.2⟩

/-- R162: an entry about a condition of its own appended, and the counter advanced. -/
theorem append (a : AlarmRec) (hl : as.length < 64) (ha : ∀ x ∈ as, x.about a.kind a.element = false) :
    AlarmsInBounds (as ++ [{ a with seq := n }])
      (advanceSeq 65 (as ++ [{ a with seq := n }]) (seqAfter n)) where
  alarms := by rw [List.length_append, List.length_singleton]; omega
  conditions := by
    rw [List.map_append, List.nodup_append]
    refine ⟨h.conditions, by simp, fun x hx y hy e => ?_⟩
    obtain ⟨z, hz, rfl⟩ := List.mem_map.mp hx
    obtain rfl := List.mem_singleton.mp hy
    obtain ⟨hk, he⟩ := Prod.mk.inj e
    have := ha z hz
    rw [(z.about_iff _ _).mpr ⟨hk, he⟩] at this
    cases this
  sequences := by
    rw [List.map_append, List.nodup_append]
    refine ⟨h.sequences, by simp, fun x hx y hy e => ?_⟩
    obtain ⟨z, hz, rfl⟩ := List.mem_map.mp hx
    obtain rfl := List.mem_singleton.mp hy
    exact h.counter z hz e
  counter := advanceSeq_free (by rw [List.length_append, List.length_singleton]; omega) (seqAfter_pos n)
  range := by
    refine ⟨fun x hx => ?_, advanceSeq_range _ _ _ (seqAfter_pos n) (seqAfter_le h.range.2.2)⟩
    rcases List.mem_append.mp hx with hx | hx
    · exact h.range.1 x hx
    · obtain rfl := List.mem_singleton.mp hx
      exact h.range.2

end AlarmsInBounds

/-- R164: the list without its oldest LAPSED entry is one shorter. -/
theorem withoutOldestLapsed_sublist {as xs : List AlarmRec} (h : withoutOldestLapsed as = some xs) :
    xs.Sublist as ∧ xs.length + 1 = as.length := by
  induction as generalizing xs with
  | nil => cases h
  | cons a as ih =>
    unfold withoutOldestLapsed at h
    split at h
    · cases h
      exact ⟨List.sublist_cons_self a as, rfl⟩
    · obtain ⟨ys, hys, rfl⟩ := Option.map_eq_some_iff.mp h
      obtain ⟨hsub, hlen⟩ := ih hys
      exact ⟨hsub.cons_cons a, congrArg (· + 1) hlen⟩

theorem Blocks.InBounds.alarmsInBounds {b : Blocks} (h : b.InBounds) : AlarmsInBounds b.alarms b.alarmCounter :=
  ⟨h.alarms, h.conditions, h.sequences, h.counter, h.range⟩

namespace Blocks.InBounds

variable {b : Blocks} (h : b.InBounds)

include h

/-- The blocks with another alarm list in its bounds. -/
theorem withAlarms {as : List AlarmRec} {n : Nat} (o : Bool) (ha : AlarmsInBounds as n) :
    ({ b with alarms := as, overflow := o, alarmCounter := n } : Blocks).InBounds :=
  { h with
    alarms := ha.alarms, conditions := ha.conditions, sequences := ha.sequences, counter := ha.counter
    range := ha.range }

theorem appendAlarm {xs : List AlarmRec} (a : AlarmRec) (hx : xs.Sublist b.alarms) (hl : xs.length < 64)
    (ha : ∀ x ∈ xs, x.about a.kind a.element = false) : (b.appendAlarm xs a).InBounds :=
  h.withAlarms b.overflow ((h.alarmsInBounds.sublist hx).append a hl ha)

/-- R163, R164, R166: a raise. -/
theorem enterRaise (k : AlarmKind) (e : Element) (t : Clock) : (b.enterRaise k e t).InBounds := by
  unfold Blocks.enterRaise
  split
  · rename_i hnone
    have hnew : ∀ x ∈ b.alarms, x.about k e = false := fun x hx => by simpa using List.find?_eq_none.mp hnone x hx
    dsimp only
    split
    · rename_i hl
      exact h.appendAlarm _ (List.Sublist.refl _) hl hnew
    · split
      · rename_i xs hxs
        obtain ⟨hsub, hlen⟩ := withoutOldestLapsed_sublist hxs
        have := h.alarms
        exact h.appendAlarm _ hsub (by omega) fun x hx => hnew x (hsub.subset hx)
      · exact h.withAlarms _ h.alarmsInBounds
  · rename_i a ha
    have hmem := List.mem_of_find?_eq_some ha
    have habout := List.find?_some ha
    obtain ⟨hk, he⟩ := (a.about_iff k e).mp habout
    split
    · refine h.appendAlarm _ List.filter_sublist (Nat.lt_of_lt_of_le ?_ h.alarms) fun x hx => ?_
      · exact List.length_filter_lt_length_iff_exists.mpr ⟨a, hmem, by simp [habout]⟩
      · simpa [hk, he] using (List.mem_filter.mp hx).2
    · exact h

/-- R165: the end of a condition. -/
theorem enterEnd (k : AlarmKind) (e : Element) (t : Clock) : (b.enterEnd k e t).InBounds := by
  unfold Blocks.enterEnd
  split
  · exact h
  split
  · refine h.withAlarms _ (h.alarmsInBounds.restate _ ?_ ?_ ?_) <;> exact fun a => by split <;> rfl
  · exact h.withAlarms _ (h.alarmsInBounds.sublist List.filter_sublist)
  · exact h

theorem enterOp (o : AlarmOp) : (b.enterOp o).InBounds := by
  cases o with
  | raised k e t => exact h.enterRaise k e t
  | ended k e t => exact h.enterEnd k e t

omit h in
theorem foldl {α : Type} (g : Blocks → α → Blocks) (hg : ∀ b x, b.InBounds → (g b x).InBounds) (l : List α) :
    ∀ b, b.InBounds → (l.foldl g b).InBounds := by
  induction l with
  | nil => exact fun _ h => h
  | cons x l ih => exact fun _ h => ih _ (hg _ _ h)

theorem enterAlarms : b.enterAlarms.InBounds := foldl _ (fun _ o h => h.enterOp o) _ _ h

/-- R169, R170: every present condition ended. -/
theorem endAllAlarms_inBounds (t : Clock) :
    AlarmsInBounds (b.endAllAlarms t).alarms (b.endAllAlarms t).alarmCounter := by
  refine (h.alarmsInBounds.sublist List.filter_sublist).restate _ ?_ ?_ ?_ <;> exact fun a => by split <;> rfl

theorem endAllAlarms (t : Clock) : (b.endAllAlarms t).InBounds := h.withAlarms _ (h.endAllAlarms_inBounds t)

/-- R167: an acknowledgement. -/
theorem acceptAlarm (a : AlarmRec) (n : Nat) : (b.acceptAlarm a n).InBounds := by
  unfold Blocks.acceptAlarm
  split
  · refine h.withAlarms _ (h.alarmsInBounds.restate _ ?_ ?_ ?_) <;> exact fun a => by split <;> rfl
  · exact h
  · exact h.withAlarms _ (h.alarmsInBounds.sublist List.filter_sublist)

end Blocks.InBounds

end Sys2Proof.Machine
end

section

namespace Sys2Proof.Machine

/-! ### The Route Set as a list of slots (R45) -/

theorem filterMap_set_none_sublist {α β : Type} (f : α → β) (l : List (Option α)) : ∀ n,
    ((l.set n none).filterMap (Option.map f)).Sublist (l.filterMap (Option.map f)) := by
  induction l with
  | nil => exact fun _ => List.Sublist.refl _
  | cons x l ih =>
    intro n
    cases n with
    | zero => cases x with
      | none => exact List.Sublist.refl _
      | some x => exact List.sublist_cons_self _ _
    | succ n => cases x with
      | none => exact ih n
      | some x => exact (ih n).cons_cons _

theorem filterMap_set_some_perm {α β : Type} (f : α → β) (x : α) (l : List (Option α)) : ∀ n, l[n]? = some none →
    ((l.set n (some x)).filterMap (Option.map f)).Perm (f x :: l.filterMap (Option.map f)) := by
  induction l with
  | nil => exact fun _ h => by cases h
  | cons y l ih =>
    intro n hn
    cases n with
    | zero =>
      obtain rfl : y = none := Option.some.inj hn
      exact List.Perm.refl _
    | succ n => cases y with
      | none => exact ih n hn
      | some y => exact ((ih n hn).cons (f y)).trans (List.Perm.swap _ _ _)

/-- The routes held are read from the routes of the slots. -/
theorem Blocks.heldRoutes_congr {b d : Blocks}
    (h : d.routes.map (Option.map (·.route)) = b.routes.map (Option.map (·.route))) : d.heldRoutes = b.heldRoutes := by
  have e : ∀ c : Blocks, c.heldRoutes = (c.routes.map (Option.map (·.route))).filterMap id := fun c => by
    unfold Blocks.heldRoutes
    rw [List.filterMap_map]
    rfl
  rw [e, e, h]

theorem Blocks.mem_heldRoutes {b : Blocks} {n : Nat} :
    n ∈ b.heldRoutes ↔ ∃ slot r, b.routeRec slot = some r ∧ r.route = n := by
  unfold Blocks.heldRoutes Blocks.routeRec
  rw [List.mem_filterMap]
  constructor
  · rintro ⟨x, hx, hn⟩
    obtain ⟨r, rfl, rfl⟩ := Option.map_eq_some_iff.mp hn
    obtain ⟨slot, hs⟩ := List.mem_iff_getElem?.mp hx
    exact ⟨slot, r, by rw [hs]; rfl, rfl⟩
  · rintro ⟨slot, r, hr, rfl⟩
    exact ⟨some r, List.mem_iff_getElem?.mpr ⟨slot, Blocks.Follows.getElem?_of_join hr⟩, rfl⟩

theorem Blocks.heldRoutes_of_empty {b : Blocks} (h : ∀ slot, b.routeRec slot = none) : b.heldRoutes = [] := by
  refine List.eq_nil_iff_forall_not_mem.mpr fun n hn => ?_
  obtain ⟨slot, r, hr, -⟩ := Blocks.mem_heldRoutes.mp hn
  rw [h slot] at hr
  cases hr

namespace Blocks.InBounds

variable {b : Blocks} (h : b.InBounds)

include h

/-! ### What the bounds are read from -/

/-- Blocks that differ in nothing that the bounds are read from. -/
theorem of_eq (d : Blocks) (hd : d = { d with
    arms := b.arms, alarms := b.alarms, alarmCounter := b.alarmCounter, routes := b.routes, waiting := b.waiting
    mode := b.mode, writes := b.writes, collected := b.collected }) : d.InBounds := by
  rw [hd]
  exact { h with }

/-- Entries gone from the Route Set and the waiting list, or changed but for their routes. -/
theorem withRoutes {rs : List (Option RouteRec)} {ws : List WaitingRec} (hl : rs.length = b.routes.length)
    (hr : (rs.filterMap (Option.map (·.route))).Sublist b.heldRoutes)
    (hw : (ws.map (·.route)).Sublist (b.waiting.map (·.route))) :
    ({ b with routes := rs, waiting := ws } : Blocks).InBounds :=
  { h with
    slots := hl.trans h.slots
    waiting := by simpa using hw.length_le.trans (by simpa using h.waiting)
    once := (hr.append hw).nodup h.once
    service := fun hm => List.eq_nil_of_sublist_nil (h.service hm ▸ hr) }

/-! ### Hand-offs -/

theorem mark (r : MirrorRec) : (b.mark r).InBounds := h.of_eq _ rfl

theorem raiseAlarm (k : AlarmKind) (e : Element) (t : Clock) : (b.raiseAlarm k e t).InBounds := h.of_eq _ rfl

theorem endAlarm (k : AlarmKind) (e : Element) (t : Clock) : (b.endAlarm k e t).InBounds := h.of_eq _ rfl

theorem markFreed : b.markFreed.InBounds := h.of_eq _ rfl

theorem failCheck : b.failCheck.InBounds := h.of_eq _ rfl

theorem answer (c : Nat) (o : CellOutcome) (d : Detail) : (b.answer c o d).InBounds := h.of_eq _ rfl

theorem answerOpt (c : Option Nat) (o : CellOutcome) (d : Detail) : (b.answerOpt c o d).InBounds := by
  rw [Blocks.answerOpt_eq]
  exact h.of_eq _ rfl

theorem clearNotices : b.clearNotices.InBounds := h.of_eq _ rfl

theorem clearFreed : b.clearFreed.InBounds := h.of_eq _ rfl

theorem noticeTokenHeld : b.noticeTokenHeld.InBounds := h.of_eq _ rfl

/-! ### Records -/

/-- The element table's operations touch none of the lists. -/
theorem tableOnly {d : Blocks} (hd : Blocks.TableOnly b d) : d.InBounds := by
  obtain ⟨⟨_, _, _, _, _, _, _, rfl⟩, -⟩ := hd
  exact h.of_eq _ rfl

theorem updSection (n : Nat) (f : SectionRec → SectionRec) : (b.updSection n f).InBounds :=
  h.tableOnly (.updSection b n f)

theorem updPoint (n : Nat) (f : PointRec → PointRec) : (b.updPoint n f).InBounds := h.tableOnly (.updPoint b n f)

theorem updSignal (n : Nat) (f : SignalRec → SignalRec) : (b.updSignal n f).InBounds := h.tableOnly (.updSignal b n f)

theorem refreshPoint (n : Nat) : (b.refreshPoint n).InBounds := by
  obtain ⟨_, _, _, _, e⟩ := b.refreshPoint_frame n
  rw [e]
  exact h.of_eq _ rfl

theorem refreshSignal (n : Nat) : (b.refreshSignal n).InBounds := by
  obtain ⟨_, _, _, _, e⟩ := b.refreshSignal_frame n
  rw [e]
  exact h.of_eq _ rfl

theorem setBus (x : Bus) (r : BusRec) : (b.setBus x r).InBounds := by cases x <;> exact h.of_eq _ rfl

theorem updLine (n : Nat) (f : LineRec → LineRec) : (b.updLine n f).InBounds := by
  obtain ⟨_, _, e⟩ := b.updLine_frame n f
  rw [e]
  exact h.of_eq _ rfl

theorem updLink (n : Nat) (f : LinkRec → LinkRec) : (b.updLink n f).InBounds := by
  obtain ⟨_, _, e⟩ := b.updLink_frame n f
  rw [e]
  exact h.of_eq _ rfl

theorem updUnit (n : Nat) (f : UnitRec → UnitRec) : (b.updUnit n f).InBounds := by
  obtain ⟨_, _, e⟩ := b.updUnit_frame n f
  rw [e]
  exact h.of_eq _ rfl

theorem updArea (n : Nat) (f : PossessionRec → PossessionRec) : (b.updArea n f).InBounds := by
  obtain ⟨_, _, e⟩ := b.updArea_frame n f
  rw [e]
  exact h.of_eq _ rfl

theorem updRoute (slot : Nat) (f : RouteRec → RouteRec) (hf : ∀ r, (f r).route = r.route := by exact fun _ => rfl) :
    (b.updRoute slot f).InBounds := by
  unfold Blocks.updRoute Blocks.routeRec
  split
  · exact h
  · rename_i r hr
    split
    · exact h
    · have hheld : ({ b with routes := b.routes.set slot (some (f r)) } : Blocks).heldRoutes = b.heldRoutes :=
        Blocks.heldRoutes_congr (Blocks.Follows.map_set_of_eq (Option.map (·.route)) _ _ _ (some (f r))
          (Blocks.Follows.getElem?_of_join hr) (congrArg some (hf r)))
      exact mark (h.withRoutes (by simp) (by rw [← hheld]; exact List.Sublist.refl _) (List.Sublist.refl _)) _

/-! ### The element table (02) -/

theorem overtakeCall (n : Nat) : (b.overtakeCall n).InBounds := h.tableOnly (.overtakeCall b n)

theorem drive (n : Nat) (pos : Position) : (b.drive n pos).1.InBounds := h.tableOnly (.drive b n pos)

theorem commandSignal (slot n : Nat) (x : Aspect) : (b.commandSignal slot n x).InBounds := by
  unfold Blocks.commandSignal
  split
  · exact h.failCheck
  · split
    · exact h.tableOnly (.setCommanded b n x)
    · exact h.failCheck

theorem release (c : Claimant) (items : List Hold) : (b.release c items).InBounds := by
  obtain ⟨_, _, _, _, _, _, _, _, e⟩ := b.release_frame c items
  rw [e]
  exact h.of_eq _ rfl

theorem claim {d : Blocks} {c : Claimant} {items : List ClaimItem} (hd : b.claim c items = .ok d) : d.InBounds := by
  obtain ⟨-, rfl⟩ := b.claim_applied _ _ _ hd
  obtain ⟨_, _, _, _, _, _, _, _, e⟩ := b.applyClaim_frame c items
  rw [e]
  exact h.of_eq _ rfl

theorem setOccupancy (n : Nat) (o : Occupancy) (t : Clock) (c : Option Clock) : (b.setOccupancy n o t c).InBounds := by
  obtain ⟨_, _, _, _, _, _, e⟩ := b.setOccupancy_frame n o t c
  rw [e]
  exact h.of_eq _ rfl

theorem sectionReport (n : Nat) (st : SectionStatus) (t : Clock) : (b.sectionReport n st t).InBounds := by
  have hset : ∀ o c, (b.setOccupancy n o t c).InBounds := fun o c => h.setOccupancy n o t c
  have hdis : (b.disturbByReport n t).InBounds := (hset _ _).raiseAlarm _ _ _
  have hclear : ∀ d, (b.beginClearing n d t).InBounds := fun d => by
    unfold Blocks.beginClearing
    split <;> exact hset _ _
  unfold Blocks.sectionReport
  (repeat' split) <;> simp only [h, hset, hdis, hclear]

theorem pointAtRest (n : Nat) (p : Position) : (b.pointAtRest n p).InBounds := by
  unfold Blocks.pointAtRest
  split
  · exact h
  · exact ((h.updPoint n _).answerOpt _ _ _).markFreed

theorem applyDetection (n : Nat) (t : Clock) : (b.applyDetection n t).InBounds := by
  have hrest : ∀ d, (b.pointAtRest n d).InBounds := h.pointAtRest n
  have hend : ∀ d k, ((b.pointAtRest n d).endAlarm k (.point n) t).InBounds := fun d k => (hrest d).endAlarm _ _ _
  have hlost : ((b.updPoint n (fun p => { p with state := .lostDetection })).raiseAlarm .pointDetectionLost (.point n)
    t).InBounds := (h.updPoint n _).raiseAlarm _ _ _
  unfold Blocks.applyDetection
  (repeat' split) <;> simp only [h, hrest, hend, hlost]

theorem moveTimeout (n : Nat) (t : Clock) : (b.moveTimeout n t).InBounds := by
  unfold Blocks.moveTimeout
  split
  · exact h
  · exact (((h.updPoint n _).raiseAlarm _ _ _).answerOpt _ _ _).of_eq _ rfl

theorem signalReport (n : Nat) (shown : Shown) (v : Option SlotValue) (t : Clock) :
    (b.signalReport n shown v t).InBounds := by
  have hupd : ∀ f, (b.updSignal n f).InBounds := h.updSignal n
  unfold Blocks.signalReport
  split
  · exact h
  · split
    · dsimp only
      split
      · exact (hupd _).raiseAlarm _ _ _
      · split
        · exact (hupd _).endAlarm _ _ _
        · exact hupd _
    · exact hupd _

theorem loseSection (n : Nat) (t : Clock) : (b.loseSection n t).InBounds := (h.setOccupancy _ _ _ _).updSection _ _

theorem losePoint (n unit : Nat) : (b.losePoint n unit).InBounds := by
  unfold Blocks.losePoint
  split
  · exact h
  · exact h.updPoint n _

theorem loseSignal (n : Nat) (t : Clock) : (b.loseSignal n t).InBounds := by
  unfold Blocks.loseSignal
  split
  · exact h
  · dsimp only
    split
    · exact (h.updSignal n _).endAlarm _ _ _
    · exact h.updSignal n _

theorem refreshUnit (unit : Nat) : (b.refreshUnit unit).InBounds := by
  unfold Blocks.refreshUnit
  split
  · exact h
  · exact foldl _ (fun _ n h => h.refreshPoint n) _ _ (foldl _ (fun _ n h => h.refreshSignal n) _ _ h)

theorem loseUnit (unit : Nat) (t : Clock) : (b.loseUnit unit t).InBounds := by
  unfold Blocks.loseUnit
  split
  · exact h
  · exact foldl _ (fun _ n h => h.refreshPoint n) _ _ (foldl _ (fun _ n h => h.refreshSignal n) _ _
      (foldl _ (fun _ n h => h.loseSignal n t) _ _ (foldl _ (fun _ n h => h.losePoint n unit) _ _
        (foldl _ (fun _ n h => h.loseSection n t) _ _ h))))

theorem confirmationExpiry {d : Blocks} {n : Nat} (hd : b.confirmationExpiry n = some d) : d.InBounds := by
  unfold Blocks.confirmationExpiry at hd
  (repeat' split at hd) <;> cases hd
  exact h.setOccupancy _ _ _ _

theorem moveExpiry {d : Blocks} {n : Nat} (hd : b.moveExpiry n = some d) : d.InBounds := by
  unfold Blocks.moveExpiry at hd
  (repeat' split at hd) <;> cases hd
  exact h.moveTimeout _ _

/-! ### The border unit's sending (07) and the store write list (R174) -/

theorem sendBorder (p : Nat) (t : Telegram) : (b.sendBorder p t).InBounds := by
  obtain ⟨_, _, _, e⟩ := b.sendBorder_frame p t
  rw [e]
  exact h.of_eq _ rfl

theorem sendLine (n : Nat) (t : Telegram) : (b.sendLine n t).InBounds := h.sendBorder _ _

theorem askToken (n : Nat) : (b.askToken n).InBounds := by
  unfold Blocks.askToken
  split
  · exact h
  · split
    · exact h
    · exact (h.sendLine _ _).updLine _ _

theorem freeEntry (n : Nat) (r : Word16) : (b.freeEntry n r).InBounds := (h.sendLine _ _).updLine _ _

theorem borderReleased (p : BorderPart) (r : Word16) : (b.borderReleased p r).InBounds := by
  unfold Blocks.borderReleased
  split
  · exact h.updLine _ _
  · exact h.freeEntry _ _
  · exact h.freeEntry _ _
  · split
    · exact h.freeEntry _ _
    · exact h.updLine _ _

/-- The write list within its 32 writes. -/
theorem withWrites (r : Option Write) {ws : List Write} (hw : ws.length ≤ 32) :
    ({ b with running := r, writes := ws } : Blocks).InBounds := { h with writes := hw }

theorem reportWrite (r : Report) (q : Bool) : (b.reportWrite r q).InBounds := by
  unfold Blocks.reportWrite
  split
  · split <;> exact h.answer _ _ _
  · exact (h.updLine _ _).sendLine _ _
  · exact h

theorem storeFault : b.storeFault.InBounds := h.raiseAlarm _ _ _

theorem queueRecord (v : RecordValue) (r : Report) : (b.queueRecord v r).InBounds := by
  unfold Blocks.queueRecord
  split
  · exact h.storeFault.reportWrite _ _
  · split
    · exact h.withWrites _ h.writes
    · exact h.withWrites b.running (by rw [List.length_append, List.length_singleton]; omega)

/-! ### The bus controllers (06) and the sweep (R181) -/

theorem poll (x : Bus) (n : Nat) : (b.poll x n).InBounds := by
  unfold Blocks.poll
  split
  · exact ((h.setBus x _).updUnit n _).of_eq _ rfl
  · exact h

theorem startPoll (x : Bus) : (b.startPoll x).InBounds := by
  unfold Blocks.startPoll
  dsimp only
  split
  · exact h
  split
  · exact ((h.setBus x _).mark _).poll _ _
  split
  · exact h
  · exact (h.setBus x _).poll _ _

/-- R67, R172: in SERVICE routes may be held. -/
theorem enterService : b.enterService.InBounds := by
  have hw : b.wakeDeferred.waiting.map (·.route) = b.waiting.map (·.route) := by
    show (b.waiting.map _).map _ = _
    rw [List.map_map]
    refine List.map_congr_left fun w _ => ?_
    dsimp only [Function.comp_apply]
    split <;> rfl
  have hwake := h.withRoutes (ws := b.wakeDeferred.waiting) rfl (List.Sublist.refl _) (by rw [hw])
  exact { hwake with service := fun hm => absurd rfl hm }

theorem completeSweep : b.completeSweep.InBounds := by
  unfold Blocks.completeSweep
  split
  · split
    · exact h.enterService
    · exact h.of_eq _ rfl
  · exact h

theorem unitSeen (n : Nat) : (b.unitSeen n).InBounds := by
  unfold Blocks.unitSeen
  split
  · exact completeSweep (h.of_eq _ rfl)
  · exact h

theorem unitAlarms (n : Nat) (s : UnitState) (t : Clock) : (b.unitAlarms n s t).InBounds := by
  unfold Blocks.unitAlarms
  split
  · exact (h.endAlarm _ _ _).endAlarm _ _ _
  · exact (h.endAlarm _ _ _).raiseAlarm _ _ _
  · exact (h.endAlarm _ _ _).raiseAlarm _ _ _
  · exact h

theorem unitChanged (n : Nat) (s : UnitState) (t : Clock) : (b.unitChanged n s t).InBounds := by
  have ha := h.unitAlarms n s t
  unfold Blocks.unitChanged
  dsimp only
  split
  · exact ha.unitSeen n
  · exact ((ha.updUnit n _).loseUnit n t).unitSeen n
  · exact (ha.updUnit n _).loseUnit n t
  · exact ha

theorem checkAspects (unit : Nat) (sent : List SlotValue) (ss : List SlotStatus) (t : Clock) :
    (b.checkAspects unit sent ss t).InBounds := by
  refine foldl _ (fun b x h => ?_) _ _ h
  split
  · exact h
  split
  · exact h.raiseAlarm _ _ _
  split
  · exact h.endAlarm _ _ _
  · exact h

theorem deliverSlot (unit : Nat) (sent : List SlotValue) (q : Bool) (t : Clock) (x : Nat × SlotStatus) :
    (b.deliverSlot unit sent q t x).InBounds := by
  unfold Blocks.deliverSlot
  split
  · split
    · exact h
    · split
      · exact h.sectionReport _ _ _
      · exact h
  · split
    · exact h
    · split
      · exact h.updPoint _ _
      · exact h
  · split
    · exact h
    · exact h.signalReport _ _ _ _

theorem deliver (unit : Nat) (q : Bool) (l : Option (List SlotStatus)) (sent : List SlotValue) (ss : List SlotStatus)
    (t : Clock) : (b.deliver unit q l sent ss t).InBounds :=
  updUnit (foldl _ (fun _ n h => h.applyDetection n t) _ _ (foldl _ (fun _ x h => h.deliverSlot unit sent _ t x) _ _ h))
    _ _

theorem takeReply (x : Bus) (ex : Exchange) (u : UnitRec) (ok : Bool) (ss : List SlotStatus) :
    (b.takeReply x ex u ok ss).InBounds := by
  have h1 := (((h.setBus x { b.busRec x with exchange := none }).updUnit ex.unit
    (fun u => { u with miss := 0, lastReply := some b.clock })).checkAspects ex.unit ex.sent ss b.clock).updUnit ex.unit
    (fun v => { v with
      state := (replyState u.state u.good (ok && !anyWrongAspect ex.sent ss)).1
      good := (replyState u.state u.good (ok && !anyWrongAspect ex.sent ss)).2 })
  have hdeliver : ∀ {d : Blocks}, d.InBounds → ∀ q : Prop, ∀ _ : Decidable q,
      (if q then d.deliver ex.unit (u.state ≠ .active) u.lastStatus ex.sent ss b.clock else d).InBounds := by
    intro d hd q _
    split
    · exact hd.deliver _ _ _ _ _ _
    · exact hd
  unfold Blocks.takeReply
  dsimp only
  split
  · exact hdeliver h1 _ _
  · exact (hdeliver (h1.refreshUnit _) _ _).unitChanged _ _ _

theorem takeMiss (n : Nat) (u : UnitRec) (t : Clock) : (b.takeMiss n u t).InBounds := by
  unfold Blocks.takeMiss
  dsimp only
  split
  · exact h.updUnit _ _
  · exact (h.updUnit _ _).unitChanged _ _ _

theorem telegramEnd {d : Blocks} {x : Bus} (hd : b.telegramEnd x = some d) : d.InBounds := by
  unfold Blocks.telegramEnd at hd
  (repeat' split at hd) <;> cases hd
  exact h.setBus _ _

theorem replyComplete {d : Blocks} {x : Bus} {cs : List LineChar} (hd : b.replyComplete x cs = some d) :
    d.InBounds := by
  unfold Blocks.replyComplete at hd
  (repeat' split at hd) <;> cases hd
  · exact h.setBus _ _
  · exact h.setBus _ _
  · exact h.takeReply _ _ _ _ _

theorem replyTimeout {d : Blocks} {x : Bus} (hd : b.replyTimeout x = some d) : d.InBounds := by
  unfold Blocks.replyTimeout at hd
  dsimp only at hd
  (repeat' split at hd) <;> cases hd
  · exact h.setBus _ _
  · exact h.setBus _ _
  · exact (h.setBus _ _).takeMiss _ _ _

end Blocks.InBounds

end Sys2Proof.Machine
end

section

namespace Sys2Proof.Machine

namespace Blocks.InBounds

variable {b : Blocks} (h : b.InBounds)

include h

/-! ### The protection unit and the route engine (03 to 05) -/

theorem testOverlap (slot : Nat) : (b.testOverlap slot).InBounds := by
  unfold Blocks.testOverlap
  split
  · exact h
  · split
    · exact h.updRoute _ _
    · exact h

theorem releaseOverlap (slot : Nat) : (b.releaseOverlap slot).InBounds := by
  unfold Blocks.releaseOverlap
  split
  · exact h
  · exact (h.release _ _).updRoute _ _

theorem overlapTimeout (slot : Nat) : (b.overlapTimeout slot).InBounds := by
  unfold Blocks.overlapTimeout
  split
  · exact h
  · split
    · exact h.releaseOverlap _
    · exact h.updRoute _ _

theorem testOverlapTiming (slot : Nat) : (b.testOverlapTiming slot).InBounds := by
  unfold Blocks.testOverlapTiming
  split
  · exact h
  split
  · split
    · split
      · exact h
      · dsimp only
        split
        · exact (h.updRoute _ _).overlapTimeout _
        · exact h.updRoute _ _
    · exact h
  · exact h

theorem testOverlapExpired (slot : Nat) : (b.testOverlapExpired slot).InBounds := by
  unfold Blocks.testOverlapExpired
  split
  · exact h
  · split
    · exact h.releaseOverlap _
    · exact h

theorem overlapExpiry {d : Blocks} {slot : Nat} (hd : b.overlapExpiry slot = some d) : d.InBounds := by
  unfold Blocks.overlapExpiry at hd
  (repeat' split at hd) <;> cases hd
  exact h.overlapTimeout _

/-- A slot given free. -/
theorem leave (slot : Nat) : (b.leave slot).InBounds := by
  have hset : ({ b with routes := b.routes.set slot none } : Blocks).InBounds :=
    h.withRoutes (by simp) (filterMap_set_none_sublist _ _ _) (List.Sublist.refl _)
  unfold Blocks.leave
  dsimp only
  split
  · exact hset.mark _
  · exact (hset.mark _).updLine _ _

theorem tearDown (slot : Nat) : (b.tearDown slot).InBounds := by
  unfold Blocks.tearDown
  split
  · exact h
  · exact ((h.release _ _).answerOpt _ _ _).leave _

theorem wholeRelease (slot : Nat) : (b.wholeRelease slot).InBounds := by
  unfold Blocks.wholeRelease
  split
  · exact h
  · have hleft := fun hs c => (((h.release (.slot slot) hs).answerOpt c .withdrawn .none).leave slot)
    dsimp only
    split
    · exact hleft _ _
    · exact (hleft _ _).borderReleased _ _

theorem clearEntry (slot : Nat) (e : RouteEntry) (r : RouteRec) : (b.clearEntry slot e r).InBounds :=
  (h.updRoute _ _).commandSignal _ _ _

theorem actLocked (slot : Nat) (e : RouteEntry) (r : RouteRec) : (b.actLocked slot e r).InBounds := by
  have hask : ∀ line, (b.askEntry slot line r).InBounds := fun line => by
    unfold Blocks.askEntry
    split
    · exact ((h.updRoute _ _).sendLine _ _).updLine _ _
    · exact h.tearDown _
  unfold Blocks.actLocked
  split
  · exact h.clearEntry _ _ _
  split
  · exact h.clearEntry _ _ _
  · exact hask _
  · exact h
  · exact h

theorem stall (slot : Nat) (r : RouteRec) (f : Finding) : (b.stall slot r f).InBounds :=
  (h.updRoute _ _).answerOpt _ _ _

/-- The entry signal commanded STOP, and the entry changed but for its route. -/
theorem stopEntry (slot n : Nat) (f : RouteRec → RouteRec) (hf : ∀ r, (f r).route = r.route := by exact fun _ => rfl) :
    ((b.commandSignal slot n .stop).updRoute slot f).InBounds := (h.commandSignal _ _ _).updRoute _ _ hf

theorem holdEntry (slot : Nat) (e : RouteEntry) (r : RouteRec) (f : Finding) (o : CellOutcome) (d : Detail) :
    (b.holdEntry slot e r f o d).InBounds := (h.stopEntry _ _ _).answerOpt _ _ _

theorem reactProofs (slot : Nat) : (b.reactProofs slot).InBounds := by
  unfold Blocks.reactProofs
  split
  · exact h
  split
  · split
    · exact h
    · exact (h.updRoute _ _).actLocked _ _ _
  · split
    · exact h.updRoute _ _
    · exact h.actLocked _ _ _
  · split
    · exact h.holdEntry _ _ _ _ _ _
    · split
      · exact h.holdEntry _ _ _ _ _ _
      · exact h
  · exact h

theorem reactProved (slot : Nat) : (b.reactProved slot).InBounds := by
  unfold Blocks.reactProved
  split
  · exact h
  · split
    · exact (h.updRoute _ _).answerOpt _ _ _
    · exact h

theorem passedAtStop (slot : Nat) (e : RouteEntry) : (b.passedAtStop slot e).InBounds :=
  (h.raiseAlarm _ _ _).updRoute _ _

theorem reactOccupation (slot i : Nat) (o : Occupation) : (b.reactOccupation slot i o).InBounds := by
  have hstall : ∀ r, (b.unexpectedOccupation slot o.sec r).InBounds := fun r => (h.raiseAlarm _ _ _).stall _ _ _
  unfold Blocks.reactOccupation
  split
  · exact h
  split
  · exact h
  split
  · exact hstall _
  · exact hstall _
  · exact hstall _
  · split
    · exact (h.stopEntry _ _ _).answerOpt _ _ _
    · exact h.holdEntry _ _ _ _ _ _
  · split
    · exact h.passedAtStop _ _
    · exact h
  · split
    · exact h.passedAtStop _ _
    · exact h
  · split
    · exact h.passedAtStop _ _
    · exact h
  · exact h

theorem reactOccupations (slot : Nat) : (b.reactOccupations slot).InBounds := by
  unfold Blocks.reactOccupations
  split
  · exact h
  · refine foldl _ (fun b i h => ?_) _ _ h
    split
    · exact h
    · exact h.reactOccupation _ _ _

theorem reactFailure (slot n : Nat) : (b.reactFailure slot n).InBounds := by
  unfold Blocks.reactFailure
  split
  · exact h
  split
  · dsimp only
    split
    · exact h.stall _ _ _
    · split
      · exact h.updRoute _ _
      · exact h
    · exact h
  · exact h

theorem reactRecovery (slot : Nat) : (b.reactRecovery slot).InBounds := by
  unfold Blocks.reactRecovery
  split
  · exact h
  · split
    · exact h.updRoute _ _
    · exact h

theorem releaseFront (slot : Nat) (e : RouteEntry) (r : RouteRec) : (b.releaseFront slot e r).InBounds := by
  unfold Blocks.releaseFront
  split
  · exact h
  · dsimp only
    split
    · exact (h.release _ _).leave _
    · exact (h.release _ _).updRoute _ _

omit h in
theorem sequentialRelease (fuel slot : Nat) :
    ∀ b : Blocks, b.InBounds → (Blocks.sequentialRelease fuel b slot).InBounds := by
  induction fuel with
  | zero => exact fun _ h => h
  | succ fuel ih =>
    intro b h
    unfold Blocks.sequentialRelease
    split
    · exact h
    · split
      · exact ih _ (h.releaseFront _ _ _)
      · exact h

theorem reactRelease (slot : Nat) : (b.reactRelease slot).InBounds := by
  unfold Blocks.reactRelease
  split
  · exact h
  · split
    · exact sequentialRelease _ _ _ h
    · exact h

theorem reactEntry (slot : Nat) : (b.reactEntry slot).InBounds :=
  ((((((reactRecovery (foldl _ (fun _ n h => h.reactFailure slot n) _ _ (h.reactOccupations slot)) slot).testOverlap
    slot).reactProofs slot).reactProved slot).testOverlapTiming slot).testOverlapExpired slot).reactRelease slot

/-! ### A route taken into the Route Set or the waiting list (R45, R46, R49) -/

/-- R46: an entry leaves the waiting list. -/
theorem unwait (route : Nat) : (b.unwait route).InBounds :=
  h.withRoutes rfl (List.Sublist.refl _) (List.filter_sublist.map _)

/-- R46: an entry for a route that is neither held nor waiting. -/
theorem wait (w : WaitingRec) (hw : w.route ∉ b.heldRoutes ++ b.waiting.map (·.route)) : (b.wait w).InBounds := by
  unfold Blocks.wait
  split
  · exact h.answer _ _ _
  · refine { h with waiting := ?_, once := ?_ }
    · show (b.waiting ++ [w]).length ≤ 16
      rw [List.length_append, List.length_singleton]
      omega
    · show (b.heldRoutes ++ (b.waiting ++ [w]).map (·.route)).Nodup
      rw [List.map_append, ← List.append_assoc, List.map_singleton]
      exact h.once.append (List.nodup_singleton _) (by simpa using hw)

/-- R53: an entry made in a free slot, for a route that is neither held nor waiting. -/
theorem createEntry {slot route : Nat} (hm : b.mode = .service) (hslot : b.routes[slot]? = some none)
    (hnew : route ∉ b.heldRoutes ++ b.waiting.map (·.route)) (e : RouteEntry) (sweep : Bool) (i : Option Identity)
    (c : Nat) (a : Assignment) : (b.createEntry slot e route sweep i c a).InBounds := by
  have hset : ∀ r : RouteRec, r.route = route →
      ({ b with routes := b.routes.set slot (some r) } : Blocks).InBounds := by
    rintro r rfl
    refine { h with slots := by simpa using h.slots, once := ?_, service := fun hs => absurd hm hs }
    have hp := (filterMap_set_some_perm (fun x : RouteRec => x.route) r b.routes slot hslot).append_right
      (b.waiting.map (·.route))
    exact hp.nodup_iff.mpr (List.nodup_cons.mpr ⟨hnew, h.once⟩)
  unfold Blocks.createEntry
  dsimp only
  refine reactEntry ?_ _
  split
  · exact (hset _ rfl).mark _
  · exact ((hset _ rfl).mark _).updLine _ _

/-- R51 to R53: the availability stage. -/
theorem availability {d : Blocks} {route : Nat} {e : RouteEntry} {sweep : Bool} {i : Option Identity} {c : Nat}
    (hm : b.mode = .service) (hnew : route ∉ b.heldRoutes ++ b.waiting.map (·.route))
    (hd : b.availability e route sweep i c = .applied d) : d.InBounds := by
  unfold Blocks.availability at hd
  split at hd
  · cases hd
  rename_i slot hslot
  split at hd
  · cases hd
  · cases hd
  split at hd
  · cases hd
  split at hd
  · cases hd
  rename_i k hk
  cases hd
  have hb := h.claim hk
  have hfree : b.routes[slot]? = some none := by
    obtain ⟨hlt, hnone, -⟩ := List.findIdx?_eq_some_iff_getElem.mp hslot
    rw [List.getElem?_eq_getElem hlt, Option.isNone_iff_eq_none.mp hnone]
  obtain ⟨-, rfl⟩ := b.claim_applied _ _ _ hk
  obtain ⟨_, _, _, _, _, _, _, _, heq⟩ := b.applyClaim_frame (.slot slot) (b.routeClaim slot e sweep i _)
  rw [heq] at hb ⊢
  exact hb.createEntry hm hfree hnew e sweep i c _

omit h in
theorem askToken_lists (b : Blocks) (n : Nat) :
    (b.askToken n).routes = b.routes ∧ (b.askToken n).waiting = b.waiting := by
  unfold Blocks.askToken
  split
  · exact ⟨rfl, rfl⟩
  · split
    · exact ⟨rfl, rfl⟩
    · obtain ⟨_, _, hline⟩ := (b.sendLine n (.tokenAsk n)).updLine_frame n (fun l =>
        { l with tokenAsk := some (Clock.after b.clock 5000) })
      obtain ⟨_, _, _, hsend⟩ := b.sendBorder_frame (portOf n) (.tokenAsk n)
      rw [hline, Blocks.sendLine, hsend]
      exact ⟨rfl, rfl⟩

/-! ### SET ROUTE (R47 to R64) -/

omit h in
/-- A route with no slot and no place is neither held nor waiting (R49). -/
theorem not_mem_of_absent {b : Blocks} {route : Nat} (hs : b.slotOf route = none) (hp : b.placeOf route = none) :
    route ∉ b.heldRoutes ++ b.waiting.map (·.route) := by
  rw [List.mem_append, not_or]
  constructor
  · rw [Blocks.mem_heldRoutes]
    rintro ⟨slot, r, hr, rfl⟩
    have hlt : slot < b.routes.length := (List.getElem?_eq_some_iff.mp (Blocks.Follows.getElem?_of_join hr)).1
    have hno := List.find?_eq_none.mp hs slot (List.mem_range.mpr hlt)
    simp [hr] at hno
  · rw [List.mem_map]
    rintro ⟨w, hw, rfl⟩
    have hno := List.findIdx?_eq_none_iff.mp hp w hw
    simp at hno

theorem clearPassage (e : RouteEntry) (r : RouteRec) : (b.clearPassage e r).InBounds :=
  foldl _ (fun _ n h => h.updSection n _) _ _ h

omit h in
theorem reDrives (ps : List PointPos) : ∀ b : Blocks, b.InBounds → (b.reDrives ps).1.InBounds := by
  induction ps with
  | nil => exact fun _ h => h
  | cons p ps ih =>
    intro b h
    unfold Blocks.reDrives
    split
    · exact ih _ (h.drive _ _)
    · exact ih _ h

theorem reClear (slot : Nat) (e : RouteEntry) (r : RouteRec) (c : Nat) : (b.reClear slot e r c).InBounds := by
  unfold Blocks.reClear
  split
  · exact (h.updRoute _ _).answer _ _ _
  · exact ((h.clearPassage e r).updRoute _ _).clearEntry _ _ _

theorem reDrive (slot : Nat) (e : RouteEntry) (r : RouteRec) (c : Nat) : (b.reDrive slot e r c).InBounds := by
  have hd := reDrives (b.claimedPoints e r) b h
  unfold Blocks.reDrive
  split
  · exact (h.updRoute _ _).answer _ _ _
  · dsimp only
    split
    · exact (hd.updRoute _ _).answer _ _ _
    · exact (hd.clearPassage e r).updRoute _ _

/-- R48: outside SERVICE no route is held, so a route with no place is new. -/
theorem setRouteObserving (hm : b.mode ≠ .service) (q : Request) : (b.setRouteObserving q).InBounds := by
  unfold Blocks.setRouteObserving
  dsimp only
  split
  · exact h.answer _ _ _
  rename_i hp
  split
  · refine h.wait _ ?_
    rw [h.service hm, List.nil_append, List.mem_map]
    rintro ⟨w, hw, he⟩
    have hno := List.findIdx?_eq_none_iff.mp hp w hw
    rw [he, beq_self_eq_true] at hno
    cases hno
  · exact h.answer _ _ _

/-- R50 to R54: the stages for a route that is neither held nor waiting. -/
theorem setRouteNew (hm : b.mode = .service) (q : Request) (e : RouteEntry)
    (hnew : q.setRoute.route ∉ b.heldRoutes ++ b.waiting.map (·.route)) : (b.setRouteNew q e).InBounds := by
  unfold Blocks.setRouteNew
  dsimp only
  split
  · exact h.answer _ _ _
  split
  · rename_i hd
    exact h.availability hm hnew hd
  · rename_i line _
    refine (h.askToken line).wait _ ?_
    obtain ⟨hr, hw⟩ := askToken_lists b line
    rw [Blocks.heldRoutes_congr (congrArg _ hr), hw]
    exact hnew
  · split
    · exact h.answer _ _ _
    · exact h.wait _ hnew

theorem setRoute (q : Request) : (b.setRoute q).InBounds := by
  unfold Blocks.setRoute
  dsimp only
  split
  · exact h.answer _ _ _
  split
  · rename_i hm
    exact h.setRouteObserving hm q
  rename_i hm
  split
  · split
    · exact h
    split
    · exact h.reClear _ _ _ _
    · exact h.reDrive _ _ _ _
    · exact h.answer _ _ _
  rename_i hs
  split
  · exact h.answer _ _ _
  rename_i hp
  split
  · exact h
  · exact h.setRouteNew (not_not.mp hm) q _ (not_mem_of_absent hs hp)

/-! ### The waiting list (3.4) -/

/-- R65: a waiting entry examined in SERVICE: its route is not held, and its entry is gone before it is set. -/
theorem examine (hm : b.mode = .service) {w : WaitingRec} (hw : w ∈ b.waiting) : (b.examine w).InBounds := by
  have hnew : w.route ∉ (b.unwait w.route).heldRoutes ++ (b.unwait w.route).waiting.map (·.route) := by
    rw [List.mem_append, not_or]
    refine ⟨fun hheld => ?_, fun hwait => ?_⟩
    · exact (List.nodup_append.mp h.once).2.2 _ hheld _ (List.mem_map_of_mem hw) rfl
    · obtain ⟨v, hv, he⟩ := List.mem_map.mp hwait
      simpa [he] using (List.mem_filter.mp hv).2
  unfold Blocks.examine
  split
  · exact h
  split
  · exact (h.unwait _).answer _ _ _
  split
  · rename_i hd
    exact (h.unwait _).availability hm hnew hd
  · exact h.askToken _
  · split
    · exact (h.unwait _).answer _ _ _
    · exact h

theorem waitingPass (hm : b.mode = .service) : b.waitingPass.InBounds := by
  have hpass : ∀ (ws : List WaitingRec) (d : Blocks), d.InBounds → d.mode = .service → (ws.foldl (fun b w =>
      if !w.deferred && b.waiting.contains w then b.examine w else b) d).InBounds := by
    intro ws
    induction ws with
    | nil => exact fun _ h _ => h
    | cons w ws ih =>
      intro d hd hdm
      rw [List.foldl_cons]
      split
      · rename_i hc
        have hw : w ∈ d.waiting := List.contains_iff_mem.mp (Bool.and_eq_true_iff.mp hc).2
        exact ih _ (hd.examine hdm hw) ((((Blocks.Follows.refl true d).examine w).calm rfl).mode.trans hdm)
      · exact ih _ hd hdm
  exact hpass b.waiting b h hm

theorem refuseTokenWaits (line : Nat) : (b.refuseTokenWaits line).InBounds :=
  foldl _ (fun _ _ h => h.answer _ _ _) _ _ (h.withRoutes rfl (List.Sublist.refl _) (List.filter_sublist.map _))

theorem waitingExpiry {d : Blocks} {route : Nat} {t : Bool} {o : CellOutcome}
    (hd : b.waitingExpiry route t o = some d) : d.InBounds := by
  unfold Blocks.waitingExpiry at hd
  (repeat' split at hd) <;> cases hd
  exact (h.unwait _).answer _ _ _

/-! ### CANCEL ROUTE, the timers of an entry, emergency release and CALL POINTS -/

theorem cancelCleared (slot : Nat) (e : RouteEntry) (r : RouteRec) (c : Nat) :
    (b.cancelCleared slot e r c).InBounds := by
  unfold Blocks.cancelCleared
  dsimp only
  split
  · exact (((h.stopEntry _ _ _).answerOpt _ _ _).wholeRelease _).answer _ _ _
  · exact (((h.stopEntry _ _ _).answerOpt _ _ _).updRoute _ _).answer _ _ _

theorem cancelRoute (q : Request) : (b.cancelRoute q).InBounds := by
  have hans : ∀ o d, (b.answer q.cell o d).InBounds := h.answer q.cell
  have hwhole : ∀ slot, ((b.wholeRelease slot).answer q.cell .done .none).InBounds :=
    fun slot => (h.wholeRelease slot).answer _ _ _
  unfold Blocks.cancelRoute
  dsimp only
  split
  · exact hans _ _
  split
  · exact ((h.unwait _).answer _ _ _).answer _ _ _
  split
  · exact hans _ _
  split
  · exact hwhole _
  · exact hwhole _
  · exact hwhole _
  · exact h.cancelCleared _ _ _ _
  · exact h.cancelCleared _ _ _ _
  · split
    · exact h
    · exact hans _ _
  · exact hans _ _
  · exact hans _ _

theorem routeTimerExpiry {d : Blocks} {slot : Nat} {k : TimerKind} (hd : b.routeTimerExpiry slot k = some d) :
    d.InBounds := by
  unfold Blocks.routeTimerExpiry at hd
  (repeat' split at hd) <;> cases hd
  exact h.wholeRelease _

theorem entryWaitExpiry {d : Blocks} {slot : Nat} (hd : b.entryWaitExpiry slot = some d) : d.InBounds := by
  unfold Blocks.entryWaitExpiry at hd
  (repeat' split at hd) <;> cases hd
  exact (h.tearDown _).freeEntry _ _

theorem startEmergency (slot : Nat) (e : RouteEntry) (r : RouteRec) : (b.startEmergency slot e r).InBounds := by
  unfold Blocks.startEmergency
  dsimp only
  split
  · exact ((h.commandSignal _ _ _).updRoute _ _).answerOpt _ _ _
  · exact (h.updRoute _ _).answerOpt _ _ _

theorem emergencyRelease (route c : Nat) : (b.emergencyRelease route c).InBounds := by
  have hstart : ∀ slot e r, ((b.startEmergency slot e r).answer c .done .none).InBounds :=
    fun slot e r => (h.startEmergency slot e r).answer _ _ _
  unfold Blocks.emergencyRelease
  split
  · exact h.answer _ _ _
  split
  · exact hstart _ _ _
  · exact hstart _ _ _
  · exact hstart _ _ _
  · exact hstart _ _ _
  · split
    · exact h
    · exact h.answer _ _ _
  · exact h.answer _ _ _

theorem callPoints (q : Request) : (b.callPoints q).InBounds := by
  have hans : ∀ o d, (b.answer q.cell o d).InBounds := h.answer q.cell
  unfold Blocks.callPoints
  dsimp only
  split
  · split
    · exact hans _ _
    split
    · exact hans _ _
    split
    · exact hans _ _
    split
    · exact hans _ _
    split
    · exact hans _ _
    split
    · exact hans _ _
    · exact ((h.overtakeCall _).updPoint _ _).drive _ _
  · exact hans _ _

end Blocks.InBounds

end Sys2Proof.Machine
end

section

namespace Sys2Proof.Machine

namespace Blocks.InBounds

variable {b : Blocks} (h : b.InBounds)

include h

/-! ### Receptions and handover (R138 to R141) -/

theorem releaseReception (n : Nat) : (b.releaseReception n).InBounds := by
  unfold Blocks.releaseReception
  split
  · exact (h.release _ _).updLine _ _
  · exact h

theorem testGrant (n : Nat) : (b.testGrant n).InBounds := by
  unfold Blocks.testGrant
  split
  · split
    · exact h
    split
    · exact (h.releaseReception n).sendLine _ _
    split
    · exact (h.updLine _ _).sendLine _ _
    · exact h
  · exact h

theorem releaseReceptionFront (e : LineEntry) (n : Nat) (r : Reception) : (b.releaseReceptionFront e n r).InBounds := by
  unfold Blocks.releaseReceptionFront
  split
  · exact h
  · dsimp only
    split
    · exact (h.release _ _).updLine _ _
    · exact (h.release _ _).updLine _ _

omit h in
theorem receptionPassage (fuel n : Nat) :
    ∀ b : Blocks, b.InBounds → (Blocks.receptionPassage fuel b n).InBounds := by
  induction fuel with
  | zero => exact fun _ h => h
  | succ fuel ih =>
    intro b h
    unfold Blocks.receptionPassage
    split
    · split
      · exact ih _ (h.releaseReceptionFront _ n _)
      · exact h
    · exact h

theorem startHandover (n slot : Nat) (i : Option Identity) : (b.startHandover n slot i).InBounds := by
  unfold Blocks.startHandover
  dsimp only
  split
  · exact ((h.raiseAlarm _ _ _).sendLine _ _).updLine _ _
  · exact (h.sendLine _ _).updLine _ _

theorem testHandover (n : Nat) : (b.testHandover n).InBounds := by
  unfold Blocks.testHandover
  split
  · split
    · exact h
    split
    · exact h.startHandover _ _ _
    · exact h
  · exact h

theorem handoverSendTime {d : Blocks} {n : Nat} (hd : b.handoverSendTime n = some d) : d.InBounds := by
  unfold Blocks.handoverSendTime at hd
  (repeat' split at hd) <;> cases hd
  · exact (h.sendLine _ _).updLine _ _
  · exact (h.raiseAlarm _ _ _).updLine _ _

theorem reactLine (n : Nat) : (b.reactLine n).InBounds := receptionPassage 6 n _ ((h.testHandover n).testGrant n)

/-! ### The token (R131 to R134) -/

theorem setToken (n : Nat) (t : Token) (r : Report) : (b.setToken n t r).InBounds := (h.updLine n _).queueRecord _ r

theorem endTokenAsk (n : Nat) : (b.endTokenAsk n).InBounds := by
  unfold Blocks.endTokenAsk
  split
  · exact (h.updLine _ _).refuseTokenWaits _
  · exact h

theorem tokenWaitExpiry {d : Blocks} {n : Nat} (hd : b.tokenWaitExpiry n = some d) : d.InBounds := by
  unfold Blocks.tokenWaitExpiry at hd
  (repeat' split at hd) <;> cases hd
  exact h.endTokenAsk _

theorem blockLine (n : Nat) : (b.blockLine n).InBounds := (h.updLine _ _).setToken _ _ _

theorem checkToken (n : Nat) : (b.checkToken n).InBounds := by
  unfold Blocks.checkToken
  split
  · split
    · dsimp only
      split
      · exact (h.raiseAlarm _ _ _).updLine _ _
      · exact (h.raiseAlarm _ _ _).blockLine _
    · exact h
  · exact h

theorem recheckToken (n : Nat) : (b.recheckToken n).InBounds := by
  unfold Blocks.recheckToken
  split
  · exact h
  split
  · split
    · split
      · exact h
      · exact h.blockLine _
    · exact (h.updLine _ _).endAlarm _ _ _
  · exact h

/-! ### Telegrams and links (R124 to R128, R136, R137, R199) -/

theorem setCollected (p : Nat) (cs : List LineChar) : (b.setCollected p cs).InBounds :=
  { h with collected := (List.length_set ..).trans h.collected }

theorem discardTelegram (p : Nat) : (b.discardTelegram p).InBounds := by
  unfold Blocks.discardTelegram
  split
  · exact h
  · dsimp only
    split
    · exact h.updLink _ _
    · exact (h.updLink _ _).raiseAlarm _ _ _

theorem breakOff (p : Nat) : (b.breakOff p).InBounds := by
  unfold Blocks.breakOff
  split
  · exact h
  · exact (h.setCollected _ _).discardTelegram _

theorem protocolError (p : Nat) : (b.protocolError p).InBounds := by
  unfold Blocks.protocolError
  split
  · exact h
  split
  · exact h
  · exact (h.updLink _ _).raiseAlarm _ _ _

theorem writeViews (p : Nat) (vs : List LineView) : (b.writeViews p vs).InBounds := by
  unfold Blocks.writeViews
  refine foldl _ (fun b k h => ?_) _ _ h
  split
  · exact h
  · exact h.updLine _ _

theorem recoverGrant (r : Option LineRec) (n : Nat) : (b.recoverGrant r n).InBounds := by
  unfold Blocks.recoverGrant
  split
  · split
    · exact h
    split
    · exact h.updRoute _ _
    · exact h
  · exact h

theorem sendDeferredFree (n : Nat) : (b.sendDeferredFree n).InBounds := by
  unfold Blocks.sendDeferredFree
  split
  · exact h
  · exact (h.sendLine _ _).updLine _ _

theorem linkBecomesUp (p : Nat) : (b.linkBecomesUp p).InBounds :=
  foldl _ (fun _ n h => h.sendDeferredFree n) _ _ <|
    foldl _ (fun _ x h => h.recoverGrant x.2 x.1) _ _ <|
      foldl _ (fun _ n h => h.checkToken n) _ _ ((h.updLink p _).endAlarm _ _ _)

theorem testOutgoing (n : Nat) : (b.testOutgoing n).InBounds := by
  unfold Blocks.testOutgoing
  split
  · rename_i l _ _
    split
    · exact h
    · rename_i v _
      dsimp only
      generalize (if v.outgoing then 0 else min 2 (l.outgoingNone + 1)) = count
      have hcount := h.updLine n (fun l => { l with outgoingNone := count })
      split
      · exact hcount
      split
      · exact hcount.releaseReception n
      · exact hcount
  · exact h

theorem countLineState (p : Nat) : (b.countLineState p).InBounds := by
  unfold Blocks.countLineState
  split
  · exact h
  split
  · exact h.updLink _ _
  · dsimp only
    split
    · exact (h.updLink _ _).linkBecomesUp p
    · exact h.updLink _ _
  · exact foldl _ (fun _ n h => (h.recheckToken n).testOutgoing n) _ _ h

/-- R125: a telegram received, valid or not. -/
theorem receive {d : Blocks} {t : TelegramHead} {n : Option Nat} {act : Blocks → Blocks}
    (hact : ∀ c : Blocks, c.InBounds → (act c).InBounds) (hd : b.receive t n act = some d) : d.InBounds := by
  have hb := h.breakOff t.port
  unfold Blocks.receive at hd
  split at hd
  · dsimp only at hd
    split at hd <;> cases hd
    · exact hact _ (hb.updLink _ _)
    · exact hb.discardTelegram _
  · cases hd

theorem receiveLine {d : Blocks} {t : TelegramHead} {n : Byte} {act : Blocks → Nat → Blocks}
    (hact : ∀ (c : Blocks) k, c.InBounds → (act c k).InBounds) (hd : b.receiveLine t n act = some d) : d.InBounds := by
  refine h.receive (fun c hc => ?_) hd
  split
  · exact hact c _ hc
  · exact hc

theorem onLineState {d : Blocks} {t : TelegramHead} {vs : List LineView} (hd : b.onLineState t vs = some d) :
    d.InBounds := h.receive (fun _ hc => (hc.writeViews _ _).countLineState _) hd

theorem loseGrant (n : Nat) : (b.loseGrant n).InBounds := by
  unfold Blocks.loseGrant
  split
  · exact h
  split
  · exact h
  split
  · exact (h.updLine n _).tearDown _
  · split
    · exact h
    · exact h.updRoute _ _
  · exact h

theorem lineDown (n : Nat) (t : Clock) : (b.lineDown n t).InBounds := by
  unfold Blocks.lineDown
  split
  · exact h
  · have hl := fun f => ((h.endTokenAsk n).loseGrant n).updLine n f
    dsimp only
    split
    · exact hl _
    · exact (hl _).endAlarm _ _ _

theorem linkSilence {d : Blocks} {p : Nat} (hd : b.linkSilence p = some d) : d.InBounds := by
  unfold Blocks.linkSilence at hd
  dsimp only at hd
  (repeat' split at hd) <;> cases hd
  · exact foldl _ (fun _ n h => h.lineDown n _) _ _ ((h.updLink _ _).raiseAlarm _ _ _)
  · exact h.updLink _ _

theorem lineStateInterval {d : Blocks} (hd : b.lineStateInterval = some d) : d.InBounds := by
  unfold Blocks.lineStateInterval at hd
  (repeat' split at hd) <;> cases hd
  exact foldl _ (fun _ p h => h.sendBorder p _) _ _ (h.of_eq _ rfl)

/-! ### Telegrams on a line -/

theorem onTokenAsk (n : Nat) : (b.onTokenAsk n).InBounds := by
  have hdecline := h.sendLine n (.tokenDecline n)
  unfold Blocks.onTokenAsk
  split
  · dsimp only
    split
    · exact hdecline
    split
    · exact h
    split
    · exact hdecline
    split
    · exact hdecline
    split
    · exact hdecline
    split
    · exact hdecline
    · exact (h.updLine _ _).setToken _ _ _
  · exact h

theorem onTokenGive (n : Nat) : (b.onTokenGive n).InBounds := by
  unfold Blocks.onTokenGive
  split
  · split
    · exact h.protocolError _
    split
    · split
      · exact h.protocolError _
      · exact ((h.updLine _ _).setToken _ _ _).noticeTokenHeld
    · exact h
  · exact h

theorem onEntryAsk (n : Nat) (r : Word16) (i : Option Identity) : (b.onEntryAsk n r i).InBounds := by
  have hdeny := h.sendLine n (.entryDeny n r)
  unfold Blocks.onEntryAsk
  split
  · dsimp only
    split
    · exact hdeny
    split
    · exact hdeny
    split
    · exact hdeny
    split
    · split
      · split
        · exact h.sendLine _ _
        · exact h
      · exact hdeny
    split
    · exact hdeny
    · rename_i d hd
      exact (h.claim hd).updLine _ _
  · exact h

theorem onEntryGrant (n : Nat) (r : Word16) : (b.onEntryGrant n r).InBounds := by
  unfold Blocks.onEntryGrant
  split
  · exact h.sendLine _ _
  split
  · exact (h.updLine _ _).updRoute _ _
  · exact h.sendLine _ _
  · exact h
  · exact h

theorem onEntryDeny (n : Nat) (r : Word16) : (b.onEntryDeny n r).InBounds := by
  unfold Blocks.onEntryDeny
  split
  · exact h
  split
  · dsimp only
    split
    · exact (h.updLine _ _).tearDown _
    · exact h.updLine _ _
  · exact h

theorem onEntryFree (n : Nat) (r : Word16) : (b.onEntryFree n r).InBounds := by
  unfold Blocks.onEntryFree
  split
  · split
    · exact h.releaseReception n
    · exact h
  · exact h

theorem onTrainPass (n : Nat) (i : Option Identity) : (b.onTrainPass n i).InBounds := by
  have hs := h.sendLine n (.trainTaken n)
  unfold Blocks.onTrainPass
  dsimp only
  split
  · split
    · exact (hs.updLine _ _).updSection _ _
    · exact hs.updLine _ _
  · exact hs

theorem collectChar (p : Nat) (c : LineChar) : (Blocks.collectChar p b c).InBounds := by
  have hopen := h.breakOff p
  unfold Blocks.collectChar
  split
  · unfold Blocks.openTelegram
    dsimp only
    split
    · exact hopen.setCollected _ _
    · exact hopen.discardTelegram _
  unfold Blocks.joinTelegram
  split
  · exact h
  dsimp only
  split
  · split
    · exact h.setCollected _ _
    split
    · exact h.setCollected _ _
    · exact (h.setCollected _ _).discardTelegram _
  · exact h.setCollected _ _

theorem onInvalidTelegram {d : Blocks} {p : Nat} {cs : List LineChar} (hd : b.onInvalidTelegram p cs = some d) :
    d.InBounds := by
  unfold Blocks.onInvalidTelegram at hd
  split at hd <;> cases hd
  exact foldl _ (fun _ c h => h.collectChar p c) _ _ h

/-! ### The follow-ups of an event -/

theorem reactRound : b.reactRound.InBounds :=
  clearNotices (foldl _ (fun _ n h => h.reactLine n) _ _ (foldl _ (fun _ n h => h.reactEntry n) _ _ h))

omit h in
theorem settleRounds (fuel : Nat) : ∀ b : Blocks, b.InBounds → (Blocks.settleRounds fuel b).InBounds := by
  induction fuel with
  | zero => exact fun _ h => h
  | succ fuel ih =>
    intro b h
    have hround := h.reactRound
    unfold Blocks.settleRounds
    dsimp only
    generalize b.reactRound = d at hround ⊢
    split
    · rename_i hc
      exact ih _ (hround.clearFreed.waitingPass (eq_of_beq (Bool.and_eq_true_iff.mp hc).2))
    · exact hround.clearFreed

theorem settle : b.settle.InBounds := by
  unfold Blocks.settle
  exact settleRounds _ b h

end Blocks.InBounds

end Sys2Proof.Machine
end

section

namespace Sys2Proof.Machine

namespace Blocks.InBounds

variable {b : Blocks} (h : b.InBounds)

include h

/-! ### The restriction unit and the alarm unit's request (08, 09) -/

theorem setReminder (e : Element) (v : Bool) : (b.setReminder e v).InBounds := by
  obtain ⟨_, _, _, _, _, _, _, eq⟩ := b.setReminder_frame e v
  rw [eq]
  exact h.of_eq _ rfl

theorem setStanding (e : Element) (v : Bool) : (b.setStanding e v).InBounds := by
  obtain ⟨_, _, _, _, _, _, _, eq⟩ := b.setStanding_frame e v
  rw [eq]
  exact h.of_eq _ rfl

theorem applyReminder (q : Request) : (b.applyReminder q).InBounds := by
  unfold Blocks.applyReminder
  split
  · exact h.answer _ _ _
  · exact (h.setReminder _ _).answer _ _ _

theorem removeReminder (q : Request) : (b.removeReminder q).InBounds := by
  unfold Blocks.removeReminder
  split
  · exact h.answer _ _ _
  split
  · exact (h.setReminder _ _).answer _ _ _
  · exact h.answer _ _ _

theorem applyStanding (q : Request) : (b.applyStanding q).InBounds := by
  unfold Blocks.applyStanding
  split
  · exact h.answer _ _ _
  split
  · exact h.answer _ _ _
  · exact (h.setStanding _ _).queueRecord _ _

theorem storeArea (n : Nat) (r : PossessionRec) (a : Answer) : (b.storeArea n r a).InBounds :=
  (h.updArea _ _).queueRecord _ _

theorem grantPossession (q : Request) : (b.grantPossession q).InBounds := by
  unfold Blocks.grantPossession
  dsimp only
  split
  · exact h.answer _ _ _
  split
  · exact h.answer _ _ _
  split
  · exact h.answer _ _ _
  · exact h.answer _ _ _
  unfold Blocks.grant
  split
  · exact h.answer _ _ _
  · rename_i d hd
    exact (h.claim hd).storeArea _ _ _

theorem lift (area c : Nat) : (b.lift area c).InBounds :=
  storeArea (foldl _ (fun _ n h => h.loseSection n _) _ _ (h.release _ _)) _ _ _

theorem liftPossession (q : Request) : (b.liftPossession q).InBounds := by
  unfold Blocks.liftPossession
  dsimp only
  split
  · exact h.answer _ _ _
  split
  · exact h.answer _ _ _
  · exact h.answer _ _ _
  split
  · exact h.lift _ _
  · exact h.storeArea _ _ _

/-- R153: entries gone from the arm list. -/
theorem withArms {as : List ArmRec} (ha : as.Sublist b.arms) : ({ b with arms := as } : Blocks).InBounds :=
  { h with arms := ha.length_le.trans h.arms, targets := (ha.map _).nodup h.targets }

/-- R154: an entry for a target that has none. -/
theorem arm (q : Request) : (b.arm q).InBounds := by
  unfold Blocks.arm
  split
  · exact h.answer _ _ _
  split
  · exact h.answer _ _ _
  rename_i hlen
  split
  · exact h.answer _ _ _
  rename_i hnew
  refine answer ?_ _ _ _
  refine { h with arms := ?_, targets := ?_ }
  · rw [List.length_append, List.length_singleton]
    omega
  · rw [List.map_append, List.map_singleton]
    refine h.targets.append (List.nodup_singleton _) ?_
    simpa using hnew

theorem armExpiry {d : Blocks} (hd : b.armExpiry = some d) : d.InBounds := by
  unfold Blocks.armExpiry at hd
  split at hd
  · cases hd
  rename_i a rest harms
  split at hd <;> cases hd
  exact h.withArms (harms ▸ List.sublist_cons_self a rest)

/-- R155: EXECUTE, with the operation it runs. -/
theorem execute (q : Request) (op : Blocks → Element → Nat → Blocks)
    (hop : ∀ (d : Blocks) e c, d.InBounds → (op d e c).InBounds) : (b.execute q op).InBounds := by
  unfold Blocks.execute
  split
  · exact h.answer _ _ _
  split
  · exact h.answer _ _ _
  rename_i a _
  have harms := h.withArms (as := b.arms.filter (fun x => x != a)) List.filter_sublist
  dsimp only
  split
  · exact harms.answer _ _ _
  split
  · exact hop _ _ _ harms
  · exact h.answer _ _ _

theorem restoreSection (e : Element) (c : Nat) : (b.restoreSection e c).InBounds := by
  have hrestore : ∀ (ok : Bool) d u, (if !ok then b.answer c .conflict d
      else if !b.unitTrusted u then b.precondition c .unitNotActive
      else (b.setOccupancy e.number .restoring b.clock none).answer c .done .none).InBounds := fun ok d u => by
    split
    · exact h.answer _ _ _
    split
    · exact h.answer _ _ _
    · exact (h.setOccupancy _ _ _ _).answer _ _ _
  unfold Blocks.restoreSection
  split
  · split
    · exact h.answer _ _ _
    split
    · exact h.answer _ _ _
    · exact hrestore _ _ _
  · exact h

theorem removeStanding (e : Element) (c : Nat) : (b.removeStanding e c).InBounds := by
  unfold Blocks.removeStanding
  split
  · exact (h.setStanding _ _).queueRecord _ _
  · exact h.answer _ _ _

theorem forceLift (e : Element) (c : Nat) : (b.forceLift e c).InBounds := by
  unfold Blocks.forceLift
  split
  · exact h
  split
  · exact h.answer _ _ _
  · exact h.lift _ _

theorem tokenRestore (e : Element) (c : Nat) : (b.tokenRestore e c).InBounds := by
  unfold Blocks.tokenRestore
  split
  · split
    · exact h.answer _ _ _
    split
    · exact h.answer _ _ _
    split
    · exact h.answer _ _ _
    split
    · exact h.answer _ _ _
    · exact ((h.setToken _ _ _).endAlarm _ _ _).noticeTokenHeld
  · exact h

theorem receptionRelease (e : Element) (c : Nat) : (b.receptionRelease e c).InBounds := by
  unfold Blocks.receptionRelease
  split
  · split
    · exact h.answer _ _ _
    split
    · exact h.answer _ _ _
    split
    · exact h.answer _ _ _
    · exact (h.releaseReception _).answer _ _ _
  · exact h.answer _ _ _

theorem acknowledgeAlarm (q : Request) : (b.acknowledgeAlarm q).InBounds := by
  unfold Blocks.acknowledgeAlarm
  dsimp only
  split
  · exact (h.withAlarms false h.alarmsInBounds).answer _ _ _
  split
  · exact h.answer _ _ _
  · exact (h.acceptAlarm _ _).answer _ _ _

/-! ### Loading (R175) and the modes (10) -/

theorem setLoad (l : LoadRec) : ({ b with load := l } : Blocks).InBounds := h.of_eq _ rfl

theorem abortLoad (c : Nat) (o : CellOutcome) : (b.abortLoad c o).InBounds := (h.setLoad _).answer _ _ _

theorem takeSegment (l : LoadRec) (q : Request) : (b.takeSegment l q).InBounds := by
  have hl := h.setLoad l
  unfold Blocks.takeSegment
  dsimp only
  split
  · exact hl.abortLoad _ _
  split
  · exact hl.abortLoad _ _
  split
  · split
    · exact (hl.setLoad _).abortLoad _ _
    · exact (hl.setLoad _).answer _ _ _
  · exact (hl.setLoad _).answer _ _ _

theorem loadSegment (q : Request) : (b.loadSegment q).InBounds := by
  unfold Blocks.loadSegment
  dsimp only
  split
  · exact h.answer _ _ _
  split
  · split
    · exact h.takeSegment _ _
    · exact h.abortLoad _ _
  · split
    · exact h.takeSegment _ _
    split
    · exact h.takeSegment _ _
    · exact h.abortLoad _ _
  · exact h.answer _ _ _
  · exact h.answer _ _ _

theorem loadReset (q : Request) : (b.loadReset q).InBounds := by
  unfold Blocks.loadReset
  split
  · exact h.answer _ _ _
  · exact (h.setLoad _).answer _ _ _

/-- A mode in which the routes that are held may be. -/
theorem setMode (m : Mode) (hm : b.heldRoutes = []) : (b.setMode m).InBounds := { h with service := fun _ => hm }

omit h in
theorem heldRoutes_of_firstNotEmpty (hn : b.firstNotEmpty = none) : b.heldRoutes = [] := by
  unfold Blocks.firstNotEmpty at hn
  split at hn
  · cases hn
  rename_i hr
  refine Blocks.heldRoutes_of_empty fun slot => Option.eq_none_iff_forall_ne_some.mpr fun r hs => hr ?_
  exact List.any_eq_true.mpr ⟨some r, List.mem_of_getElem? (Blocks.Follows.getElem?_of_join hs), rfl⟩

theorem leaveService (q : Request) : (b.leaveService q).InBounds := by
  unfold Blocks.leaveService
  split
  · exact h.answer _ _ _
  split
  · exact h.answer _ _ _
  rename_i hn
  have harms := (h.withArms (List.nil_sublist _)).of_eq { b with arms := [], sweep := Sweep.off } rfl
  exact (harms.setMode .configuring (heldRoutes_of_firstNotEmpty hn)).answer _ _ _

theorem timeLockExpiry {d : Blocks} (hd : b.timeLockExpiry = some d) : d.InBounds := by
  unfold Blocks.timeLockExpiry at hd
  (repeat' split at hd) <;> cases hd
  exact h.enterService

theorem raiseBlocked : b.raiseBlocked.InBounds :=
  foldl _ (fun b n h => by
    split
    · exact h.raiseAlarm _ _ _
    · exact h) _ _ h

theorem enterObserving (hr : b.heldRoutes = []) : b.enterObserving.InBounds := by
  unfold Blocks.enterObserving
  dsimp only
  refine startPoll (startPoll (completeSweep (raiseBlocked (mark ?_ _))) _) _
  exact setMode (h.of_eq _ rfl) .observing hr

/-! ### Records set up and discarded (R177, R178, R184) -/

theorem marks (l : List MirrorRec) : (l.foldl Blocks.mark b).InBounds := foldl _ (fun _ r h => h.mark r) _ _ h

/-- Blocks with an empty Route Set and waiting list, in any mode. -/
theorem emptied {d : Blocks} (hl : d.routes.length = 48) (hr : d.heldRoutes = []) (hw : d.waiting = [])
    (hc : d.collected.length = 4) (ha : d.arms.Sublist b.arms)
    (hd : d = { d with alarms := b.alarms, alarmCounter := b.alarmCounter, writes := b.writes }) : d.InBounds := by
  have hends : ({ b with arms := d.arms } : Blocks).InBounds := h.withArms ha
  have halarms : AlarmsInBounds d.alarms d.alarmCounter := by
    rw [hd]
    exact h.alarmsInBounds
  exact {
    arms := hends.arms
    targets := hends.targets
    alarms := halarms.alarms
    conditions := halarms.conditions
    sequences := halarms.sequences
    counter := halarms.counter
    range := halarms.range
    slots := hl
    waiting := by rw [hw]; exact Nat.zero_le 16
    once := by rw [hr, hw]; exact List.nodup_nil
    service := fun _ => hr
    writes := by rw [hd]; exact h.writes
    collected := hc }

omit h in
theorem heldRoutes_of_replicate (hr : b.routes = List.replicate 48 none) : b.heldRoutes = [] := by
  unfold Blocks.heldRoutes
  rw [hr, List.filterMap_replicate_of_none rfl]

theorem setUp (w : WorkingCopy) : (b.setUp w).InBounds ∧ (b.setUp w).heldRoutes = [] := by
  have hr : (b.setUp w).heldRoutes = [] := heldRoutes_of_replicate rfl
  exact ⟨h.emptied List.length_replicate hr rfl List.length_replicate (List.nil_sublist _) rfl, hr⟩

theorem discardRecords : b.discardRecords.InBounds :=
  h.emptied List.length_replicate (heldRoutes_of_replicate rfl) rfl List.length_replicate (List.Sublist.refl _) rfl

omit h in
theorem dropRoutes_length (b : Blocks) : b.dropRoutes.routes.length = b.routes.length :=
  foldl_same (fun b => b.routes.length) Blocks.dropRoute (fun b n => by
    unfold Blocks.dropRoute
    split
    · exact List.length_set ..
    · rfl) _ _

/-- R184: the routes dropped, in a mode that is set before. -/
theorem dropRoutes (d : Blocks) (hd : d = { d with
    arms := b.arms, alarms := b.alarms, alarmCounter := b.alarmCounter, routes := b.routes, writes := b.writes
    collected := b.collected }) : d.dropRoutes.InBounds := by
  have hlen := dropRoutes_length d
  have hheld := Blocks.heldRoutes_of_empty d.dropRoutes_routeRec
  obtain ⟨rs, w, e⟩ := d.dropRoutes_frame
  rw [e] at hlen hheld ⊢
  refine h.emptied (hlen.trans ?_) hheld rfl ?_ ?_ ?_
  · rw [hd]
    exact h.slots
  · rw [hd]
    exact h.collected
  · rw [hd]
  · rw [hd]

theorem setHolds (hs : List HoldRec) : ({ b with holds := hs } : Blocks).InBounds := h.of_eq _ rfl

theorem haltRecords : b.haltRecords.InBounds := by
  unfold Blocks.haltRecords
  exact setHolds (foldl _ (fun _ n h => h.updLine n _) _ _ (foldl _ (fun _ n h => h.updSignal n _) _ _
    (foldl _ (fun _ n h => h.updPoint n _) _ _ (foldl _ (fun _ n h => h.updSection n _) _ _ h)))) _

theorem haltBus (x : Bus) : (b.haltBus x).InBounds := startPoll (foldl _ (fun _ _ h => h.mark _) _ _ (h.setBus x _)) x

theorem enterHalted (r : Option Clock) : (b.enterHalted r).InBounds := by
  have hempty := h.withWrites b.running (ws := []) (Nat.zero_le 32)
  unfold Blocks.enterHalted
  dsimp only
  refine haltBus (haltBus ?_ _) _
  generalize hd : ({ (b.setMode .halted).haltStore with
    sweep := Sweep.off, selfCheckDue := none, lineStateDue := none
    work := { (b.setMode .halted).haltStore.work with halt := false } } : Blocks) = d
  have hdrop : d.dropRoutes.InBounds := hempty.dropRoutes d (by
    rw [← hd]
    unfold Blocks.haltStore
    split <;> rfl)
  split
  · exact hdrop.haltRecords
  · exact hdrop.haltRecords.raiseAlarm _ _ _

theorem selfCheck {d : Blocks} {c : SelfCheckCause} (hd : b.selfCheck c = some d) : d.InBounds := by
  unfold Blocks.selfCheck at hd
  split at hd
  · exact Option.some.inj hd ▸ h.enterHalted _
  split at hd
  · split at hd
    · split at hd
      · exact Option.some.inj hd ▸ h.of_eq _ rfl
      · exact Option.some.inj hd ▸ h.enterHalted _
    · cases hd
  · cases hd

/-! ### The table store (R174 to R179) -/

theorem withdrawCalls : b.withdrawCalls.InBounds := foldl _ (fun _ _ h => h.answerOpt _ _ _) _ _ h

theorem endAlarmsNow : b.endAlarmsNow.InBounds :=
  endAllAlarms (b := { b.enterAlarms with work := { b.enterAlarms.work with alarms := [] } })
    (h.enterAlarms.of_eq _ rfl) _

theorem beginCommit (c : Nat) : (b.beginCommit c).InBounds := by
  have hrun : ({ b with
      running := some (.commit c), writes := [], stored := { b.stored with valid := false } } : Blocks).InBounds :=
    of_eq (h.withWrites (some (.commit c)) (ws := []) (Nat.zero_le 32)) _ rfl
  exact hrun.withdrawCalls.endAlarmsNow.discardRecords.marks _

theorem commitFailed (c : Nat) : (b.commitFailed c).InBounds := (h.storeFault.setLoad _).answer _ _ _

theorem queueCommit (c : Nat) : (b.queueCommit c).InBounds := by
  unfold Blocks.queueCommit
  split
  · exact commitFailed (h.of_eq _ rfl) _
  rename_i hlen
  have hload := h.setLoad { b.load with state := .committing }
  dsimp only
  split
  · exact hload.beginCommit c
  · exact hload.withWrites b.running (by
      rw [List.length_append, List.length_singleton]
      show b.writes.length + 1 ≤ 32
      omega)

theorem commitTables (q : Request) : (b.commitTables q).InBounds := by
  have hans : ∀ o d, (b.answer q.cell o d).InBounds := h.answer q.cell
  unfold Blocks.commitTables
  split
  · exact hans _ _
  · exact hans _ _
  · exact hans _ _
  split
  · exact hans _ _
  split
  · exact hans _ _
  split
  · exact hans _ _
  split
  · exact hans _ _
  · exact h.queueCommit _

theorem beginNext : b.beginNext.InBounds := by
  have hw := h.writes
  unfold Blocks.beginNext
  split
  · exact h
  · rename_i v r rest hr
    rw [hr, List.length_cons] at hw
    exact h.withWrites _ (by omega)
  · exact h.beginCommit _

theorem endRecord (v : RecordValue) (q : Bool) : (b.endRecord v q).InBounds := h.of_eq _ rfl

theorem recordWriteEnd {d : Blocks} {q : Bool} (hd : b.recordWriteEnd q = some d) : d.InBounds := by
  unfold Blocks.recordWriteEnd at hd
  split at hd
  · rename_i v r _
    have hend := h.endRecord v q
    dsimp only at hd
    split at hd <;> cases hd
    · exact hend
    · refine beginNext (reportWrite ?_ _ _)
      split
      · exact hend
      · exact hend.storeFault
  · cases hd

theorem commitCompleted (c : Nat) : (b.commitCompleted c).InBounds := by
  unfold Blocks.commitCompleted
  dsimp only
  obtain ⟨hup, hr⟩ := (h.of_eq { b with
    running := none, stored := { valid := true, bytes := b.load.buffer }
    persistent := Persistent.fresh (WorkingCopy.ofBytes b.load.buffer).image, load := LoadRec.empty } rfl).setUp
    (WorkingCopy.ofBytes b.load.buffer)
  exact (hup.enterObserving hr).answer _ _ _

theorem commitWriteEnd {d : Blocks} {q : Bool} (hd : b.commitWriteEnd q = some d) : d.InBounds := by
  unfold Blocks.commitWriteEnd at hd
  split at hd
  · rename_i c _
    split at hd
    · exact Option.some.inj hd ▸ ((h.commitCompleted c).marks _).beginNext
    · exact Option.some.inj hd ▸
        ((commitFailed (h.of_eq { b.spoilStore with running := none } rfl) c).mark _).beginNext
  · cases hd

/-! ### Resets (R182) -/

omit h in
theorem powerOn : Blocks.powerOn.InBounds where
  arms := Nat.zero_le 4
  targets := List.nodup_nil
  alarms := AlarmsInBounds.empty.alarms
  conditions := AlarmsInBounds.empty.conditions
  sequences := AlarmsInBounds.empty.sequences
  counter := AlarmsInBounds.empty.counter
  range := AlarmsInBounds.empty.range
  slots := List.length_replicate
  waiting := Nat.zero_le 16
  once := by rw [heldRoutes_of_replicate rfl]; exact List.nodup_nil
  service _ := heldRoutes_of_replicate rfl
  writes := Nat.zero_le 32
  collected := List.length_replicate

theorem loseWrites : b.loseWrites.InBounds := by
  have hnone := h.withWrites none (ws := []) (Nat.zero_le 32)
  unfold Blocks.loseWrites
  dsimp only
  split
  · exact hnone.of_eq _ rfl
  · exact hnone

theorem cutOff : b.cutOff.InBounds := h.loseWrites.of_eq _ rfl

omit h in
theorem hardBase (b : Blocks) : b.hardBase.InBounds := powerOn.of_eq _ rfl

theorem softBase : b.softBase.InBounds := (hardBase b).withAlarms b.overflow (h.endAllAlarms_inBounds 0)

theorem readStore (hr : b.heldRoutes = []) : b.readStore.InBounds ∧ b.readStore.heldRoutes = [] := by
  unfold Blocks.readStore
  split
  · exact h.setUp _
  · exact ⟨h.of_eq _ rfl, hr⟩

/-- R172: the start-up of blocks that hold no route. -/
theorem startUp (hr : b.heldRoutes = []) : b.startUp.InBounds := by
  unfold Blocks.startUp
  split
  · exact h.enterObserving hr
  · exact (h.setMode _ hr).mark _

/-! ### The end of an event, and how a command acts -/

theorem closeChecks (f : Bool) : (b.closeChecks f).InBounds := by
  unfold Blocks.closeChecks
  split
  · exact h.enterHalted _
  · exact h

theorem finish (s : State) (p : Port) : (s.finish p b).blocks.InBounds := ((h.closeChecks _).enterAlarms).of_eq _ rfl

end Blocks.InBounds

section

variable {s t : State} (hs : s.blocks.InBounds)

include hs

theorem State.event_inBounds {f : Blocks → Option Blocks} (h : s.event f = .next t)
    (hf : ∀ d, f s.blocks = some d → d.InBounds) : t.blocks.InBounds := by
  unfold State.event at h
  split at h
  · cases h
    exact hs
  split at h <;> cases h
  · exact hs
  · rename_i d hd
    exact (hf d hd).settle.finish _ _

theorem State.busEvent_inBounds {x : Bus} {f : Blocks → Option Blocks} (h : s.busEvent x f = .next t)
    (hf : ∀ d, f s.blocks = some d → d.InBounds) : t.blocks.InBounds := by
  unfold State.busEvent at h
  split at h
  · cases h
    exact hs
  split at h <;> cases h
  · exact hs
  · rename_i d hd
    split
    · exact ((hf d hd).startPoll x).finish _ _
    · exact ((hf d hd).settle.startPoll x).finish _ _

theorem State.storeEvent_inBounds {f : Blocks → Option Blocks} (h : s.storeEvent f = .next t)
    (hf : ∀ d, f s.blocks = some d → d.InBounds) : t.blocks.InBounds := by
  unfold State.storeEvent at h
  split at h
  · cases h
    exact hs
  split at h <;> cases h
  · exact hs
  · rename_i d hd
    split
    · exact (hf d hd).finish _ _
    · exact (hf d hd).settle.finish _ _

theorem State.request_inBounds {m : Request → Bool} {f : Blocks → Request → Blocks} (h : s.request m f = .next t)
    (hf : ∀ q, (f s.blocks q).InBounds) : t.blocks.InBounds := by
  unfold State.request at h
  (repeat' split at h) <;> cases h
  · exact hs
  · exact hs
  · exact (hf _).settle.finish _ _
  · exact hs

/-- An EXECUTE of an operation (R155). -/
theorem State.execute_inBounds {op : Blocks → Element → Nat → Blocks} {m : Request → Bool}
    (h : s.request m (fun b q => b.execute q op) = .next t)
    (hop : ∀ (d : Blocks) e c, d.InBounds → (op d e c).InBounds) : t.blocks.InBounds :=
  State.request_inBounds hs h fun q => hs.execute q op hop

/-- A telegram received on a line. -/
theorem State.receiveLine_inBounds {hd : TelegramHead} {n : Byte} {act : Blocks → Nat → Blocks}
    (h : s.event (fun b => b.receiveLine hd n act) = .next t)
    (hact : ∀ (c : Blocks) k, c.InBounds → (act c k).InBounds) : t.blocks.InBounds :=
  State.event_inBounds hs h fun _ e => hs.receiveLine hact e

/-- R187: the head of the intake list examined. -/
theorem State.takeHead_inBounds (c : Nat) (r : List Nat) : (s.takeHead c r).blocks.InBounds := by
  unfold State.takeHead
  dsimp only
  split
  · exact hs.finish _ _
  split
  · exact hs.finish _ _
  unfold State.dispatch
  split
  · exact (hs.answer _ _ _).finish _ _
  split
  · exact hs.finish _ _
  · exact (hs.answer _ _ _).finish _ _

omit hs in
theorem State.hardRestart_inBounds (s : State) : s.hardRestart.blocks.InBounds := by
  obtain ⟨hread, hr⟩ := (Blocks.InBounds.hardBase s.blocks.loseWrites).readStore
    (Blocks.InBounds.heldRoutes_of_replicate rfl)
  exact (hread.startUp hr).settle.finish _ _

theorem State.softRestart_inBounds : s.softRestart.blocks.InBounds := by
  obtain ⟨hread, hr⟩ := hs.loseWrites.softBase.readStore (Blocks.InBounds.heldRoutes_of_replicate rfl)
  have hsettled := (hread.startUp hr).settle
  unfold State.softRestart
  dsimp only
  generalize s.blocks.loseWrites.softBase.readStore.startUp.settle = d at hsettled ⊢
  exact Blocks.InBounds.finish (b := { d with work := { d.work with dirty := allRecords } }) (hsettled.of_eq _ rfl) _ _

end

/-- What the port's own commands leave. -/
theorem State.port_inBounds {s t : State} (hs : s.blocks.InBounds) {p : Port}
    (h : (.next { s with port := p } : Host.Outcome State Fault Refusal) = .next t) : t.blocks.InBounds := by
  cases h
  exact hs

/-! ### The rows of the exchange port and of the supervisor's lines -/

section

variable {s t : State} (hs : s.blocks.InBounds)

include hs

theorem execPost_inBounds {v : Word16} (h : execPost v s = .next t) : t.blocks.InBounds := by
  unfold execPost at h
  (repeat' split at h) <;> cases h
  · exact hs
  · exact hs.finish _ _
  · exact hs

theorem execRestart_inBounds (h : execRestart s = .next t) : t.blocks.InBounds := by
  unfold execRestart at h
  split at h <;> cases h
  · exact hs
  · exact s.softRestart_inBounds hs

theorem execHostMemoryAccess_inBounds {x : HostAccess} (h : execHostMemoryAccess x s = .next t) :
    t.blocks.InBounds := by
  unfold execHostMemoryAccess at h
  (repeat' split at h) <;> cases h <;> exact hs

theorem execKeyLevelChange_inBounds {l : Bool} (h : execKeyLevelChange l s = .next t) : t.blocks.InBounds := by
  unfold execKeyLevelChange at h
  split at h <;> cases h
  · exact hs
  · exact hs.of_eq _ rfl

theorem execTakeCell_inBounds (h : execTakeCell s = .next t) : t.blocks.InBounds := by
  unfold execTakeCell at h
  (repeat' split at h) <;> cases h
  · exact hs
  · exact hs
  · exact s.takeHead_inBounds hs _ _

theorem execResetAsserted_inBounds (h : execResetAsserted s = .next t) : t.blocks.InBounds := by
  unfold execResetAsserted at h
  split at h <;> cases h
  · exact hs
  · exact hs.cutOff

end

theorem exec_inBounds {c : Instr} {s t : State} (hs : s.blocks.InBounds) (h : exec c s = .next t) :
    t.blocks.InBounds := by
  cases c with
  | hardRestart => cases h; exact s.hardRestart_inBounds
  | post v => exact execPost_inBounds hs h
  | noticeRead => exact s.port_inBounds hs h
  | noticeMaskWrite v => exact s.port_inBounds hs h
  | restart => exact execRestart_inBounds hs h
  | clearStray => exact s.port_inBounds hs h
  | registerWriteNoEffect r v => cases h; exact hs
  | hostMemoryAccess x => exact execHostMemoryAccess_inBounds hs h
  | keyLevelChange l => exact execKeyLevelChange_inBounds hs h
  | takeCell => exact execTakeCell_inBounds hs h
  | setRoute => exact State.request_inBounds hs h hs.setRoute
  | cancelRoute => exact State.request_inBounds hs h hs.cancelRoute
  | callPoints => exact State.request_inBounds hs h hs.callPoints
  | applyReminder => exact State.request_inBounds hs h hs.applyReminder
  | removeReminder => exact State.request_inBounds hs h hs.removeReminder
  | applyStandingRestriction => exact State.request_inBounds hs h hs.applyStanding
  | grantPossession => exact State.request_inBounds hs h hs.grantPossession
  | liftPossession => exact State.request_inBounds hs h hs.liftPossession
  | arm => exact State.request_inBounds hs h hs.arm
  | restoreSection => exact State.execute_inBounds hs h fun _ e c hd => hd.restoreSection e c
  | emergencyRelease =>
    exact State.execute_inBounds hs h fun _ e c hd => hd.emergencyRelease e.number c
  | removeStanding => exact State.execute_inBounds hs h fun _ e c hd => hd.removeStanding e c
  | forceLift => exact State.execute_inBounds hs h fun _ e c hd => hd.forceLift e c
  | tokenRestore => exact State.execute_inBounds hs h fun _ e c hd => hd.tokenRestore e c
  | receptionRelease => exact State.execute_inBounds hs h fun _ e c hd => hd.receptionRelease e c
  | acknowledgeAlarm => exact State.request_inBounds hs h hs.acknowledgeAlarm
  | loadSegment => exact State.request_inBounds hs h hs.loadSegment
  | loadReset => exact State.request_inBounds hs h hs.loadReset
  | commitTables => exact State.request_inBounds hs h hs.commitTables
  | leaveService => exact State.request_inBounds hs h hs.leaveService
  | commandTelegramEnd x => exact State.busEvent_inBounds (f := (·.telegramEnd x)) hs h fun _ e => hs.telegramEnd e
  | replyComplete x cs =>
    exact State.busEvent_inBounds (f := (·.replyComplete x cs)) hs h fun _ e => hs.replyComplete e
  | replyTimeout x => exact State.busEvent_inBounds (f := (·.replyTimeout x)) hs h fun _ e => hs.replyTimeout e
  | confirmationTimerExpiry n =>
    exact State.event_inBounds (f := (·.confirmationExpiry n)) hs h fun _ e => hs.confirmationExpiry e
  | moveTimerExpiry n => exact State.event_inBounds (f := (·.moveExpiry n)) hs h fun _ e => hs.moveExpiry e
  | approachTimerExpiry n =>
    exact State.event_inBounds (f := (·.routeTimerExpiry n .approach)) hs h fun _ e => hs.routeTimerExpiry e
  | emergencyTimerExpiry n =>
    exact State.event_inBounds (f := (·.routeTimerExpiry n .emergency)) hs h fun _ e => hs.routeTimerExpiry e
  | entryWaitExpiry n => exact State.event_inBounds (f := (·.entryWaitExpiry n)) hs h fun _ e => hs.entryWaitExpiry e
  | waitingEntryExpiry n =>
    exact State.event_inBounds (f := (·.waitingExpiry n false .expired)) hs h fun _ e => hs.waitingExpiry e
  | tokenWaitEntryExpiry n =>
    exact State.event_inBounds (f := (·.waitingExpiry n true .borderRefused)) hs h fun _ e => hs.waitingExpiry e
  | overlapTimerExpiry n => exact State.event_inBounds (f := (·.overlapExpiry n)) hs h fun _ e => hs.overlapExpiry e
  | lineStateInterval =>
    exact State.event_inBounds (f := Blocks.lineStateInterval) hs h fun _ e => hs.lineStateInterval e
  | linkSilenceTimeout p => exact State.event_inBounds (f := (·.linkSilence p)) hs h fun _ e => hs.linkSilence e
  | tokenWaitExpiry n => exact State.event_inBounds (f := (·.tokenWaitExpiry n)) hs h fun _ e => hs.tokenWaitExpiry e
  | handoverSendTime n =>
    exact State.event_inBounds (f := (·.handoverSendTime n)) hs h fun _ e => hs.handoverSendTime e
  | lineState hd vs => exact State.event_inBounds (f := (·.onLineState hd vs)) hs h fun _ e => hs.onLineState e
  | tokenAsk hd n =>
    exact State.receiveLine_inBounds (act := Blocks.onTokenAsk) hs h fun _ k hc => hc.onTokenAsk k
  | tokenGive hd n =>
    exact State.receiveLine_inBounds (act := Blocks.onTokenGive) hs h fun _ k hc => hc.onTokenGive k
  | tokenDecline hd n =>
    exact State.receiveLine_inBounds (act := Blocks.endTokenAsk) hs h fun _ k hc => hc.endTokenAsk k
  | entryAsk hd n r i =>
    exact State.event_inBounds
      (f := fun b => b.receiveLine hd n fun c k => c.onEntryAsk k r (readIdentity b.freeIndex i)) hs h fun _ e =>
      hs.receiveLine (fun _ k hc => hc.onEntryAsk k r _) e
  | entryGrant hd n r =>
    exact State.receiveLine_inBounds (act := (·.onEntryGrant · r)) hs h fun _ k hc => hc.onEntryGrant k r
  | entryDeny hd n r =>
    exact State.receiveLine_inBounds (act := (·.onEntryDeny · r)) hs h fun _ k hc => hc.onEntryDeny k r
  | entryFree hd n r =>
    exact State.receiveLine_inBounds (act := (·.onEntryFree · r)) hs h fun _ k hc => hc.onEntryFree k r
  | trainPass hd n i =>
    exact State.event_inBounds
      (f := fun b => b.receiveLine hd n fun c k => c.onTrainPass k (readIdentity b.freeIndex i)) hs h fun _ e =>
      hs.receiveLine (fun _ k hc => hc.onTrainPass k _) e
  | trainTaken hd n =>
    exact State.receiveLine_inBounds (act := Blocks.onTrainTaken) hs h fun _ k hc => hc.updLine k _
  | invalidBorderTelegram p cs =>
    exact State.event_inBounds (f := (·.onInvalidTelegram p cs)) hs h fun _ e => hs.onInvalidTelegram e
  | armEntryExpiry => exact State.event_inBounds (f := Blocks.armExpiry) hs h fun _ e => hs.armExpiry e
  | recordWriteEnd q => exact State.storeEvent_inBounds (f := (·.recordWriteEnd q)) hs h fun _ e => hs.recordWriteEnd e
  | commitWriteEnd q => exact State.event_inBounds (f := (·.commitWriteEnd q)) hs h fun _ e => hs.commitWriteEnd e
  | selfCheck c => exact State.event_inBounds (f := (·.selfCheck c)) hs h fun _ e => hs.selfCheck e
  | timeLockExpiry => exact State.event_inBounds (f := Blocks.timeLockExpiry) hs h fun _ e => hs.timeLockExpiry e
  | resetAsserted => exact execResetAsserted_inBounds hs h

/-- Settles O5: each operation of a block keeps the bounds of its lists (`Blocks.InBounds`), and with them the
follow-ups of an event, its end and the restarts; a millisecond of the clock touches no list. -/
theorem stepsKeepTheListsInBounds : Obligations.StepsKeepTheListsInBounds := by
  unfold Obligations.StepsKeepTheListsInBounds
  refine ⟨Blocks.InBounds.powerOn, fun s t hs h => ?_⟩
  unfold step at h
  split at h
  · cases h
    unfold State.tick
    split
    · exact hs
    · exact hs.of_eq _ rfl
  · rename_i c rest _
    exact exec_inBounds (s := { s with pending := rest }) hs h

end Sys2Proof.Machine
end

section

namespace Sys2Proof.Machine

/-! PROOF. The arm list and the time lock expire (R153, R181). -/

/-- R153: the oldest arm entry decides whether there is an expiry. -/
theorem Blocks.armExpiry_cons {b : Blocks} {a : ArmRec} {rest : List ArmRec} (h : b.arms = a :: rest) : b.armExpiry =
    if 30000 ≤ Clock.age b.clock a.armTime then some { b with arms := rest } else none := by
  unfold Blocks.armExpiry
  rw [h]

/-- An event that is not enabled. -/
theorem State.event_none {s : State} {f : Blocks → Option Blocks} (h : s.asleep = false) (hf : f s.blocks = none) :
    s.event f = .next s := by
  unfold State.event
  rw [h, hf]
  rfl

/-- R172: awake in SERVICE the SAFE line is high. -/
theorem State.ended_safe {s : State} {b : Blocks} (h : s.asleep = false) (hm : (s.ended b).blocks.mode = .service) :
    (s.ended b).safe = true := by
  have hheld : (s.ended b).held = false := (State.finish_held ..).trans (State.asleep_false h).1
  unfold State.safe
  rw [hheld, hm]
  rfl

/-- Settles O56: the two timers as events without answers and alarms. -/
theorem armAndTimeLockExpire : Obligations.ArmAndTimeLockExpire := by
  unfold Obligations.ArmAndTimeLockExpire
  intro s hawake hset
  have hwork : s.blocks.work = Work.empty := eq_of_beq hset
  refine ⟨fun a rest harms hage => ?_, fun a rest harms hage => ?_, fun hstage hdue => ?_⟩
  · rw [show exec .armEntryExpiry s = .next (s.ended { s.blocks with arms := rest }) from
      State.event_next s _ _ hawake ((Blocks.armExpiry_cons harms).trans (if_pos hage))]
    exact State.ended_silent s _ rfl (congrArg Work.answers hwork) (congrArg Work.alarms hwork)
  · exact State.event_none hawake ((Blocks.armExpiry_cons harms).trans (if_neg (Nat.not_le.mpr hage)))
  · rw [show exec .timeLockExpiry s = .next (s.ended s.blocks.enterService) from
      State.event_next s Blocks.timeLockExpiry _ hawake (if_pos ⟨hstage, hdue⟩)]
    have hafter := State.ended_silent s s.blocks.enterService rfl (congrArg Work.answers hwork)
      (congrArg Work.alarms hwork)
    exact ⟨hafter.mode, fun hm => ⟨(hafter.steady hm).1, State.ended_safe hawake hm⟩, rfl⟩

end Sys2Proof.Machine
end

section

namespace Sys2Proof.Machine

/-! PROOF. The timers of a Route Set entry (R83, R85, R101, R57). -/

/-- R85, R86: the timer of an entry decides which expiry it is and whether it is due. -/
theorem Blocks.routeTimerExpiry_rec {b : Blocks} {slot : Nat} {r : RouteRec} {m : RouteTimer}
    (hr : b.routeRec slot = some r) (hm : r.timer = some m) (k : TimerKind) : b.routeTimerExpiry slot k =
      if m.kind = k ∧ Clock.reached b.clock m.expiry then some (b.wholeRelease slot) else none := by
  unfold Blocks.routeTimerExpiry
  rw [hr, Option.bind_some, hm]

theorem Blocks.overlapClear_iff {b : Blocks} {n : Nat} {o : OverlapEntry} (ho : b.overlapEntry n = some o) :
    b.overlapClear n = true ↔ ∀ n ∈ o.sections, b.occupancy n = some .clear := by
  unfold Blocks.overlapClear
  rw [ho]
  simp only [List.all_eq_true, Blocks.isClear, beq_iff_eq]

section

variable {b : Blocks} {slot : Nat} {r : RouteRec} {p : OverlapPart} (hr : b.routeRec slot = some r)
  (hp : r.overlap = some p)

include hr hp

/-- R101: an overlap in TIMING whose expiry is reached. -/
theorem Blocks.overlapExpiry_due (ht : p.state = .timing) (hd : Clock.due b.clock p.expiry = true) :
    b.overlapExpiry slot = some (b.overlapTimeout slot) := by
  unfold Blocks.overlapExpiry
  rw [hr, Option.bind_some, hp]
  exact if_pos ⟨ht, hd⟩

/-- R101: what the expiry makes of the overlap, by its sections. -/
theorem Blocks.overlapTimeout_cases {o : OverlapEntry} (ho : b.overlapEntry p.number = some o) :
    ((∀ n ∈ o.sections, b.occupancy n = some .clear) → b.overlapTimeout slot =
      (b.release (.slot slot) (o.holds slot)).updRoute slot (fun r => { r with overlap := none })) ∧
    ((∃ n ∈ o.sections, b.occupancy n ≠ some .clear) → b.overlapTimeout slot =
      b.updRoute slot (fun r => { r with overlap := some { p with state := .expired, expiry := none } })) := by
  have hclear := Blocks.overlapClear_iff ho
  unfold Blocks.overlapTimeout
  rw [hr, Option.bind_some, hp]
  refine ⟨fun h => ?_, fun ⟨n, hn, hocc⟩ => if_neg fun h => hocc (hclear.mp h n hn)⟩
  refine (if_pos (hclear.mpr h)).trans ?_
  unfold Blocks.releaseOverlap Blocks.overlapHolds
  rw [hr, Option.bind_some, hp]
  dsimp only
  rw [ho]

end

theorem RouteState.awaitsGrant_iff (x : RouteState) :
    x.awaitsGrant = true ↔ x = .setting ∨ x = .stalled ∨ x = .locked := by
  cases x <;> decide

/-- R57: the entry wait of an entry with its grant ASKED. -/
theorem Blocks.entryWaitExpiry_due {b : Blocks} {slot : Nat} {r : RouteRec} {p : BorderPart}
    (hr : b.routeRec slot = some r) (hp : r.border = some p) (hg : p.grant = .asked)
    (hs : r.state = .setting ∨ r.state = .stalled ∨ r.state = .locked) (hd : Clock.due b.clock p.expiry = true) :
    b.entryWaitExpiry slot = some ((b.tearDown slot).freeEntry p.line (BitVec.ofNat 16 r.route)) := by
  unfold Blocks.entryWaitExpiry
  rw [hr]
  dsimp only
  rw [hp]
  exact if_pos ⟨hg, (RouteState.awaitsGrant_iff _).mpr hs, hd⟩

/-- Settles O47: each timer as an event, enabled by its kind and its expiry. -/
theorem routeTimersExpire : Obligations.RouteTimersExpire := by
  unfold Obligations.RouteTimersExpire
  intro slot r s hawake hr
  refine ⟨fun m hm => ?_, fun p o hp ht hd ho => ?_, fun p hp hg hs hd => ?_⟩
  · have hrec := Blocks.routeTimerExpiry_rec hr hm
    have hdue : ∀ k, m.kind = k → Clock.reached s.blocks.clock m.expiry = true →
        s.event (fun b => b.routeTimerExpiry slot k) = .next (s.ended (s.blocks.wholeRelease slot)) := fun k hk ht =>
      State.event_next s _ _ hawake ((hrec k).trans (if_pos ⟨hk, ht⟩))
    have hidle : ∀ k, m.kind ≠ k ∨ Clock.reached s.blocks.clock m.expiry = false →
        s.event (fun b => b.routeTimerExpiry slot k) = .next s := fun k h =>
      State.event_none hawake ((hrec k).trans (if_neg fun ⟨hk, ht⟩ => by simp [hk, ht] at h))
    refine ⟨hdue .approach, hdue .emergency, fun h => hidle .approach (h.imp_left ?_),
      fun h => hidle .emergency (h.imp_left ?_)⟩
    · intro hk
      rw [hk]
      decide
    · intro hk
      rw [hk]
      decide
  · obtain ⟨hclear, helse⟩ := Blocks.overlapTimeout_cases hr hp ho
    have hexec : exec (.overlapTimerExpiry slot) s = .next (s.ended (s.blocks.overlapTimeout slot)) :=
      State.event_next s (·.overlapExpiry slot) _ hawake (Blocks.overlapExpiry_due hr hp ht hd)
    exact ⟨fun h => by rw [hexec, hclear h], fun h => by rw [hexec, helse h]⟩
  · exact State.event_next s (·.entryWaitExpiry slot) _ hawake (Blocks.entryWaitExpiry_due hr hp hg hs hd)

end Sys2Proof.Machine
end

section

namespace Sys2Proof.Machine

/-! PROOF. CALL POINTS (R68, R69): the first check that applies. -/

section

variable {b : Blocks} {q : Request}

theorem Blocks.callPoints_noPoint (he : b.pointEntry (q.field 28 1) = none) :
    b.callPoints q = b.answer q.cell .badParameter (.parameter 28) := by
  unfold Blocks.callPoints
  simp only [he]

variable {n : Nat} {e : PointEntry} {p : PointRec} (hn : n = q.field 28 1) (he : b.pointEntry n = some e)
  (hp : b.pointRec n = some p)

include hn he hp

theorem Blocks.callPoints_noPosition (hpos : Position.ofCode (q.field 29 1) = none) :
    b.callPoints q = b.answer q.cell .badParameter (.parameter 29) := by
  subst hn
  unfold Blocks.callPoints
  simp only [he, hp, hpos]

/-- R68: the checks in their order, for a point of the image and a position. -/
theorem Blocks.callPoints_eq {pos : Position} (hpos : Position.ofCode (q.field 29 1) = some pos) : b.callPoints q =
    if 0 < p.pathCount + p.overlapCount + p.flankCount then b.answer q.cell .claimed .none
    else if (p.reminder || p.standing) = true then b.answer q.cell .restricted (.element (.point n) .restricted 0)
    else if p.possessed = true then b.answer q.cell .possessed (.element (.point n) .possessed 0)
    else if p.state = .atRest ∧ p.ref = some pos then b.answer q.cell .done .none
    else if b.occupancy e.sec ≠ some .clear then b.answer q.cell .occupied .none
    else (((b.overtakeCall n).updPoint n (fun p => { p with pendingCall := some q.cell })).drive n pos).1 := by
  have hclaimed : (p.pathCount > 0 ∨ p.overlapCount > 0 ∨ p.flankCount > 0) ↔
      0 < p.pathCount + p.overlapCount + p.flankCount := by omega
  have hclear : (!b.isClear e.sec) = true ↔ b.occupancy e.sec ≠ some .clear := by simp [Blocks.isClear]
  subst hn
  unfold Blocks.callPoints
  simp only [he, hp, hpos, hclaimed, hclear]
  rfl

end

/-- Settles O37: the checks in turn (`Blocks.callPoints_eq`), each answered in its event. -/
theorem callPointsByTheFirstCheck : Obligations.CallPointsByTheFirstCheck := by
  unfold Obligations.CallPointsByTheFirstCheck
  intro q s n h hn
  have hexec : exec .callPoints s = .next (s.served (s.blocks.callPoints q)) :=
    State.serving_next s .callPoints Blocks.callPoints q h
  have hanswer : ∀ {o d}, s.blocks.callPoints q = s.blocks.answer q.cell o d →
      goesOn (exec .callPoints s) (fun t => t.answered q.cell o d ∧ s.blocks.After t.blocks) := fun e =>
    (State.serves_answer h (e ▸ hexec)).2
  refine ⟨fun he => hanswer (Blocks.callPoints_noPoint (hn ▸ he)), fun e p he hp => ?_⟩
  refine ⟨fun hpos => hanswer (Blocks.callPoints_noPosition hn he hp hpos), fun pos hpos => ?_⟩
  have heq := Blocks.callPoints_eq hn he hp hpos
  refine ⟨fun hclaim => hanswer (heq.trans (if_pos hclaim)), fun hfree => ?_⟩
  rw [if_neg (by omega)] at heq
  refine ⟨fun hmark => hanswer (heq.trans (if_pos hmark)), fun hmark => ?_⟩
  rw [if_neg (Bool.not_eq_true _ ▸ hmark)] at heq
  refine ⟨fun hposs => hanswer (heq.trans (if_pos hposs)), fun hposs => ?_⟩
  rw [if_neg (Bool.not_eq_true _ ▸ hposs)] at heq
  refine ⟨fun hrest href => hanswer (heq.trans (if_pos ⟨hrest, href⟩)), fun hrest => ?_⟩
  rw [if_neg hrest] at heq
  refine ⟨fun hocc => hanswer (heq.trans (if_pos hocc)), fun hclear => ?_⟩
  rw [hexec, heq, if_neg (not_not.mpr hclear)]

end Sys2Proof.Machine
end

section

namespace Sys2Proof.Machine

/-! PROOF. The telegrams on a line that ask for an entry, grant, deny and free it, and hand a train over (R135, R138,
R140 to R142). -/

/-- R125, R199: what the actions on a telegram read is as before it was noted. -/
theorem Blocks.noted_reads (b : Blocks) (port : Nat) (seq : Byte) (n : Nat) :
    ((b.breakOff port).noteSequence port seq).mode = b.mode ∧
    ((b.breakOff port).noteSequence port seq).lineEntry n = b.lineEntry n ∧
    ((b.breakOff port).noteSequence port seq).lineRec n = b.lineRec n ∧
    ((b.breakOff port).noteSequence port seq).isPassed = b.isPassed ∧
    ((b.breakOff port).noteSequence port seq).matchingGrant n = b.matchingGrant n := by
  obtain ⟨_, _, _, _, e⟩ := b.noted_frame port seq
  rw [e]
  exact ⟨rfl, rfl, rfl, rfl, rfl⟩

theorem Blocks.sendLine_lineRec (b : Blocks) (n : Nat) (t : Telegram) (m : Nat) :
    (b.sendLine n t).lineRec m = b.lineRec m ∧ (b.sendLine n t).lineEntry m = b.lineEntry m := by
  obtain ⟨_, _, _, e⟩ := b.sendBorder_frame (portOf n) t
  unfold Blocks.sendLine
  rw [e]
  exact ⟨rfl, rfl⟩

/-! ### ENTRY GRANT and ENTRY DENY, by the grant of the line's entry (R135) -/

section

variable {b : Blocks} {n : Nat} {ref : Word16}

theorem Blocks.onEntry_unmatched (h : b.matchingGrant n ref = none) :
    b.onEntryGrant n ref = b.sendLine n (.entryFree n ref) ∧ b.onEntryDeny n ref = b := by
  unfold Blocks.onEntryGrant Blocks.onEntryDeny
  simp only [h, and_self]

variable {slot : Nat} {r : RouteRec} {p : BorderPart} (h : b.matchingGrant n ref = some (slot, r, p))

include h

theorem Blocks.onEntryGrant_cases :
    (p.grant = .asked → b.onEntryGrant n ref = (b.forgetEntryAsk n).updRoute slot (fun r =>
      { r with border := some { p with grant := .granted, expiry := none } })) ∧
    (p.grant = .none → b.onEntryGrant n ref = b.sendLine n (.entryFree n ref)) ∧
    (p.grant = .granted ∨ p.grant = .lost → b.onEntryGrant n ref = b) := by
  unfold Blocks.onEntryGrant
  rw [h]
  dsimp only
  refine ⟨fun hg => ?_, fun hg => ?_, ?_⟩
  · rw [hg]
  · rw [hg]
  · rintro (hg | hg) <;> rw [hg]

theorem Blocks.onEntryDeny_cases :
    (p.grant = .asked → r.state.awaitsGrant = true → b.onEntryDeny n ref = (b.forgetEntryAsk n).tearDown slot) ∧
    (p.grant = .asked → r.state.awaitsGrant ≠ true → b.onEntryDeny n ref = b.forgetEntryAsk n) ∧
    (p.grant ≠ .asked → b.onEntryDeny n ref = b) := by
  unfold Blocks.onEntryDeny
  rw [h]
  dsimp only
  refine ⟨fun hg hs => ?_, fun hg hs => ?_, fun hg => if_neg hg⟩
  · rw [if_pos hg, if_pos hs]
  · rw [if_pos hg, if_neg hs]

end

/-! ### ENTRY ASK, ENTRY FREE and TRAIN PASS, by the reception (R138, R140, R142) -/

section

variable {b : Blocks} {n : Nat} {k : LineEntry} {l : LineRec} (hk : b.lineEntry n = some k) (hl : b.lineRec n = some l)

include hk hl

/-- R138: the mode, the line's mode and the token right, in this order. -/
theorem Blocks.onEntryAsk_denied (ref : Word16) (i : Option Identity)
    (h : b.mode ≠ .service ∨ k.mode = .outbound ∨ (k.mode = .bidirectional ∧
      (l.token ≠ some .notHeld ∨ l.givePending = true ∨ l.disagreement = true))) :
    b.onEntryAsk n ref i = b.sendLine n (.entryDeny n ref) := by
  unfold Blocks.onEntryAsk
  rw [hk, hl]
  dsimp only
  by_cases hm : b.mode ≠ .service
  · exact if_pos hm
  rw [if_neg hm]
  by_cases ho : k.mode = .outbound
  · exact if_pos ho
  rw [if_neg ho]
  exact if_pos ((h.resolve_left hm).resolve_left ho)

section

variable (hm : b.mode = .service) (ho : k.mode ≠ .outbound) (ht : k.mode = .bidirectional →
  l.token = some .notHeld ∧ l.givePending = false ∧ l.disagreement = false)

include hm ho ht

/-- R138: an ask that is not denied at once, while the line has a reception. -/
theorem Blocks.onEntryAsk_received (ref : Word16) (i : Option Identity) {r : Reception} (hr : l.reception = some r) :
    b.onEntryAsk n ref i = if r.reference ≠ ref then b.sendLine n (.entryDeny n ref)
      else if r.grantSent then b.sendLine n (.entryGrant n ref) else b := by
  unfold Blocks.onEntryAsk
  rw [hk, hl]
  dsimp only
  rw [if_neg (not_not.mpr hm), if_neg ho, if_neg (by rintro ⟨hb, h⟩; simp [ht hb] at h), hr, ite_not]

/-- R138: an ask that is not denied at once, while the line has none: the claim set as one claim. -/
theorem Blocks.onEntryAsk_claims (ref : Word16) (i : Option Identity) (hr : l.reception = none) :
    (∀ x, b.claim (.line n) (receptionClaim k n i) = .error x →
      b.onEntryAsk n ref i = b.sendLine n (.entryDeny n ref)) ∧
    ∀ c, b.claim (.line n) (receptionClaim k n i) = .ok c → b.onEntryAsk n ref i = c.updLine n (fun l => { l with
      reception := some { reference := ref, identity := i, released := 0, grantSent := false }
      outgoingNone := 0 }) := by
  unfold Blocks.onEntryAsk
  rw [hk, hl]
  dsimp only
  rw [if_neg (not_not.mpr hm), if_neg ho, if_neg (by rintro ⟨hb, h⟩; simp [ht hb] at h), hr]
  refine ⟨fun x hx => ?_, fun c hc => ?_⟩
  · simp only [hx]
  · simp only [hc]

end

theorem Blocks.releaseReception_eq {r : Reception} (hr : l.reception = some r) : b.releaseReception n =
    (b.release (.line n) (b.receptionHolds k n r.released)).endReception n := by
  unfold Blocks.releaseReception
  rw [hk, hl, Option.bind_some, hr]

/-- R140: a reception given up before it is entered. -/
theorem Blocks.onEntryFree_entered {ref : Word16} {r : Reception} (hr : l.reception = some r) : b.onEntryFree n ref =
    if r.reference = ref ∧ r.released = 0 ∧ ∀ m ∈ k.recSections, b.isPassed m = false then
      (b.release (.line n) (b.receptionHolds k n r.released)).endReception n
    else b := by
  have hunmarked : b.receptionUnmarked k = true ↔ ∀ m ∈ k.recSections, b.isPassed m = false := by
    simp [Blocks.receptionUnmarked]
  rw [← Blocks.releaseReception_eq hk hl hr]
  unfold Blocks.onEntryFree
  rw [hk, hl, Option.bind_some, hr]
  simp only [hunmarked]

theorem Blocks.onEntryFree_none {ref : Word16} (hr : l.reception = none) : b.onEntryFree n ref = b := by
  unfold Blocks.onEntryFree
  rw [hk, hl, Option.bind_some, hr]

/-- R142: TRAIN PASS is answered, and its identity goes to the reception and to its first section. -/
theorem Blocks.onTrainPass_cases (i : Option Identity) :
    (l.reception = none → b.onTrainPass n i = b.sendLine n (.trainTaken n)) ∧
    ∀ r, l.reception = some r → ∀ c, c = (b.sendLine n (.trainTaken n)).updLine n (fun l =>
        { l with reception := some { r with identity := i } }) →
      (∀ j m, i = some j → k.recSections.head? = some m →
        b.onTrainPass n i = c.writeIdentity m (.reception n) j) ∧
      (i = none ∨ k.recSections.head? = none → b.onTrainPass n i = c) := by
  obtain ⟨hrec, hentry⟩ := b.sendLine_lineRec n (.trainTaken n) n
  unfold Blocks.onTrainPass
  dsimp only
  rw [hentry, hk, hrec, hl, Option.bind_some]
  refine ⟨fun hr => ?_, fun r hr c hc => ?_⟩
  · rw [hr]
  rw [hr]
  dsimp only
  rw [← hc]
  refine ⟨fun j m hi hm => ?_, ?_⟩
  · rw [hi, hm]
  · rintro (hi | hm)
    · rw [hi]
    · rw [hm]
      cases i with
      | none => rfl
      | some j => rfl

end

/-- Settles O52: each telegram as an event on the noted blocks, by the lemma on its action. -/
theorem entryAndTrainTelegrams : Obligations.EntryAndTrainTelegrams := by
  unfold Obligations.EntryAndTrainTelegrams
  intro h line ref f identity k l s n b hh hn hb hid
  have hread : identity = readIdentity s.blocks.freeIndex f := by cases f <;> exact hid
  have hevent := fun act => State.hears_event hh act
  obtain ⟨-, -, -, -, hk, hl⟩ := hh
  obtain ⟨hmode, hentry, hrec, hpassed, hgrant⟩ := s.blocks.noted_reads h.port h.seq n
  rw [← hn] at hevent hk hl
  rw [← hb] at hevent hmode hentry hrec hpassed hgrant
  rw [hk] at hentry
  rw [hl] at hrec
  have hask : exec (.entryAsk h line ref f) s = .next (s.ended (b.onEntryAsk n ref identity)) :=
    hread ▸ hevent fun b n => b.onEntryAsk n ref (readIdentity s.blocks.freeIndex f)
  have hgives : exec (.entryGrant h line ref) s = .next (s.ended (b.onEntryGrant n ref)) :=
    hevent fun b n => b.onEntryGrant n ref
  have hdenies : exec (.entryDeny h line ref) s = .next (s.ended (b.onEntryDeny n ref)) :=
    hevent fun b n => b.onEntryDeny n ref
  have hfrees : exec (.entryFree h line ref) s = .next (s.ended (b.onEntryFree n ref)) :=
    hevent fun b n => b.onEntryFree n ref
  have hpass : exec (.trainPass h line f) s = .next (s.ended (b.onTrainPass n identity)) :=
    hread ▸ hevent fun b n => b.onTrainPass n (readIdentity s.blocks.freeIndex f)
  rw [← hmode, ← hgrant, ← hpassed, hask, hgives, hdenies, hfrees, hpass]
  refine ⟨fun hdeny => ?_, fun hm ho ht => ⟨fun r hr => ?_, fun hr => ?_⟩, fun hg => ?_, fun slot r p hg => ?_,
    fun r hr href hrel hmarks => ?_, fun hnot => ?_, fun hr => ?_, fun r hr => ?_, hevent Blocks.onTrainTaken⟩
  · rw [Blocks.onEntryAsk_denied hentry hrec ref identity hdeny]
  · rw [Blocks.onEntryAsk_received hentry hrec hm ho ht ref identity hr]
  · obtain ⟨herror, hok⟩ := Blocks.onEntryAsk_claims hentry hrec hm ho ht ref identity hr
    exact ⟨fun x hx => by rw [herror x hx], fun c hc => by rw [hok c hc]⟩
  · obtain ⟨hfree, hnone⟩ := Blocks.onEntry_unmatched hg
    rw [hfree, hnone]
    exact ⟨rfl, rfl⟩
  · obtain ⟨hasked, hnone, hother⟩ := Blocks.onEntryGrant_cases hg
    obtain ⟨htear, hforget, hidle⟩ := Blocks.onEntryDeny_cases hg
    have hawaits := r.state.awaitsGrant_iff
    refine ⟨fun ha => ⟨by rw [hasked ha]; rfl, fun hs => by rw [htear ha (hawaits.mpr hs)]; rfl, fun h1 h2 h3 => ?_⟩,
      fun hp => by rw [hnone hp], fun hp => by rw [hother hp], fun hp => by rw [hidle hp]⟩
    rw [hforget ha fun hs => ?_]
    · rfl
    · rcases hawaits.mp hs with hs | hs | hs
      · exact h1 hs
      · exact h2 hs
      · exact h3 hs
  · rw [Blocks.onEntryFree_entered hentry hrec hr, if_pos ⟨href, hrel, hmarks⟩, hrel]
  · cases hr : l.reception with
    | none => rw [Blocks.onEntryFree_none hentry hrec hr]
    | some r =>
      rw [Blocks.onEntryFree_entered hentry hrec hr, if_neg]
      rintro ⟨href, hrel, hmarks⟩
      rcases hnot r hr with h | h | ⟨m, hm, h⟩
      · exact h href
      · exact h hrel
      · rw [hmarks m hm] at h
        cases h
  · rw [(Blocks.onTrainPass_cases hentry hrec identity).1 hr]
  · obtain ⟨hwrite, hkeep⟩ := (Blocks.onTrainPass_cases hentry hrec identity).2 r hr _ rfl
    refine congrArg (fun d => Host.Outcome.next (s.ended d)) ?_
    cases identity with
    | none => exact hkeep (.inl rfl)
    | some i =>
      cases hm : k.recSections.head? with
      | none => exact hkeep (.inr hm)
      | some m => exact hwrite i m rfl hm

end Sys2Proof.Machine
end

section

namespace Sys2Proof.Machine

/-! PROOF. The timers of the border unit, and what a line loses with its link (R126, R127, R131, R134, R136, R141). -/

/-! ### The LINE STATE interval (R127) -/

/-- R127: what telegrams sent on some ports can touch. -/
theorem Blocks.sendBorder_foldl_frame (t : Blocks → Nat → Telegram) (ps : List Nat) : ∀ b : Blocks, ∃ ls d x,
    ps.foldl (fun b p => b.sendBorder p (t b p)) b =
      { b with links := ls, work := { b.work with dirty := d, sent := x } } := by
  induction ps with
  | nil => exact fun b => ⟨_, _, _, rfl⟩
  | cons p ps ih =>
    intro b
    obtain ⟨ls, d, x, e⟩ := b.sendBorder_frame p (t b p)
    obtain ⟨ls', d', x', e'⟩ := ih (b.sendBorder p (t b p))
    rw [List.foldl_cons, e', e]
    exact ⟨ls', d', x', rfl⟩

theorem Blocks.lineStateInterval_due {b : Blocks} {d : Clock} (hd : b.lineStateDue = some d)
    (ht : Clock.reached b.clock d = true) : b.lineStateInterval = some ((List.range 4).foldl
      (fun b p => b.sendBorder p (.lineState ((portLines p).map b.lineView)))
      { b with lineStateDue := some (Clock.after d 500) }) := by
  unfold Blocks.lineStateInterval
  rw [hd]
  exact if_pos ht

/-! ### The silence of a link (R126) -/

/-- R126: a link after its silence. -/
def LinkRec.silent (l : LinkRec) : LinkRec := { l with state := .down, valid := 0, expected := none }

theorem Blocks.linkSilence_eq {b : Blocks} {port : Nat} {l : LinkRec} {v : Clock} (hl : b.linkRec port = some l)
    (hv : l.lastValid = some v) (ht : Clock.reached b.clock (Clock.after v 2000) = true) :
    (l.state = .starting → b.linkSilence port = some (b.updLink port LinkRec.silent)) ∧
    (l.state = .up → b.linkSilence port = some ((portLines port).foldl (fun b n => b.lineDown n (Clock.after v 2000))
      ((b.updLink port LinkRec.silent).raiseAlarm .borderLinkDown (.port port) (Clock.after v 2000)))) ∧
    (l.state = .down → b.linkSilence port = none) := by
  unfold Blocks.linkSilence
  rw [hl]
  dsimp only
  rw [hv]
  dsimp only
  refine ⟨fun hs => ?_, fun hs => ?_, fun hs => ?_⟩
  · rw [if_pos ⟨by rw [hs]; decide, ht⟩, if_neg (by rw [hs]; decide)]
    rfl
  · rw [if_pos ⟨by rw [hs]; decide, ht⟩, if_pos hs]
    rfl
  · exact if_neg fun h => h.1 hs

/-- A change of a link record: the record replaced, and its mirror. -/
theorem Blocks.updLink_eq {b : Blocks} {port : Nat} {l : LinkRec} (hl : b.linkRec port = some l)
    (f : LinkRec → LinkRec) : ∃ d,
    b.updLink port f = { b.withLink port (f l) with work := { b.work with dirty := d } } := by
  unfold Blocks.updLink
  rw [hl]
  dsimp only
  split <;> exact ⟨_, rfl⟩

/-! ### The token wait and the handover (R131, R141) -/

theorem Blocks.endTokenAsk_eq {b : Blocks} {n : Nat} {l : LineRec} (hl : b.lineRec n = some l) : b.endTokenAsk n =
    if l.tokenAsk.isSome then (b.updLine n (fun l => { l with tokenAsk := none })).refuseTokenWaits n else b := by
  unfold Blocks.endTokenAsk
  rw [hl, Option.any_some]

theorem Blocks.tokenWaitExpiry_due {b : Blocks} {n : Nat} {l : LineRec} (hl : b.lineRec n = some l)
    (hd : Clock.due b.clock l.tokenAsk = true) : b.tokenWaitExpiry n =
      some ((b.updLine n (fun l => { l with tokenAsk := none })).refuseTokenWaits n) := by
  have hask : l.tokenAsk.isSome = true := by
    cases h : l.tokenAsk with
    | none =>
      rw [h] at hd
      cases hd
    | some t => rfl
  unfold Blocks.tokenWaitExpiry
  rw [hl]
  dsimp only
  rw [if_pos hd, Blocks.endTokenAsk_eq hl, if_pos hask]

theorem Blocks.handoverSendTime_due {b : Blocks} {n : Nat} {l : LineRec} {h : Handover} (hl : b.lineRec n = some l)
    (hh : l.handover = some h) (ht : Clock.reached b.clock h.next = true) : b.handoverSendTime n =
      some (if h.sends < 3 then (b.sendLine n (.trainPass n h.identity)).updLine n (fun l =>
          { l with handover := some { h with sends := h.sends + 1, next := Clock.after h.next 1000 } })
        else (b.raiseAlarm .handoverUnconfirmed (.line n) h.next).updLine n (fun l =>
          { l with handover := none })) := by
  unfold Blocks.handoverSendTime
  rw [hl, Option.bind_some, hh]
  dsimp only
  rw [if_pos ht]
  split <;> rfl

/-- A raise and a change of a line record do not see each other. -/
theorem Blocks.raiseAlarm_updLine (b : Blocks) (k : AlarmKind) (e : Element) (t : Clock) (n : Nat)
    (f : LineRec → LineRec) : ∃ d, (b.raiseAlarm k e t).updLine n f =
      { b.updLine n f with work := { b.work with dirty := d, alarms := b.work.alarms ++ [.raised k e t] } } ∧
      (b.updLine n f).work = { b.work with dirty := d } := by
  unfold Blocks.updLine
  rw [show (b.raiseAlarm k e t).lineRec n = b.lineRec n from rfl]
  split
  · exact ⟨_, rfl, rfl⟩
  · dsimp only
    split <;> exact ⟨_, rfl, rfl⟩

/-! ### A line whose link is lost (R134, R136, R140) -/

theorem Blocks.routeRec_of_outgoingSlot {b : Blocks} {n slot : Nat} (h : b.outgoingSlot n = some slot) :
    ∃ r p, b.routeRec slot = some r ∧ r.border = some p := by
  have hfound := List.find?_some (p := fun slot => (b.routeRec slot).any _) h
  obtain ⟨r, hr, hany⟩ := (Option.any_eq_true ..).mp hfound
  obtain ⟨p, hp, -⟩ := (Option.any_eq_true ..).mp hany
  exact ⟨r, p, hr, hp⟩

/-- A change of an entry goes by what it makes of the entry. -/
theorem Blocks.updRoute_congr {b : Blocks} {slot : Nat} {r : RouteRec} {f g : RouteRec → RouteRec}
    (hr : b.routeRec slot = some r) (h : f r = g r) : b.updRoute slot f = b.updRoute slot g := by
  unfold Blocks.updRoute
  rw [hr]
  dsimp only
  rw [h]

/-- R136: the line's entry, by its grant. -/
theorem Blocks.loseGrant_cases {c : Blocks} {n : Nat} :
    (c.outgoingSlot n = none → c.loseGrant n = c) ∧
    ∀ slot r p, c.outgoingSlot n = some slot → c.routeRec slot = some r → r.border = some p →
      (p.grant = .none ∨ p.grant = .lost → c.loseGrant n = c) ∧
      (p.grant = .asked → c.loseGrant n = (c.forgetEntryAsk n).tearDown slot) ∧
      (p.grant = .granted → c.loseGrant n = if r.state = .passing then c
        else c.updRoute slot (fun r => { r with border := some { p with grant := .lost } })) := by
  unfold Blocks.loseGrant
  refine ⟨fun h => ?_, fun slot r p h hr hp => ?_⟩
  · rw [h]
  rw [h]
  dsimp only
  rw [hr]
  dsimp only
  rw [hp, Option.map_some]
  refine ⟨?_, fun hg => ?_, fun hg => ?_⟩
  · rintro (hg | hg) <;> rw [hg]
  · rw [hg]
  · rw [hg]
    dsimp only
    rw [Blocks.updRoute_congr hr (g := fun r => { r with border := some { p with grant := .lost } })]
    rw [hp, Option.map_some]

/-- R134, R136, R140: a line whose link is lost, by the grant of its entry. -/
theorem Blocks.lineDown_cases {b c d : Blocks} {n : Nat} {l : LineRec} (t : Clock) (hl : b.lineRec n = some l)
    (hc : c = if l.tokenAsk.isSome then (b.updLine n (fun l => { l with tokenAsk := none })).refuseTokenWaits n else b)
    (hd : d = c.loseGrant n) : b.lineDown n t =
      if l.token = some .blocked then d.updLine n (fun l => { l with disagreement := false, outgoingNone := 0 })
      else (d.updLine n (fun l => { l with disagreement := false, outgoingNone := 0 })).endAlarm .tokenDisagreement
        (.line n) t := by
  unfold Blocks.lineDown
  rw [hl]
  dsimp only
  rw [Blocks.endTokenAsk_eq hl, ← hc, ← hd]

/-! ### What a lost link leaves of the links -/

/-- What the giving up of a slot can touch. -/
theorem Blocks.leave_frame (b : Blocks) (slot : Nat) : ∃ ls d, b.leave slot =
    { b with routes := b.routes.set slot none, lines := ls, work := { b.work with dirty := d } } := by
  unfold Blocks.leave
  dsimp only
  split
  · exact ⟨_, _, rfl⟩
  · rename_i n _
    obtain ⟨_, _, e⟩ := Blocks.updLine_frame
      (({ b with routes := b.routes.set slot none } : Blocks).mark (.slot slot)) n
      (fun r => if r.handedSlot = some slot then { r with handedSlot := none } else r)
    rw [e]
    exact ⟨_, _, rfl⟩

theorem Blocks.updLine_links (b : Blocks) (n : Nat) (f : LineRec → LineRec) : (b.updLine n f).links = b.links := by
  obtain ⟨_, _, e⟩ := b.updLine_frame n f
  rw [e]

theorem Blocks.updRoute_links (b : Blocks) (n : Nat) (f : RouteRec → RouteRec) : (b.updRoute n f).links = b.links := by
  obtain ⟨_, _, e⟩ := b.updRoute_frame n f
  rw [e]

theorem Blocks.tearDown_links (b : Blocks) (slot : Nat) : (b.tearDown slot).links = b.links := by
  unfold Blocks.tearDown
  split
  · rfl
  · rename_i e r _
    obtain ⟨_, _, _, _, _, _, _, _, hrelease⟩ := b.release_frame (.slot slot) (b.wholeHolds slot e r)
    obtain ⟨_, _, hleave⟩ := Blocks.leave_frame
      ((b.release (.slot slot) (b.wholeHolds slot e r)).answerOpt r.cell .borderRefused .none) slot
    rw [hleave, Blocks.answerOpt_eq, hrelease]

theorem Blocks.endTokenAsk_links (b : Blocks) (n : Nat) : (b.endTokenAsk n).links = b.links := by
  unfold Blocks.endTokenAsk
  split
  · exact (foldl_same Blocks.links (fun b (w : WaitingRec) => b.answer w.cell .borderRefused .none) (fun _ _ => rfl)
      _ _).trans (b.updLine_links _ _)
  · rfl

theorem Blocks.loseGrant_links (b : Blocks) (n : Nat) : (b.loseGrant n).links = b.links := by
  unfold Blocks.loseGrant
  split
  · rfl
  split
  · rfl
  split
  · exact (Blocks.tearDown_links _ _).trans (b.updLine_links _ _)
  · split
    · rfl
    · exact b.updRoute_links _ _
  · rfl

theorem Blocks.lineDown_links (b : Blocks) (n : Nat) (t : Clock) : (b.lineDown n t).links = b.links := by
  have hend := (Blocks.loseGrant_links (b.endTokenAsk n) n).trans (b.endTokenAsk_links n)
  unfold Blocks.lineDown
  split
  · rfl
  dsimp only
  split
  · exact (Blocks.updLine_links _ _ _).trans hend
  · exact (Blocks.updLine_links _ _ _).trans hend

/-! ### The requests that wait for a token (R54) -/

theorem Blocks.refuseTokenWaits_eq {b : Blocks} {n : Nat} {hit : WaitingRec → Bool} (h : ∀ w, hit w = true ↔
    w.deferred = false ∧ w.storeTime = 0 ∧ ∃ e, b.routeEntry w.route = some e ∧ e.exit = .line n) :
    b.refuseTokenWaits n = (b.waiting.filter hit).foldl (fun d w => d.answer w.cell .borderRefused .none)
      { b with waiting := b.waiting.filter (fun w => !hit w) } := by
  obtain rfl : hit = fun w => !w.deferred && w.storeTime = 0 && b.exitsTo w.route n := by
    funext w
    rw [Bool.eq_iff_iff, h w]
    simp [Blocks.exitsTo, Option.any_eq_true, and_assoc]
  rfl

/-! ### The events -/

/-- R127: the LINE STATE interval as an event, which does not meet the time of the next. -/
theorem State.lineStateInterval_ends {s : State} {d : Clock} (hawake : s.asleep = false)
    (hwork : s.blocks.work = Work.empty) (hd : s.blocks.lineStateDue = some d)
    (ht : Clock.reached s.blocks.clock d = true) {c : Blocks} (hc : c = (List.range 4).foldl
      (fun b p => b.sendBorder p (.lineState ((portLines p).map b.lineView)))
      { s.blocks with lineStateDue := some (Clock.after d 500) }) :
    exec .lineStateInterval s = .next (s.ended c) ∧ goesOn (exec .lineStateInterval s) (fun t =>
      t.blocks.mode = s.blocks.mode → t.blocks.lineStateDue = some (Clock.after d 500)) := by
  have hexec : exec .lineStateInterval s = .next (s.ended c) :=
    State.event_next s Blocks.lineStateInterval _ hawake (hc ▸ Blocks.lineStateInterval_due hd ht)
  refine ⟨hexec, ?_⟩
  obtain ⟨_, _, _, e⟩ := Blocks.sendBorder_foldl_frame (fun b p => .lineState ((portLines p).map b.lineView))
    (List.range 4) { s.blocks with lineStateDue := some (Clock.after d 500) }
  rw [← hc] at e
  have hafter := State.ended_silent s c (by rw [e]) (by rw [e, hwork]; rfl) (by rw [e, hwork]; rfl)
  rw [hexec]
  intro hm
  obtain ⟨-, -, -, -, -, hdue, -⟩ := hafter.steady (by rw [hm, e])
  rw [hdue, e]

/-- R126: the silence of a link as an event. -/
theorem State.linkSilence_ends {s : State} {port : Nat} {l : LinkRec} {v : Clock} (hawake : s.asleep = false)
    (hwork : s.blocks.work = Work.empty) (hl : s.blocks.linkRec port = some l) (hv : l.lastValid = some v)
    (ht : Clock.reached s.blocks.clock (Clock.after v 2000) = true) :
    (l.state = .starting → exec (.linkSilenceTimeout port) s = .next (s.ended (s.blocks.updLink port LinkRec.silent)) ∧
      goesOn (exec (.linkSilenceTimeout port) s) (fun t => (s.blocks.withLink port l.silent).After t.blocks)) ∧
    (l.state = .up → ∀ c, c = (portLines port).foldl (fun b n => b.lineDown n (Clock.after v 2000))
        ((s.blocks.updLink port LinkRec.silent).raiseAlarm .borderLinkDown (.port port) (Clock.after v 2000)) →
      exec (.linkSilenceTimeout port) s = .next (s.ended c) ∧ goesOn (exec (.linkSilenceTimeout port) s) (fun t =>
        (t.blocks.linkRec port).map (fun l => (l.state, l.valid, l.expected)) = some (.down, 0, none))) ∧
    (l.state = .down → exec (.linkSilenceTimeout port) s = .next s) := by
  obtain ⟨hstarting, hup, hdown⟩ := Blocks.linkSilence_eq hl hv ht
  have hevent := fun c => State.event_next s (·.linkSilence port) c hawake
  refine ⟨fun hs => ?_, fun hs c hc => ?_, fun hs => State.event_none (f := (·.linkSilence port)) hawake (hdown hs)⟩
  · have hexec : exec (.linkSilenceTimeout port) s = .next (s.ended (s.blocks.updLink port LinkRec.silent)) :=
      hevent _ (hstarting hs)
    refine ⟨hexec, ?_⟩
    obtain ⟨d, e⟩ := Blocks.updLink_eq hl LinkRec.silent
    rw [hexec]
    have hafter := State.ended_silent s (s.blocks.updLink port LinkRec.silent) (by rw [e]; rfl) (by rw [e, hwork]; rfl)
      (by rw [e, hwork]; rfl)
    refine hafter.of_work s.blocks.work (by rw [e]; rfl) ?_
    rw [e]
    exact Blocks.quiet_congr rfl rfl rfl rfl rfl rfl rfl
  · have hexec : exec (.linkSilenceTimeout port) s = .next (s.ended c) := hevent c (hc ▸ hup hs)
    refine ⟨hexec, ?_⟩
    have hlinks : c.links = (s.blocks.updLink port LinkRec.silent).links := by
      rw [hc]
      exact foldl_same Blocks.links _ (fun b n => b.lineDown_links n _) _ _
    have hrec : c.linkRec port = some l.silent := by
      unfold Blocks.linkRec
      rw [hlinks]
      show (s.blocks.updLink port LinkRec.silent).linkRec port = _
      rw [Blocks.updLink_rec, if_pos rfl, hl]
      rfl
    have hview := Blocks.Kept.view ((State.ended_kept s c).linkRec port) (fun l => (l.state, l.valid, l.expected))
      (fun x => (x.1, x.2.1, x.2.2.2.1)) (fun _ => rfl)
    rw [hexec]
    refine hview.trans ?_
    rw [hrec]
    rfl

/-- R141: the third sending of a handover without an answer: the raise, and the handover ended. -/
theorem State.handoverSendTime_ends {s : State} {n : Nat} {l : LineRec} {h : Handover} (hawake : s.asleep = false)
    (hwork : s.blocks.work = Work.empty) (hl : s.blocks.lineRec n = some l) (hh : l.handover = some h)
    (ht : Clock.reached s.blocks.clock h.next = true) :
    (h.sends < 3 → exec (.handoverSendTime n) s = .next (s.ended
      ((s.blocks.sendLine n (.trainPass n h.identity)).updLine n (fun l =>
        { l with handover := some { h with sends := h.sends + 1, next := Clock.after h.next 1000 } })))) ∧
    (3 ≤ h.sends → exec (.handoverSendTime n) s = .next (s.ended
        ((s.blocks.raiseAlarm .handoverUnconfirmed (.line n) h.next).updLine n (fun l =>
          { l with handover := none }))) ∧
      goesOn (exec (.handoverSendTime n) s) (fun t =>
        ((s.blocks.updLine n (fun l => { l with handover := none })).enterRaise .handoverUnconfirmed (.line n)
          h.next).After t.blocks)) := by
  have hdue := Blocks.handoverSendTime_due hl hh ht
  have hevent := fun c => State.event_next s (·.handoverSendTime n) c hawake
  refine ⟨fun hsends => hevent _ (by rw [hdue, if_pos hsends]), fun hsends => ?_⟩
  rw [if_neg (Nat.not_lt.mpr hsends)] at hdue
  have hexec : exec (.handoverSendTime n) s = .next (s.ended
      ((s.blocks.raiseAlarm .handoverUnconfirmed (.line n) h.next).updLine n (fun l => { l with handover := none }))) :=
    hevent _ hdue
  refine ⟨hexec, ?_⟩
  obtain ⟨d, e, hw⟩ := s.blocks.raiseAlarm_updLine .handoverUnconfirmed (.line n) h.next n
    (fun l => { l with handover := none })
  obtain ⟨ls, d', hline⟩ := s.blocks.updLine_frame n (fun l => { l with handover := none })
  rw [hexec]
  exact Blocks.After.of_op s s.port _ _ (.raised .handoverUnconfirmed (.line n) h.next) (by rw [e]) (by rw [hline])
    (by rw [e, hwork]; rfl) (by rw [e, hwork]; rfl) (by rw [e, hw]) (by rw [e, hw]) (by rw [e, hw])

/-- Settles O50: the timers as events; a line whose link is lost, by the grant of its entry. -/
theorem borderTimersExpire : Obligations.BorderTimersExpire := by
  unfold Obligations.BorderTimersExpire
  refine ⟨fun s hawake hset => ?_, fun n l s hawake hset hl => ?_, fun b n hit h => Blocks.refuseTokenWaits_eq h, ?_⟩
  · have hwork : s.blocks.work = Work.empty := eq_of_beq hset
    refine ⟨fun d hd ht => State.lineStateInterval_ends hawake hwork hd ht rfl, fun port l v hl hv ht => ?_⟩
    obtain ⟨hstarting, hup, hdown⟩ := State.linkSilence_ends hawake hwork hl hv ht
    exact ⟨hstarting, fun hs => hup hs _ rfl, hdown⟩
  · have hwork : s.blocks.work = Work.empty := eq_of_beq hset
    exact ⟨fun hd => State.event_next s (·.tokenWaitExpiry n) _ hawake (Blocks.tokenWaitExpiry_due hl hd),
      fun h hh ht => State.handoverSendTime_ends hawake hwork hl hh ht⟩
  · intro b c d n l t hl hc hnone hsome
    refine Blocks.lineDown_cases t hl hc ?_
    obtain ⟨hlose, hcases⟩ := Blocks.loseGrant_cases (c := c) (n := n)
    cases hslot : c.outgoingSlot n with
    | none => rw [hnone hslot, hlose hslot]
    | some slot =>
      obtain ⟨r, p, hr, hp⟩ := Blocks.routeRec_of_outgoingSlot hslot
      obtain ⟨hidle, hasked, hgranted⟩ := hcases slot r p hslot hr hp
      rw [hsome slot r p hslot hr hp]
      cases hg : p.grant with
      | none => exact (hidle (.inl hg)).symm
      | asked => exact (hasked hg).symm
      | granted => exact (hgranted hg).symm
      | lost => exact (hidle (.inr hg)).symm

end Sys2Proof.Machine
end

section

namespace Sys2Proof.Machine

/-! PROOF. SET ROUTE before the availability stage (R47 to R50, R63, R64). -/

/-- A row that serves its request with an answer over an effect of its own, without alarms. -/
theorem State.serves_over {s : State} {c : Instr} {k : RequestKind} {q : Request} {o : CellOutcome} {d : Detail}
    {x : Blocks} (h : s.serving k q) (hx : exec c s = .next (s.served (x.answer q.cell o d)))
    (hi : x.freeIndex = s.blocks.freeIndex) (ha : x.work.answers = []) (hl : x.work.alarms = []) :
    s.serves c q x o d := by
  refine ⟨hx, ?_⟩
  rw [hx]
  exact State.served_answer h x hi ha hl o d

/-! ### Parameters, mode and presence (R47 to R49) -/

section

variable {b : Blocks} {q : Request}

theorem Blocks.setRoute_badParameter {o : Nat} (hp : b.routeParameter q = some o) :
    b.setRoute q = b.answer q.cell .badParameter (.parameter o) := by
  unfold Blocks.setRoute
  rw [hp]

theorem Blocks.setRouteObserving_waiting {n : Nat} (hw : b.placeOf q.setRoute.route = some n) :
    b.setRouteObserving q = b.answer q.cell .active (.routePlace 2 (n + 1) 0) := by
  unfold Blocks.setRouteObserving
  dsimp only
  rw [hw]
  rfl

/-- R48: a request for a route that does not wait yet. -/
theorem Blocks.setRouteObserving_new (hw : b.placeOf q.setRoute.route = none) :
    (q.setRoute.store = 0 ∨ 16 ≤ b.waiting.length →
      b.setRouteObserving q = b.answer q.cell .refusedMode (.mode b.mode)) ∧
    (0 < q.setRoute.store → b.waiting.length < 16 → b.setRouteObserving q = { b with waiting := b.waiting ++ [
      { route := q.setRoute.route, deferred := true, sweep := q.setRoute.sweep, identity := q.setRoute.identity
        storeTime := q.setRoute.store, expiry := none, cell := q.cell }] }) := by
  unfold Blocks.setRouteObserving
  dsimp only
  rw [hw]
  refine ⟨fun h => if_neg (by omega), fun hstore hlen => ?_⟩
  exact (if_pos ⟨hstore, hlen⟩).trans ((b.wait_cases _).1 hlen)

variable (hp : b.routeParameter q = none)

include hp

theorem Blocks.setRoute_observing (hm : b.mode ≠ .service) : b.setRoute q = b.setRouteObserving q := by
  unfold Blocks.setRoute
  rw [hp]
  exact if_pos hm

variable (hm : b.mode = .service)

include hm

/-- R49, R63, R64: a route that is held. -/
theorem Blocks.setRoute_slot {slot : Nat} {e : RouteEntry} {r : RouteRec}
    (hs : b.slotOf q.setRoute.route = some slot) (he : b.entryAt slot = some (e, r)) :
    (r.state = .held → b.setRoute q = b.reClear slot e r q.cell) ∧
    (r.state = .stalled → b.setRoute q = b.reDrive slot e r q.cell) ∧
    (r.state ≠ .held → r.state ≠ .stalled → b.setRoute q = b.answerActive q.cell slot r) := by
  unfold Blocks.setRoute
  rw [hp]
  dsimp only
  rw [if_neg (not_not.mpr hm), hs]
  dsimp only
  rw [he]
  dsimp only
  refine ⟨fun hst => ?_, fun hst => ?_, fun hheld hstalled => ?_⟩
  · rw [hst]
  · rw [hst]
  · cases hst : r.state with
    | held => exact absurd hst hheld
    | stalled => exact absurd hst hstalled
    | _ => rfl

theorem Blocks.setRoute_waiting {n : Nat} (hs : b.slotOf q.setRoute.route = none)
    (hw : b.placeOf q.setRoute.route = some n) :
    b.setRoute q = b.answer q.cell .active (.routePlace 2 (n + 1) 0) := by
  unfold Blocks.setRoute
  rw [hp]
  dsimp only
  rw [if_neg (not_not.mpr hm), hs]
  dsimp only
  rw [hw]
  rfl

theorem Blocks.setRoute_restricted {e : RouteEntry} {o : CellOutcome} {f : Finding}
    (hs : b.slotOf q.setRoute.route = none) (hw : b.placeOf q.setRoute.route = none)
    (he : b.routeEntry q.setRoute.route = some e) (hr : b.restrictionStage e = some (o, f)) :
    b.setRoute q = b.answer q.cell o f.detail := by
  rw [Blocks.setRoute_new hm hp hs hw he]
  unfold Blocks.setRouteNew
  dsimp only
  rw [hr]

end

/-! ### A route driven again (R64) -/

theorem PointState.needsReDrive_iff (x : PointState) :
    x.needsReDrive = true ↔ x = .failed ∨ x = .lostDetection ∨ x = .unknown := by
  cases x <;> decide

/-- R64: a point is driven where its state asks for it, and then the points behind it. -/
theorem Blocks.reDrives_cons (b : Blocks) (p : PointPos) (ps : List PointPos) :
    ((∀ v, b.pointRec p.point = some v → v.state ≠ .failed ∧ v.state ≠ .lostDetection ∧ v.state ≠ .unknown) →
      b.reDrives (p :: ps) = b.reDrives ps) ∧
    (∀ v, b.pointRec p.point = some v → v.state = .failed ∨ v.state = .lostDetection ∨ v.state = .unknown →
      b.reDrives (p :: ps) = (((b.drive p.point p.pos).1.reDrives ps).1,
        if (b.drive p.point p.pos).2 then ((b.drive p.point p.pos).1.reDrives ps).2
        else p.point :: ((b.drive p.point p.pos).1.reDrives ps).2)) := by
  rw [Blocks.reDrives]
  refine ⟨fun h => if_neg fun hany => ?_, fun v hv hs => if_pos ?_⟩
  · obtain ⟨v, hv, hneeds⟩ := (Option.any_eq_true ..).mp hany
    obtain ⟨hfailed, hlost, hunknown⟩ := h v hv
    rcases (PointState.needsReDrive_iff _).mp hneeds with e | e | e
    · exact hfailed e
    · exact hlost e
    · exact hunknown e
  · rw [hv]
    exact (PointState.needsReDrive_iff _).mpr hs

section

variable {b : Blocks} {slot : Nat} {e : RouteEntry} {r : RouteRec} {c : Nat}

/-- R63: a HELD route is cleared again when every proof and its grant are there. -/
theorem Blocks.reClear_cases :
    (∀ f, (b.unmetProof e r).or (unmetGrant r) = some f → b.reClear slot e r c =
      (b.updRoute slot (fun r => { r with reason := some f })).answer c .conflict f.detail) ∧
    ((b.unmetProof e r).or (unmetGrant r) = none → b.reClear slot e r c =
      ((b.clearPassage e r).updRoute slot (fun r => { r with cell := some c })).clearEntry slot e r) := by
  unfold Blocks.reClear
  exact ⟨fun f h => by rw [h], fun h => by rw [h]⟩

theorem Blocks.reDrive_refused {n : Nat} (h : b.unmetSection e r = some n) : b.reDrive slot e r c =
    (b.updRoute slot (fun r => { r with reason := some { element := .sec n, reason := .sectionNotClear } })).answer c
      .stalled (.element (.sec n) .sectionNotClear 0) := by
  unfold Blocks.reDrive
  rw [h]
  rfl

/-- R64: a STALLED route with its sections CLEAR: the drives decide. -/
theorem Blocks.reDrive_drives (h : b.unmetSection e r = none) {d : Blocks × List Nat}
    (hd : d = b.reDrives (b.claimedPoints e r)) :
    (∀ n rest, d.2 = n :: rest → b.reDrive slot e r c = (d.1.updRoute slot (fun r => { r with
        reason := if r.reason.any (fun x => x.reason = .pointFailed) then r.reason
          else some { element := .point n, reason := .driveNotStarted } })).answer c .stalled
      (.element (.point n) .driveNotStarted 0)) ∧
    (d.2 = [] → b.reDrive slot e r c = (d.1.clearPassage e r).updRoute slot (fun r =>
      { r with state := .setting, reason := none, cell := some c })) := by
  unfold Blocks.reDrive
  rw [h, ← hd]
  dsimp only
  refine ⟨fun n rest he => ?_, fun he => ?_⟩
  · rw [he]
    rfl
  · rw [he]

end

/-! ### The restriction stage (R50) -/

theorem any_or_iff {α : Type} {o : Option α} {f g : α → Bool} :
    o.any (fun r => f r || g r) = true ↔ ∃ r, o = some r ∧ (f r = true ∨ g r = true) := by
  simp [Option.any_eq_true]

theorem Blocks.sectionPossessed_iff (b : Blocks) (n : Nat) :
    b.sectionPossessed n = true ↔ ∃ r, b.sectionRec n = some r ∧ r.owner.isPossession = true := by
  unfold Blocks.sectionPossessed
  rw [Option.any_eq_true]
  refine exists_congr fun r => and_congr_right fun _ => ?_
  cases r.owner <;> exact Iff.rfl

section

variable {b : Blocks} {e : RouteEntry}

theorem Blocks.restrictionStage_signal (h : b.signalMarked e.entry = true) : b.restrictionStage e =
    some (.restricted, { element := .signal e.entry, reason := .restricted }) := by
  unfold Blocks.restrictionStage
  exact if_pos h

variable (hsig : b.signalMarked e.entry = false)

include hsig

theorem Blocks.restrictionStage_section {n : Nat} (h : e.path.find? b.sectionMarked = some n) :
    b.restrictionStage e = some (.restricted, { element := .sec n, reason := .restricted }) := by
  unfold Blocks.restrictionStage
  rw [hsig, h]
  rfl

variable (hsec : e.path.find? b.sectionMarked = none)

include hsec

theorem Blocks.restrictionStage_point {p : PathPoint} (h : e.points.find? (fun p => b.pointMarked p.point) = some p) :
    b.restrictionStage e = some (.restricted, { element := .point p.point, reason := .restricted }) := by
  unfold Blocks.restrictionStage
  rw [hsig, hsec, h]
  rfl

variable (hpt : e.points.find? (fun p => b.pointMarked p.point) = none)

include hpt

theorem Blocks.restrictionStage_possessed {n : Nat} (h : e.path.find? b.sectionPossessed = some n) :
    b.restrictionStage e = some (.possessed, { element := .sec n, reason := .possessed }) := by
  unfold Blocks.restrictionStage
  rw [hsig, hsec, hpt, h]
  rfl

/-- R50: with no mark and no possession on the path the overlap choices decide. -/
theorem Blocks.restrictionStage_overlaps (h : e.path.find? b.sectionPossessed = none) : b.restrictionStage e =
    if e.overlaps.all (fun o => (b.overlapPossessed o).isSome) then
      (e.overlaps.head?.bind b.overlapPossessed).map (fun n =>
        (.possessed, { element := .sec n, reason := .possessed }))
    else none := by
  unfold Blocks.restrictionStage
  rw [hsig, hsec, hpt, h]
  rfl

end

theorem Blocks.overlapPossessed_isSome (b : Blocks) (m : Nat) : (b.overlapPossessed m).isSome = true ↔
    ∃ y, b.overlapEntry m = some y ∧ ∃ v ∈ y.sections, b.sectionPossessed v = true := by
  unfold Blocks.overlapPossessed
  cases b.overlapEntry m with
  | none => simp
  | some o => simp

/-- R50: the restriction stage, its marks and possessions read from the records. -/
theorem Blocks.restrictionStage_cases (b : Blocks) (e : RouteEntry) :
    (b.signalMarked e.entry = true → b.restrictionStage e =
      some (.restricted, { element := .signal e.entry, reason := .restricted })) ∧
    (b.signalMarked e.entry = false →
      (∀ n, e.path.find? b.sectionMarked = some n → b.restrictionStage e =
        some (.restricted, { element := .sec n, reason := .restricted })) ∧
      (e.path.find? b.sectionMarked = none →
        (∀ p, e.points.find? (fun p => b.pointMarked p.point) = some p → b.restrictionStage e =
          some (.restricted, { element := .point p.point, reason := .restricted })) ∧
        (e.points.find? (fun p => b.pointMarked p.point) = none →
          (∀ n, e.path.find? b.sectionPossessed = some n → b.restrictionStage e =
            some (.possessed, { element := .sec n, reason := .possessed })) ∧
          (e.path.find? b.sectionPossessed = none →
            (∀ first rest x n, e.overlaps = first :: rest → b.overlapEntry first = some x →
              x.sections.find? b.sectionPossessed = some n →
              (∀ m ∈ rest, ∃ y, b.overlapEntry m = some y ∧ ∃ v ∈ y.sections, b.sectionPossessed v = true) →
              b.restrictionStage e = some (.possessed, { element := .sec n, reason := .possessed })) ∧
            (e.overlaps = [] ∨ (∃ m ∈ e.overlaps, ∀ y, b.overlapEntry m = some y →
                ∀ v ∈ y.sections, b.sectionPossessed v = false) →
              b.restrictionStage e = none))))) := by
  refine ⟨Blocks.restrictionStage_signal, fun hsig => ⟨fun n => Blocks.restrictionStage_section hsig, fun hsec =>
    ⟨fun p => Blocks.restrictionStage_point hsig hsec, fun hpt =>
      ⟨fun n => Blocks.restrictionStage_possessed hsig hsec hpt, fun hown => ?_⟩⟩⟩⟩
  rw [Blocks.restrictionStage_overlaps hsig hsec hpt hown]
  refine ⟨fun first rest x n ho hx hn hrest => ?_, fun h => ?_⟩
  · have hfirst : b.overlapPossessed first = some n := by
      unfold Blocks.overlapPossessed
      rw [hx]
      exact hn
    rw [ho, if_pos, List.head?_cons, Option.bind_some, hfirst]
    · rfl
    · refine List.all_eq_true.mpr fun m hm => ?_
      rcases List.mem_cons.mp hm with rfl | hm
      · rw [hfirst]
        rfl
      · exact (b.overlapPossessed_isSome m).mpr (hrest m hm)
  · rcases h with h | ⟨m, hm, hfree⟩
    · rw [h]
      rfl
    · refine if_neg fun hall => ?_
      obtain ⟨y, hy, v, hv, hposs⟩ := (b.overlapPossessed_isSome m).mp (List.all_eq_true.mp hall m hm)
      rw [hfree y hy v hv] at hposs
      cases hposs

/-- Settles O32: the stages of SET ROUTE in turn, by the lemma on each. -/
theorem setRouteAnswersByItsStages : Obligations.SetRouteAnswersByItsStages := by
  unfold Obligations.SetRouteAnswersByItsStages
  refine ⟨fun q s h => ?_, fun b => ⟨rfl, b.reDrives_cons⟩, fun b e sec point signal owned hsec hpt hsig hown => ?_⟩
  · have hexec : exec .setRoute s = .next (s.served (s.blocks.setRoute q)) :=
      State.serving_next s .setRoute Blocks.setRoute q h
    have hwork := h.2.2.2.2.2
    have hanswer : ∀ {o d}, s.blocks.setRoute q = s.blocks.answer q.cell o d →
        goesOn (exec .setRoute s) (fun t => t.answered q.cell o d ∧ s.blocks.After t.blocks) := fun e =>
      (State.serves_answer h (e ▸ hexec)).2
    have hreason : ∀ {slot f o d}, s.blocks.setRoute q = (s.blocks.updRoute slot f).answer q.cell o d →
        s.serves .setRoute q (s.blocks.updRoute slot f) o d := fun {slot f o d} e => by
      obtain ⟨_, _, hupd⟩ := s.blocks.updRoute_frame slot f
      exact State.serves_over h (e ▸ hexec) (by rw [hupd]) (by rw [hupd, hwork]; rfl) (by rw [hupd, hwork]; rfl)
    refine ⟨fun o hp => hanswer (Blocks.setRoute_badParameter hp), fun hp hm => ?_, fun hp hm => ?_⟩
    · have hobs := Blocks.setRoute_observing hp hm
      refine ⟨fun n hw => hanswer (hobs.trans (Blocks.setRouteObserving_waiting hw)), fun hw => ?_⟩
      obtain ⟨hrefused, hdeferred⟩ := Blocks.setRouteObserving_new hw
      refine ⟨fun hfull => hanswer (hobs.trans (hrefused hfull)), fun hstore hlen => ?_⟩
      rw [hexec, hobs, hdeferred hstore hlen]
      exact State.served_open s _ rfl (congrArg Work.answers hwork) (congrArg Work.alarms hwork)
    refine ⟨fun slot e r hs he => ?_, fun hs => ⟨fun n hw => hanswer (Blocks.setRoute_waiting hp hm hs hw),
      fun e o f hw he hr => hanswer (Blocks.setRoute_restricted hp hm hs hw he hr)⟩⟩
    obtain ⟨hheld, hstalled, hactive⟩ := Blocks.setRoute_slot hp hm hs he
    refine ⟨fun h1 h2 => hanswer (hactive h1 h2), fun hst => ?_, fun hst => ?_⟩
    · obtain ⟨hunmet, hmet⟩ := Blocks.reClear_cases (b := s.blocks) (slot := slot) (e := e) (r := r) (c := q.cell)
      refine ⟨fun f hf => hreason ((hheld hst).trans (hunmet f hf)), fun hf => ?_⟩
      rw [hexec, hheld hst, hmet hf]
      rfl
    · refine ⟨fun n hn => hreason ((hstalled hst).trans (Blocks.reDrive_refused hn)), fun hn d hd => ?_⟩
      obtain ⟨hleft, hdone⟩ := Blocks.reDrive_drives (slot := slot) (c := q.cell) hn hd
      refine ⟨fun n rest hrest => ?_, fun hempty => ?_⟩
      · rw [hexec, hstalled hst, hleft n rest hrest]
      · rw [hexec, hstalled hst, hdone hempty]
        rfl
  · obtain rfl : sec = b.sectionMarked := funext fun n => Bool.eq_iff_iff.mpr ((hsec n).trans any_or_iff.symm)
    obtain rfl : point = b.pointMarked := funext fun n => Bool.eq_iff_iff.mpr ((hpt n).trans any_or_iff.symm)
    obtain rfl : signal = b.signalMarked :=
      funext fun n => Bool.eq_iff_iff.mpr ((hsig n).trans any_or_iff.symm)
    obtain rfl : owned = b.sectionPossessed :=
      funext fun n => Bool.eq_iff_iff.mpr ((hown n).trans (b.sectionPossessed_iff n).symm)
    exact b.restrictionStage_cases e

end Sys2Proof.Machine
end

section

namespace Sys2Proof.Machine

/-! PROOF. CANCEL ROUTE, and what a release gives back (R74, R75, R77, R78, R87). -/

/-! ### What a release set hands over -/

theorem Blocks.releaseItem_hands (b : Blocks) (h : Hold) :
    ((b.releaseItem h).work.answers, (b.releaseItem h).work.sent) = (b.work.answers, b.work.sent) := by
  have hpoint : ∀ n f, ((b.updPoint n f).work.answers, (b.updPoint n f).work.sent) = (b.work.answers, b.work.sent) :=
    fun n f => by
      obtain ⟨_, _, _, _, _, e⟩ := b.updPoint_frame n f
      rw [e]
  have hsignal : ∀ (c : Blocks) n f,
      ((c.updSignal n f).work.answers, (c.updSignal n f).work.sent) = (c.work.answers, c.work.sent) := fun c n f => by
    obtain ⟨_, _, _, _, _, e⟩ := c.updSignal_frame n f
    rw [e]
  unfold Blocks.releaseItem
  cases h with
  | sec n owner =>
    dsimp only
    obtain ⟨_, _, e⟩ := b.updSection_frame n (fun r =>
      { r with owner := .free, passage := false, identity := if r.occupancy = .clear then none else r.identity })
    rw [e]
  | point n k pos => exact hpoint _ _
  | pointPossession n => exact hpoint _ _
  | signalEntry n slot =>
    refine (hsignal _ _ _).trans ?_
    unfold Blocks.setCommanded
    split
    · rfl
    split
    · rfl
    · dsimp only
      split
      · exact hsignal b n _
      · exact hsignal b n _
  | signalFlank n => exact hsignal b _ _
  | signalPossession n => exact hsignal b _ _

/-- R41: a release set answers no cell and sends nothing. -/
theorem Blocks.release_hands (b : Blocks) (c : Claimant) (items : List Hold) :
    (b.release c items).work.answers = b.work.answers ∧ (b.release c items).work.sent = b.work.sent := by
  unfold Blocks.release
  split
  · exact Prod.mk.inj (foldl_same (fun b => (b.work.answers, b.work.sent)) _ Blocks.releaseItem_hands items b)
  · exact ⟨rfl, rfl⟩

/-- R41, R43: a release set that its owner has. -/
theorem Blocks.release_gives {b : Blocks} {c : Claimant} {items : List Hold} (h : b.hasHolds c items) :
    b.GivesBack (b.release c items) c items ∧ (b.release c items).work.freed = true := by
  obtain ⟨ks, e, hgives⟩ := b.release_applied c items h
  exact ⟨hgives, by rw [e]; rfl⟩

/-! ### An entry given up: its holds given back, its cell answered, its slot free -/

/-- R77, R57: what a whole release and a tearing down have in common. -/
def Blocks.giveUp (b : Blocks) (slot : Nat) (e : RouteEntry) (r : RouteRec) (o : CellOutcome) : Blocks :=
  ((b.release (.slot slot) (b.wholeHolds slot e r)).answerOpt r.cell o .none).leave slot

section

variable (b : Blocks) (slot : Nat) (e : RouteEntry) (r : RouteRec) (o : CellOutcome)

theorem Blocks.giveUp_frame : ∃ ls w d, b.giveUp slot e r o =
    { b.release (.slot slot) (b.wholeHolds slot e r) with
      routes := b.routes.set slot none, lines := ls, work := { w with dirty := d } } ∧
    w = ((b.release (.slot slot) (b.wholeHolds slot e r)).answerOpt r.cell o .none).work := by
  obtain ⟨ls, d, hleave⟩ := Blocks.leave_frame
    ((b.release (.slot slot) (b.wholeHolds slot e r)).answerOpt r.cell o .none) slot
  refine ⟨ls, _, d, hleave.trans ?_, rfl⟩
  rw [Blocks.answerOpt_eq, ← b.release_routes (.slot slot) (b.wholeHolds slot e r)]

theorem Blocks.giveUp_routeRec (m : Nat) :
    (b.giveUp slot e r o).routeRec m = if slot = m then none else b.routeRec m := by
  obtain ⟨_, _, _, heq, -⟩ := b.giveUp_frame slot e r o
  rw [heq]
  refine (b.set_routeRec slot m none).trans ?_
  rw [ite_self]

/-- R77: the answer to the cell, and nothing sent. -/
theorem Blocks.giveUp_hands : (b.giveUp slot e r o).work.answers = b.work.answers ++
      (r.cell.map (fun c => { cell := c, outcome := o, detail := .none })).toList ∧
    (b.giveUp slot e r o).work.sent = b.work.sent := by
  obtain ⟨_, _, _, heq, hwork⟩ := b.giveUp_frame slot e r o
  obtain ⟨hanswers, hsent⟩ := b.release_hands (.slot slot) (b.wholeHolds slot e r)
  rw [heq, hwork, Blocks.answerOpt_eq]
  refine ⟨?_, hsent⟩
  show (b.release _ _).work.answers ++ _ = _
  rw [hanswers, Option.toList_map]

theorem Blocks.giveUp_gives (h : b.hasHolds (.slot slot) (b.wholeHolds slot e r)) :
    b.GivesBack (b.giveUp slot e r o) (.slot slot) (b.wholeHolds slot e r) ∧
      (b.giveUp slot e r o).work.freed = true := by
  obtain ⟨hgives, hfreed⟩ := Blocks.release_gives h
  obtain ⟨_, _, _, heq, hwork⟩ := b.giveUp_frame slot e r o
  rw [heq, hwork, Blocks.answerOpt_eq]
  exact ⟨hgives, hfreed⟩

/-- What the border unit reads when it is told. -/
theorem Blocks.giveUp_border : (b.giveUp slot e r o).links = b.links ∧
    (b.giveUp slot e r o).inForce = b.inForce ∧ (b.giveUp slot e r o).mode = b.mode := by
  obtain ⟨_, _, _, heq, -⟩ := b.giveUp_frame slot e r o
  obtain ⟨_, _, _, _, _, _, _, _, hrelease⟩ := b.release_frame (.slot slot) (b.wholeHolds slot e r)
  rw [heq, hrelease]
  exact ⟨rfl, rfl, rfl⟩

end

section

variable {b : Blocks} {slot : Nat} {e : RouteEntry} {r : RouteRec} (he : b.entryAt slot = some (e, r))

include he

theorem Blocks.tearDown_eq : b.tearDown slot = b.giveUp slot e r .borderRefused := by
  unfold Blocks.tearDown
  rw [he]
  rfl

theorem Blocks.wholeRelease_unbordered (hb : r.border = none) :
    b.wholeRelease slot = b.giveUp slot e r .withdrawn := by
  unfold Blocks.wholeRelease
  rw [he]
  dsimp only
  rw [hb]
  rfl

theorem Blocks.wholeRelease_bordered {p : BorderPart} (hb : r.border = some p) : b.wholeRelease slot =
    (b.giveUp slot e r .withdrawn).borderReleased p (BitVec.ofNat 16 r.route) := by
  unfold Blocks.wholeRelease
  rw [he]
  dsimp only
  rw [hb]
  rfl

end

/-! ### What the border unit does at a whole release (R87, R135, R137) -/

/-- R127: a telegram sent on a port in use, out of HALTED. -/
theorem Blocks.sendBorder_sent {b : Blocks} {port : Nat} {i : Image} {l : LinkRec} (hi : b.image? = some i)
    (hl : b.linkRec port = some l) (hm : b.mode ≠ .halted) (t : Telegram) : (b.sendBorder port t).work.sent =
      b.work.sent ++ [.border port t (telegramChars (t.bytes i.head.area l.transmit))] := by
  unfold Blocks.sendBorder
  rw [hi, hl]
  dsimp only
  rw [if_neg hm]
  obtain ⟨_, _, e⟩ := b.updLink_frame port (fun l => { l with transmit := l.transmit + 1 })
  rw [e]

theorem Blocks.updLine_sent (b : Blocks) (n : Nat) (f : LineRec → LineRec) :
    (b.updLine n f).work.sent = b.work.sent := by
  obtain ⟨_, _, e⟩ := b.updLine_frame n f
  rw [e]

theorem Blocks.freeEntry_frame (b : Blocks) (n : Nat) (ref : Word16) : ∃ ks ls d x, b.freeEntry n ref =
    { b with links := ks, lines := ls, work := { b.work with dirty := d, sent := x } } := by
  obtain ⟨_, _, _, hsend⟩ := b.sendBorder_frame (portOf n) (.entryFree n ref)
  obtain ⟨_, _, hline⟩ := (b.sendLine n (.entryFree n ref)).updLine_frame n (fun l => { l with entryAsk := none })
  unfold Blocks.freeEntry Blocks.forgetEntryAsk
  rw [hline, Blocks.sendLine, hsend]
  exact ⟨_, _, _, _, rfl⟩

theorem Blocks.borderReleased_frame (b : Blocks) (p : BorderPart) (ref : Word16) : ∃ ks ls d x,
    b.borderReleased p ref = { b with links := ks, lines := ls, work := { b.work with dirty := d, sent := x } } := by
  have hline : ∀ n f, ∃ ks ls d x, b.updLine n f =
      { b with links := ks, lines := ls, work := { b.work with dirty := d, sent := x } } := fun n f => by
    obtain ⟨_, _, e⟩ := b.updLine_frame n f
    rw [e]
    exact ⟨_, _, _, _, rfl⟩
  unfold Blocks.borderReleased
  split
  · exact hline _ _
  · exact b.freeEntry_frame _ _
  · exact b.freeEntry_frame _ _
  · split
    · exact b.freeEntry_frame _ _
    · exact hline _ _

section

variable {b : Blocks} {p : BorderPart} {ref : Word16}

theorem Blocks.borderReleased_none (hg : p.grant = .none) : (b.borderReleased p ref).work.sent = b.work.sent := by
  unfold Blocks.borderReleased
  rw [hg]
  exact b.updLine_sent _ _

variable {l : LinkRec} {i : Image} (hl : b.linkRec (portOf p.line) = some l)

include hl

/-- R87, R137: an entry asked for, granted, or lost on a link that is UP again, is given up with ENTRY FREE. -/
theorem Blocks.borderReleased_free (hi : b.image? = some i) (hm : b.mode ≠ .halted)
    (hg : p.grant = .asked ∨ p.grant = .granted ∨ (p.grant = .lost ∧ l.state = .up)) :
    (b.borderReleased p ref).work.sent = b.work.sent ++ [.border (portOf p.line) (.entryFree p.line ref)
      (telegramChars ((Telegram.entryFree p.line ref).bytes i.head.area l.transmit))] := by
  have hfree : b.borderReleased p ref = b.freeEntry p.line ref := by
    unfold Blocks.borderReleased
    rcases hg with hg | hg | ⟨hg, hup⟩
    · rw [hg]
    · rw [hg]
    · rw [hg]
      exact if_pos (by unfold Blocks.linkUp; rw [hl, Option.any_some, hup]; rfl)
  rw [hfree]
  exact (Blocks.updLine_sent _ _ _).trans (Blocks.sendBorder_sent hi hl hm _)

/-- R137: with the link not UP the free of a LOST grant is deferred. -/
theorem Blocks.borderReleased_deferred (hg : p.grant = .lost) (hup : l.state ≠ .up) :
    (b.borderReleased p ref).work.sent = b.work.sent ∧
      ∀ x, (b.borderReleased p ref).lineRec p.line = some x → x.deferredFree = some ref := by
  have hdown : b.linkUp (portOf p.line) ≠ true := by
    unfold Blocks.linkUp
    rw [hl]
    simpa using hup
  have hdefer : b.borderReleased p ref =
      b.updLine p.line (fun l => { l with deferredFree := some ref, entryAsk := none }) := by
    unfold Blocks.borderReleased
    rw [hg]
    exact if_neg hdown
  rw [hdefer]
  refine ⟨b.updLine_sent _ _, fun x hx => ?_⟩
  rw [Blocks.updLine_rec, if_pos rfl] at hx
  obtain ⟨v, -, rfl⟩ := Option.map_eq_some_iff.mp hx
  rfl

end

/-! ### The whole release and the tearing down (R77, R57) -/

/-- What a whole release leaves, seen from the entry given up. -/
theorem Blocks.wholeRelease_frame {b : Blocks} {slot : Nat} {e : RouteEntry} {r : RouteRec}
    (he : b.entryAt slot = some (e, r)) : ∃ ks ls d x, b.wholeRelease slot =
      { b.giveUp slot e r .withdrawn with
        links := ks, lines := ls, work := { (b.giveUp slot e r .withdrawn).work with dirty := d, sent := x } } := by
  cases hb : r.border with
  | none => exact ⟨_, _, _, _, Blocks.wholeRelease_unbordered he hb⟩
  | some p =>
    obtain ⟨ks, ls, d, x, h⟩ := (b.giveUp slot e r .withdrawn).borderReleased_frame p (BitVec.ofNat 16 r.route)
    exact ⟨ks, ls, d, x, (Blocks.wholeRelease_bordered he hb).trans h⟩

theorem Blocks.givesUp_slot {b d : Blocks} {slot : Nat} {e : RouteEntry} {r : RouteRec}
    (he : b.entryAt slot = some (e, r)) (h : b.hasHolds (.slot slot) (b.wholeHolds slot e r))
    (hd : d = b.wholeRelease slot ∨ d = b.tearDown slot) :
    d.routeRec slot = none ∧ (∀ m, m ≠ slot → d.routeRec m = b.routeRec m) ∧
      b.GivesBack d (.slot slot) (b.wholeHolds slot e r) ∧ d.work.freed = true ∧
      ∀ n, (d.sectionRec n).map SectionRec.kept = (b.sectionRec n).map SectionRec.kept := by
  have hup : ∃ o, d.routes = (b.giveUp slot e r o).routes ∧ d.holds = (b.giveUp slot e r o).holds ∧
      d.work.freed = (b.giveUp slot e r o).work.freed := by
    rcases hd with rfl | rfl
    · obtain ⟨_, _, _, _, heq⟩ := Blocks.wholeRelease_frame he
      exact ⟨.withdrawn, by rw [heq], by rw [heq], by rw [heq]⟩
    · have heq := Blocks.tearDown_eq he
      exact ⟨.borderRefused, by rw [heq], by rw [heq], by rw [heq]⟩
  obtain ⟨o, hroutes, hholds, hfreed⟩ := hup
  have hrec : ∀ m, d.routeRec m = if slot = m then none else b.routeRec m := fun m =>
    (Blocks.routeRec_congr hroutes m).trans (b.giveUp_routeRec slot e r o m)
  obtain ⟨hgives, hfree⟩ := b.giveUp_gives slot e r o h
  refine ⟨by rw [hrec, if_pos rfl], fun m hm => by rw [hrec, if_neg hm.symm], ?_, hfreed.trans hfree, ?_⟩
  · unfold Blocks.GivesBack
    rw [hholds]
    exact hgives
  · rcases hd with rfl | rfl
    · exact ((Blocks.Follows.refl true b).wholeRelease slot).kept.sectionRec
    · exact ((Blocks.Follows.refl true b).tearDown slot).kept.sectionRec

/-! ### The release behind a train (R73 to R75) -/

theorem Blocks.frontReady_iff (b : Blocks) (e : RouteEntry) (r : RouteRec) : b.frontReady e r = true ↔
    ∃ n, e.path[r.released]? = some n ∧ b.isPassed n = true ∧ b.isClear n = true ∧
      ∀ m, e.path[r.released + 1]? = some m →
        b.occupancy m = some .occupied ∨ b.occupancy m = some .clearing ∨ b.isPassed m = true := by
  unfold Blocks.frontReady
  cases e.path[r.released]? with
  | none => simp
  | some n =>
    cases e.path[r.released + 1]? with
    | none => simp
    | some m => simp [and_assoc, or_assoc]

/-- R74: an entry after its path section k was given back behind the train. -/
def RouteEntry.passed (e : RouteEntry) (k : Nat) (r : RouteRec) : RouteRec :=
  { r with released := k, flank := markReleased (flankPairs e r) (releasedWith e k) }

/-- R75: with a section that is not the last, the assignments that protect it are released. -/
theorem RouteEntry.passed_of_ne {e : RouteEntry} {k : Nat} (hk : k ≠ e.path.length) (r : RouteRec) :
    e.passed k r = { r with
      released := k
      flank := (flankPairs e r).map (fun x => if x.1.index = k then { x.2 with released := true } else x.2) } := by
  unfold RouteEntry.passed markReleased releasedWith
  simp [hk]

theorem Blocks.releaseFront_eq {b : Blocks} {slot : Nat} {e : RouteEntry} {r : RouteRec} {n : Nat}
    (hn : e.path[r.released]? = some n) {c : Blocks}
    (hc : c = b.release (.slot slot) (b.passageHolds slot e r n (r.released + 1))) : b.releaseFront slot e r =
      if r.released + 1 = e.path.length then c.leave slot else c.updRoute slot (e.passed (r.released + 1)) := by
  unfold Blocks.releaseFront
  rw [hn, hc]
  rfl

/-- R74, R75: the front section given back: by its number, the slot free or the entry without the section. -/
theorem Blocks.releaseFront_gives {b : Blocks} {slot : Nat} {e : RouteEntry} {r : RouteRec} {n : Nat}
    (he : b.entryAt slot = some (e, r)) (hn : e.path[r.released]? = some n)
    (h : b.hasHolds (.slot slot) (b.passageHolds slot e r n (r.released + 1))) :
    b.GivesBack (b.releaseFront slot e r) (.slot slot) (b.passageHolds slot e r n (r.released + 1)) ∧
    (b.releaseFront slot e r).work.freed = true ∧ (b.releaseFront slot e r).work.answers = b.work.answers ∧
    ∀ m, (b.releaseFront slot e r).routeRec m = if slot = m then
        (if r.released + 1 = e.path.length then none else some (e.passed (r.released + 1) r))
      else b.routeRec m := by
  obtain ⟨hr, -⟩ := Blocks.entryAt_routeRec he
  obtain ⟨hgives, hfreed⟩ := Blocks.release_gives h
  obtain ⟨hanswers, -⟩ := b.release_hands (.slot slot) (b.passageHolds slot e r n (r.released + 1))
  have hrec := Blocks.routeRec_congr (b.release_routes (.slot slot) (b.passageHolds slot e r n (r.released + 1)))
  rw [Blocks.releaseFront_eq hn rfl]
  generalize b.release (.slot slot) (b.passageHolds slot e r n (r.released + 1)) = c at hgives hfreed hanswers hrec ⊢
  split
  · obtain ⟨_, _, hleave⟩ := c.leave_frame slot
    rw [hleave]
    refine ⟨hgives, hfreed, hanswers, fun m => (c.set_routeRec slot m none).trans ?_⟩
    rw [ite_self, hrec]
  · have hrecs := fun m => c.updRoute_rec slot m (e.passed (r.released + 1))
    obtain ⟨_, _, hupd⟩ := c.updRoute_frame slot (e.passed (r.released + 1))
    rw [hupd] at hrecs ⊢
    refine ⟨hgives, hfreed, hanswers, fun m => (hrecs m).trans ?_⟩
    rw [hrec]
    split
    · rename_i hm
      rw [← hm, hr]
      rfl
    · exact Option.map_id' ..

/-! ### CANCEL ROUTE (R78) -/

theorem find?_route_none {ws : List WaitingRec} {route : Nat} (h : ∀ w ∈ ws, w.route ≠ route) :
    ws.find? (fun w => w.route == route) = none := List.find?_eq_none.mpr fun w hw => by simp [h w hw]

section

variable {b : Blocks} {q : Request} {route : Nat} (hq : route = q.field 28 2)

include hq

theorem Blocks.cancelRoute_badParameter (h : b.count .route ≤ route) :
    b.cancelRoute q = b.answer q.cell .badParameter (.parameter 28) := by
  subst hq
  unfold Blocks.cancelRoute
  exact if_pos h

variable (h : route < b.count .route)

include h

theorem Blocks.cancelRoute_waiting {w : WaitingRec} (hw : b.waiting.find? (fun w => w.route == route) = some w) :
    b.cancelRoute q = ((b.unwait route).answer w.cell .withdrawn .none).answer q.cell .done .none := by
  subst hq
  unfold Blocks.cancelRoute
  dsimp only
  rw [if_neg (Nat.not_le.mpr h), hw]

variable (hw : ∀ w ∈ b.waiting, w.route ≠ route)

include hw

theorem Blocks.cancelRoute_notFound (hs : b.slotOf route = none) :
    b.cancelRoute q = b.answer q.cell .notFound .none := by
  have hnone := find?_route_none hw
  subst hq
  unfold Blocks.cancelRoute
  dsimp only
  rw [if_neg (Nat.not_le.mpr h), hnone, hs]
  rfl

/-- R78: a route that is held, by its state. -/
theorem Blocks.cancelRoute_slot {slot : Nat} {e : RouteEntry} {r : RouteRec} (hs : b.slotOf route = some slot)
    (he : b.entryAt slot = some (e, r)) :
    (r.state = .setting ∨ r.state = .stalled ∨ r.state = .locked →
      b.cancelRoute q = (b.wholeRelease slot).answer q.cell .done .none) ∧
    (r.state = .passing ∨ r.state = .emergency →
      b.cancelRoute q = b.answer q.cell .passing (.routePlace 1 slot r.state.code)) ∧
    ∀ m, r.state = .cancelling → r.timer = some m →
      b.cancelRoute q = b.answer q.cell .timing (.timer e.release m.expiry) := by
  have hnone := find?_route_none hw
  subst hq
  unfold Blocks.cancelRoute
  dsimp only
  rw [if_neg (Nat.not_le.mpr h), hnone, hs, Option.bind_some, he, Option.map_some]
  dsimp only
  refine ⟨fun hst => ?_, fun hst => ?_, fun m hst hm => ?_⟩
  · rcases hst with hst | hst | hst <;> rw [hst]
  · rcases hst with hst | hst <;> rw [hst]
  · rw [hst]
    dsimp only
    rw [hm]

end

/-- R189: the two cells of a cancel of a waiting request. -/
theorem State.served_two_answers {s : State} {k : RequestKind} {q : Request} (h : s.serving k q) {x : Blocks} {c : Nat}
    (hx : x.freeIndex = s.blocks.freeIndex) (hwork : x.work = Work.empty) (hne : c ≠ q.cell) (hc : c < 32)
    (hflight : s.port.isInFlight c = true) (o o' : CellOutcome) (d d' : Detail) {t : State}
    (ht : t = s.served ((x.answer c o d).answer q.cell o' d')) :
    t.answered q.cell o' d' ∧ t.answered c o d ∧ x.After t.blocks := by
  obtain ⟨-, -, -, hq, hqflight, -⟩ := h
  have hanswers : ((x.answer c o d).answer q.cell o' d').work.answers =
      [{ cell := c, outcome := o, detail := d }, { cell := q.cell, outcome := o', detail := d' }] := by
    show (x.work.answers ++ _) ++ _ = _
    rw [hwork]
    rfl
  subst ht
  have hfine : (Port.writeAnswers x.clock { s.port with handed := none }
      ((x.answer c o d).answer q.cell o' d').work.answers).2 = false := by
    rw [hanswers]
    refine Port.writeAnswers_fine _ _ _ (fun y hy => ?_) (by simpa using hne)
    rcases List.mem_pair.mp hy with rfl | rfl
    · exact hflight
    · exact hqflight
  refine ⟨?_, ?_, ?_⟩
  · exact State.finish_settle_answered s _ _ { cell := q.cell, outcome := o', detail := d' }
      [{ cell := c, outcome := o, detail := d }] [] hanswers (fun y hy => by rwa [List.mem_singleton.mp hy]) hqflight hq
  · exact State.finish_settle_answered s _ _ { cell := c, outcome := o, detail := d } [] _ hanswers (by simp) hflight hc
  · have hafter := Blocks.After.of_silent s { s.port with handed := none } ((x.answer c o d).answer q.cell o' d') hx
      hfine (congrArg Work.alarms hwork)
    exact hafter.of_work x.work rfl (Blocks.quiet_congr rfl rfl rfl rfl rfl rfl rfl)

/-- Settles O35: the cancel by the state of its route; then what a release gives back, by the entry given up. -/
theorem cancelRouteByState : Obligations.CancelRouteByState := by
  unfold Obligations.CancelRouteByState
  refine ⟨fun q s route h hq => ?_, fun b slot e r he => ⟨fun hs hhs h => ?_, b.frontReady_iff e r, ?_⟩⟩
  · have hexec : exec .cancelRoute s = .next (s.served (s.blocks.cancelRoute q)) :=
      State.serving_next s .cancelRoute Blocks.cancelRoute q h
    have hserves : ∀ {o d}, s.blocks.cancelRoute q = s.blocks.answer q.cell o d →
        s.serves .cancelRoute q s.blocks o d := fun e => State.serves_answer h (e ▸ hexec)
    refine ⟨fun hle => hserves (Blocks.cancelRoute_badParameter hq hle), fun hlt => ⟨?_, fun hw => ?_⟩⟩
    · intro w x hw hne hc hflight hx
      rw [Blocks.cancelRoute_waiting hq hlt hw, show s.blocks.unwait route = x from hx.symm] at hexec
      refine ⟨hexec, ?_⟩
      rw [hexec]
      exact State.served_two_answers h (by rw [hx]) (by rw [hx]; exact h.2.2.2.2.2) hne hc hflight _ _ _ _ rfl
    · refine ⟨fun hs => hserves (Blocks.cancelRoute_notFound hq hlt hw hs), fun slot e r hs he => ?_⟩
      obtain ⟨hwhole, hpassing, htiming⟩ := Blocks.cancelRoute_slot hq hlt hw hs he
      exact ⟨fun hst => by rw [hexec, hwhole hst], fun hst => hserves (hpassing hst),
        fun m hst hm => hserves (htiming m hst hm)⟩
  · obtain rfl : hs = b.wholeHolds slot e r := hhs
    obtain ⟨hanswers, hsent⟩ := b.giveUp_hands slot e r .withdrawn
    obtain ⟨hlinks, hforce, hmode⟩ := b.giveUp_border slot e r .withdrawn
    obtain ⟨hrefused, hquiet⟩ := b.giveUp_hands slot e r .borderRefused
    rw [Blocks.tearDown_eq he]
    refine ⟨fun d hd => Blocks.givesUp_slot he h (Blocks.tearDown_eq he ▸ hd), ?_, hrefused, hquiet, fun hb => ?_,
      fun p x hb hx => ?_, fun p l i hb hl hi hm => ?_⟩
    · obtain ⟨_, _, _, _, heq⟩ := Blocks.wholeRelease_frame he
      rw [heq]
      exact hanswers
    · cases hp : r.border with
      | none => rw [Blocks.wholeRelease_unbordered he hp, hsent]
      | some p =>
        have hg : p.grant = .none := by simpa [hp] using hb
        rw [Blocks.wholeRelease_bordered he hp, Blocks.borderReleased_none hg, hsent]
    · rw [Blocks.wholeRelease_bordered he hb] at hx
      exact Blocks.borderReleased_entryAsk _ _ _ _ hx
    · rw [Blocks.wholeRelease_bordered he hb, ← hsent]
      replace hl : (b.giveUp slot e r .withdrawn).linkRec (portOf p.line) = some l := by
        rw [← hl]
        unfold Blocks.linkRec
        rw [hlinks]
      replace hi : (b.giveUp slot e r .withdrawn).image? = some i := by
        rw [← hi]
        unfold Blocks.image?
        rw [hforce]
      exact ⟨fun hg => Blocks.borderReleased_free hl hi (hmode ▸ hm) hg,
        fun hg hup => Blocks.borderReleased_deferred hl hg hup⟩
  · rintro n k hs hn rfl hhs h d rfl
    obtain rfl : hs = b.passageHolds slot e r n (r.released + 1) := hhs
    obtain ⟨hgives, hfreed, hanswers, hrec⟩ := Blocks.releaseFront_gives he hn h
    refine ⟨hgives, hfreed, hanswers, fun m hm => by rw [hrec, if_neg hm.symm], fun hk => ?_, fun hk => ?_⟩
    · rw [hrec, if_pos rfl, if_pos hk]
    · rw [hrec, if_pos rfl, if_neg hk, RouteEntry.passed_of_ne hk]
      rfl

end Sys2Proof.Machine
end

section

namespace Sys2Proof.Machine

/-! PROOF. EMERGENCY RELEASE (R84, R85): the answer by the state of the route, and the start of the timer. -/

theorem Blocks.emergencyRelease_notFound {b : Blocks} {route : Nat} (cell : Nat) (hs : b.slotOf route = none) :
    b.emergencyRelease route cell = b.answer cell .notFound .none := by
  unfold Blocks.emergencyRelease
  rw [hs]
  rfl

/-- R84: a route that is held, by its state. -/
theorem Blocks.emergencyRelease_slot {b : Blocks} {route slot : Nat} {e : RouteEntry} {r : RouteRec} (cell : Nat)
    (hs : b.slotOf route = some slot) (he : b.entryAt slot = some (e, r)) :
    (r.state = .setting ∨ r.state = .locked ∨ r.state = .cleared →
      b.emergencyRelease route cell = b.answer cell .conflict (.routePlace 1 slot r.state.code)) ∧
    (∀ m, r.state = .emergency → r.timer = some m →
      b.emergencyRelease route cell = b.answer cell .timing (.timer e.emergencyTime m.expiry)) ∧
    (r.state = .held ∨ r.state = .stalled ∨ r.state = .cancelling ∨ r.state = .passing →
      b.emergencyRelease route cell = (b.startEmergency slot e r).answer cell .done .none) := by
  unfold Blocks.emergencyRelease
  rw [hs, Option.bind_some, he, Option.map_some]
  dsimp only
  refine ⟨fun hst => ?_, fun m hst hm => ?_, fun hst => ?_⟩
  · rcases hst with hst | hst | hst <;> rw [hst]
  · rw [hst]
    dsimp only
    rw [hm]
  · rcases hst with hst | hst | hst | hst <;> rw [hst]

/-- R85: the timer runs from the clock of the event, which the command STOP leaves. -/
theorem Blocks.startEmergency_eq {b c : Blocks} {slot : Nat} {e : RouteEntry} {r : RouteRec}
    (hc : c = if r.released = 0 then b.commandSignal slot e.entry .stop else b) : b.startEmergency slot e r =
      (c.updRoute slot (fun r => { r with
        state := .emergency
        timer := some { kind := .emergency, expiry := Clock.after b.clock (1000 * e.emergencyTime) }
        cell := none })).answerOpt r.cell .withdrawn .none := by
  have hclock : c.clock = b.clock := by
    rw [hc]
    split
    · exact ((Blocks.Follows.refl false b).commandSignal slot e.entry .stop).clock
    · rfl
  rw [← hclock, hc]
  rfl

/-- Settles O27: the EXECUTE runs the emergency release without its arm entry; then by the state of the route. -/
theorem emergencyReleaseStarts : Obligations.EmergencyReleaseStarts := by
  unfold Obligations.EmergencyReleaseStarts
  intro q s e a h
  have hexec : exec .emergencyRelease s = .next (s.served ((s.blocks.disarm a).emergencyRelease e.number q.cell)) :=
    State.executing_next h Blocks.executeEmergency
  have hanswer : ∀ {o d},
      (s.blocks.disarm a).emergencyRelease e.number q.cell = (s.blocks.disarm a).answer q.cell o d →
      goesOn (exec .emergencyRelease s) (fun t => t.answered q.cell o d ∧ (s.blocks.disarm a).After t.blocks) :=
    fun {o d} heq => (State.executing_answers h o d (heq ▸ hexec)).2
  refine ⟨fun hs => hanswer (Blocks.emergencyRelease_notFound q.cell hs), fun slot k r hs he => ?_⟩
  obtain ⟨hconflict, htiming, hstart⟩ := Blocks.emergencyRelease_slot (b := s.blocks.disarm a) q.cell hs he
  refine ⟨fun hst => hanswer (hconflict hst), fun m hst hm => hanswer (htiming m hst hm), fun hst c hc => ?_⟩
  rw [hexec, hstart hst, Blocks.startEmergency_eq hc]
  rfl

end Sys2Proof.Machine
end

section

namespace Sys2Proof.Machine

/-! PROOF. CANCEL ROUTE of a CLEARED or HELD route (R81): the approach is read once, after the command STOP. -/

/-- R81: what the cancel does before it reads the approach leaves the clock, the image and the occupancies. -/
theorem Blocks.stopWithdrawn_kept (b : Blocks) (slot n : Nat) (f : RouteRec → RouteRec) (c : Option Nat) :
    Blocks.Kept b (((b.commandSignal slot n .stop).updRoute slot f).answerOpt c .withdrawn .none) :=
  ((((Blocks.Follows.refl false b).commandSignal slot n .stop).updRoute slot f).answerOpt c .withdrawn .none).kept

theorem Blocks.Kept.signalEntry {a b : Blocks} (h : Blocks.Kept a b) (n : Nat) : b.signalEntry n = a.signalEntry n := by
  unfold Blocks.signalEntry Blocks.image?
  rw [h.inForce]

theorem Blocks.Kept.allClear_iff {a b : Blocks} (h : Blocks.Kept a b) (ns : List Nat) :
    ns.all b.isClear = true ↔ ∀ n ∈ ns, a.occupancy n = some .clear := by
  simp only [List.all_eq_true, Blocks.isClear, beq_iff_eq, h.occupancy]

/-- R81: the release at once, or the approach timer, by the approach sections as they stand before the cancel. -/
theorem Blocks.cancelCleared_cases {b d : Blocks} {slot : Nat} {e : RouteEntry} {r : RouteRec} {g : SignalEntry}
    (cell : Nat) (hg : b.signalEntry e.entry = some g)
    (hd : d = ((b.commandSignal slot e.entry .stop).updRoute slot (fun r => { r with cell := none })).answerOpt r.cell
      .withdrawn .none) :
    ((∀ n ∈ g.approach, b.occupancy n = some .clear) ∨ e.release = 0 →
      b.cancelCleared slot e r cell = (d.wholeRelease slot).answer cell .done .none) ∧
    ((∃ n ∈ g.approach, b.occupancy n ≠ some .clear) → e.release ≠ 0 →
      b.cancelCleared slot e r cell = (d.updRoute slot (fun r => { r with
          state := .cancelling
          timer := some { kind := .approach, expiry := Clock.after b.clock (1000 * e.release) } })).answer
        cell .timing (.timer e.release (Clock.after b.clock (1000 * e.release)))) := by
  have hkept : Blocks.Kept b d := hd ▸ b.stopWithdrawn_kept slot e.entry _ r.cell
  have hclear := hkept.allClear_iff g.approach
  unfold Blocks.cancelCleared
  dsimp only
  rw [← hd, hkept.signalEntry, hg, hkept.clock]
  exact ⟨fun h => if_pos (h.imp_left hclear.mpr),
    fun ⟨n, hn, hocc⟩ hrel => if_neg fun h => h.elim (fun hall => hocc (hclear.mp hall n hn)) hrel⟩

/-- R78, R81: the cancel of a route that is CLEARED or HELD. -/
theorem Blocks.cancelRoute_cleared {b : Blocks} {q : Request} {slot : Nat} {e : RouteEntry} {r : RouteRec}
    (h : q.field 28 2 < b.count .route) (hw : ∀ w ∈ b.waiting, w.route ≠ q.field 28 2)
    (hs : b.slotOf (q.field 28 2) = some slot) (he : b.entryAt slot = some (e, r))
    (hst : r.state = .cleared ∨ r.state = .held) : b.cancelRoute q = b.cancelCleared slot e r q.cell := by
  unfold Blocks.cancelRoute
  dsimp only
  rw [if_neg (Nat.not_le.mpr h), find?_route_none hw, hs, Option.bind_some, he, Option.map_some]
  dsimp only
  rcases hst with hst | hst <;> rw [hst]

/-- Settles O36: the cancel comes to `Blocks.cancelCleared`, whose two outcomes the approach decides. -/
theorem cancelReadsTheApproach : Obligations.CancelReadsTheApproach := by
  unfold Obligations.CancelReadsTheApproach
  intro q s slot e r g b h hlt hw hs he hst hg hb
  have hexec : exec .cancelRoute s = .next (s.served (s.blocks.cancelCleared slot e r q.cell)) :=
    Blocks.cancelRoute_cleared hlt hw hs he hst ▸ State.serving_next s .cancelRoute Blocks.cancelRoute q h
  obtain ⟨hrelease, htimer⟩ := Blocks.cancelCleared_cases q.cell hg hb
  exact ⟨fun hclear => by rw [hexec, hrelease hclear], fun hocc hrel => by rw [hexec, htimer hocc hrel]⟩

end Sys2Proof.Machine
end

section

namespace Sys2Proof.Machine

/-! PROOF. The overlap of an entry, from its points at rest to its release (R98 to R102, R104). -/

/-- R99, R100: in TIMING and EXPIRED an overlap follows neither its points nor its train. -/
theorem OverlapState.not_claimed_or_locked_iff (x : OverlapState) :
    ¬ (x = .claimed ∨ x = .locked) ↔ x = .timing ∨ x = .expired := by
  cases x <;> decide

/-! ### An entry without an overlap part -/

section

variable {b : Blocks} {slot : Nat} {r : RouteRec} (hr : b.routeRec slot = some r) (hp : r.overlap = none)

include hr hp

theorem Blocks.testOverlap_absent : b.testOverlap slot = b := by
  unfold Blocks.testOverlap
  rw [hr, Option.bind_some, hp]

theorem Blocks.testOverlapTiming_absent : b.testOverlapTiming slot = b := by
  unfold Blocks.testOverlapTiming
  rw [hr]
  dsimp only
  rw [hp]
  cases b.routeEntry r.route <;> rfl

theorem Blocks.testOverlapExpired_absent : b.testOverlapExpired slot = b := by
  unfold Blocks.testOverlapExpired
  rw [hr, Option.bind_some, hp]

end

/-! ### The overlap and its points (R98, R99), its release (R102, R104) -/

section

variable {b : Blocks} {slot : Nat} {r : RouteRec} {p : OverlapPart} (hr : b.routeRec slot = some r)
  (hp : r.overlap = some p)

include hr hp

theorem Blocks.testOverlap_present : b.testOverlap slot =
    if p.state = .claimed ∨ p.state = .locked then
      b.updRoute slot (fun r => { r with overlap := some (b.newOverlapPart p.number) })
    else b := by
  unfold Blocks.testOverlap
  rw [hr, Option.bind_some, hp]

/-- R99: the state that the points of an overlap in CLAIMED or LOCKED give it. -/
theorem Blocks.testOverlap_state {o : OverlapEntry} {x : OverlapState} (ho : b.overlapEntry p.number = some o)
    (hs : p.state = .claimed ∨ p.state = .locked) (hx : x = .locked ∨ x = .claimed)
    (h : x = .locked ↔ ∀ q ∈ o.points, ∃ v, b.pointRec q.point = some v ∧ v.state = .atRest ∧ v.ref = some q.pos) :
    b.testOverlap slot = b.updRoute slot (fun r =>
      { r with overlap := some { number := p.number, state := x, expiry := none } }) := by
  rw [Blocks.testOverlap_present hr hp, if_pos hs, b.newOverlapPart_eq ho hx h]

theorem Blocks.testOverlapExpired_present : b.testOverlapExpired slot =
    if p.state = .expired ∧ b.overlapClear p.number = true then b.releaseOverlap slot else b := by
  unfold Blocks.testOverlapExpired
  rw [hr, Option.bind_some, hp]

/-- R101, R102: with every section CLEAR the timer's expiry and the test in EXPIRED give the overlap back alike. -/
theorem Blocks.overlapTimeout_clear (hc : b.overlapClear p.number = true) :
    b.overlapTimeout slot = b.releaseOverlap slot := by
  unfold Blocks.overlapTimeout
  rw [hr, Option.bind_some, hp]
  exact if_pos hc

/-- R102: what becomes of an EXPIRED overlap, and that any other stays. -/
theorem Blocks.testOverlapExpired_cases {o : OverlapEntry} (ho : b.overlapEntry p.number = some o) :
    (p.state = .expired → (∀ n ∈ o.sections, b.occupancy n = some .clear) →
      b.testOverlapExpired slot = b.overlapTimeout slot) ∧
    (p.state ≠ .expired ∨ (∃ n ∈ o.sections, b.occupancy n ≠ some .clear) → b.testOverlapExpired slot = b) := by
  have hclear := Blocks.overlapClear_iff ho
  rw [Blocks.testOverlapExpired_present hr hp]
  refine ⟨fun hs hc => ?_, fun h => if_neg fun ⟨hs, hc⟩ => ?_⟩
  · have hall := hclear.mpr hc
    exact (if_pos ⟨hs, hall⟩).trans (Blocks.overlapTimeout_clear hr hp hall).symm
  · rcases h with hne | ⟨n, hn, hocc⟩
    · exact hne hs
    · exact hocc (hclear.mp hc n hn)

end

/-! ### The train at the berth (R100) -/

/-- R100: the berth of an entry in PASSING is reached when it has its passage mark and nothing before it is open. -/
theorem Blocks.berthReached_iff {b : Blocks} {e : RouteEntry} {r : RouteRec} {n : Nat}
    (hn : e.path[e.path.length - 1]? = some n) : b.berthReached e r = true ↔
      r.state = .passing ∧ b.isPassed n = true ∧ (e.path.length ≤ 1 ∨ e.path.length - 1 ≤ r.released ∨
        ∃ m, e.path[e.path.length - 2]? = some m ∧ b.isPassed m = true) := by
  unfold Blocks.berthReached
  rw [List.getLast?_eq_getElem?, hn]
  simp only [Option.any_some, Option.any_eq_true, Bool.and_eq_true, Bool.or_eq_true, decide_eq_true_eq, and_assoc,
    or_assoc]

/-- R100: what keeps the train from having reached the berth. -/
theorem Blocks.not_berthReached {b : Blocks} {e : RouteEntry} {r : RouteRec} {n : Nat}
    (hn : e.path[e.path.length - 1]? = some n)
    (h : r.state ≠ .passing ∨ b.isPassed n = false ∨ (1 < e.path.length ∧ r.released < e.path.length - 1 ∧
      ∀ m, e.path[e.path.length - 2]? = some m → b.isPassed m = false)) : ¬ b.berthReached e r = true := by
  rw [Blocks.berthReached_iff hn]
  rintro ⟨hpass, hmark, hbefore⟩
  rcases h with hne | hno | ⟨hlen, hrel, hnone⟩
  · exact hne hpass
  · simp [hno] at hmark
  · rcases hbefore with hle | hle | ⟨m, hm, hm'⟩
    · omega
    · omega
    · simp [hnone m hm] at hm'

section

variable {b : Blocks} {slot : Nat} {e : RouteEntry} {r : RouteRec} {p : OverlapPart} {o : OverlapEntry}
  (h : b.entryAt slot = some (e, r)) (hp : r.overlap = some p) (ho : b.overlapEntry p.number = some o)

include h hp ho

theorem Blocks.testOverlapTiming_present {c : Blocks}
    (hc : c = b.updRoute slot (fun r => { r with overlap := some { p with
      state := .timing, expiry := some (Clock.after b.clock (1000 * o.release)) } })) :
    b.testOverlapTiming slot =
      if (p.state = .claimed ∨ p.state = .locked) ∧ b.berthReached e r = true then
        if o.release = 0 then c.overlapTimeout slot else c
      else b := by
  obtain ⟨hr, he⟩ := Blocks.entryAt_routeRec h
  subst hc
  unfold Blocks.testOverlapTiming
  rw [hr]
  dsimp only
  rw [he, hp]
  dsimp only
  rw [ho]

/-- R100, R101: timing starts at the berth, and with a release time of 0 it ends there. -/
theorem Blocks.testOverlapTiming_reached {c : Blocks} (hs : p.state = .claimed ∨ p.state = .locked)
    (hb : b.berthReached e r = true)
    (hc : c = b.updRoute slot (fun r => { r with overlap := some { p with
      state := .timing, expiry := some (Clock.after b.clock (1000 * o.release)) } })) :
    (o.release ≠ 0 → b.testOverlapTiming slot = c) ∧
    (o.release = 0 → b.testOverlapTiming slot = c.overlapTimeout slot) := by
  rw [Blocks.testOverlapTiming_present h hp ho hc, if_pos ⟨hs, hb⟩]
  exact ⟨fun hz => if_neg hz, fun hz => if_pos hz⟩

theorem Blocks.testOverlapTiming_idle
    (hn : ¬ ((p.state = .claimed ∨ p.state = .locked) ∧ b.berthReached e r = true)) : b.testOverlapTiming slot = b := by
  rw [Blocks.testOverlapTiming_present h hp ho rfl, if_neg hn]

end

/-- Settles O49: each of the three tests by the state of the overlap part, and the timer's expiry by its sections. -/
theorem overlapsLockTimeAndEnd : Obligations.OverlapsLockTimeAndEnd := by
  unfold Obligations.OverlapsLockTimeAndEnd
  intro b slot e r h
  obtain ⟨hr, -⟩ := Blocks.entryAt_routeRec h
  refine ⟨fun hp => ⟨Blocks.testOverlap_absent hr hp, Blocks.testOverlapTiming_absent hr hp,
    Blocks.testOverlapExpired_absent hr hp⟩, ?_⟩
  rintro p o _ hp ho rfl
  obtain ⟨hback, hexpires⟩ := Blocks.overlapTimeout_cases hr hp ho
  obtain ⟨hgiven, hstays⟩ := Blocks.testOverlapExpired_cases hr hp ho
  refine ⟨fun hs => ⟨fun hrest => ?_, fun ⟨q, hq, hoff⟩ => ?_⟩, fun hs => ?_, ?_, hback, hexpires,
    fun hs hclear => (hgiven hs hclear).trans (hback hclear), hstays⟩
  · exact Blocks.testOverlap_state hr hp ho hs (.inl rfl) ⟨fun _ => hrest, fun _ => rfl⟩
  · refine Blocks.testOverlap_state hr hp ho hs (.inr rfl) ⟨nofun, fun hrest => ?_⟩
    obtain ⟨v, hv, hat, href⟩ := hrest q hq
    exact ((hoff v hv).elim (· hat) (· href)).elim
  · rw [Blocks.testOverlap_present hr hp, if_neg (p.state.not_claimed_or_locked_iff.mpr hs)]
  · rintro n _ rfl hpos hn
    refine ⟨fun hs hpass hmark hbefore c hc => ?_, fun hnot => ?_⟩
    · exact Blocks.testOverlapTiming_reached h hp ho hs
        ((Blocks.berthReached_iff hn).mpr ⟨hpass, hmark, hbefore.imp_left Nat.le_of_eq⟩) hc
    · refine Blocks.testOverlapTiming_idle h hp ho fun ⟨hs, hreached⟩ => ?_
      rcases hnot with htiming | hexpired | hnot
      · exact p.state.not_claimed_or_locked_iff.mpr (.inl htiming) hs
      · exact p.state.not_claimed_or_locked_iff.mpr (.inr hexpired) hs
      · exact Blocks.not_berthReached hn hnot hreached

end Sys2Proof.Machine
end

section

namespace Sys2Proof.Machine

/-! PROOF. RESET_ASSERTED (R182): what the reset cuts off, and the state held. -/

/-- R174, R107: a reset loses the writes and the exchanges; of a commit write it may leave anything in the store (R179),
and it leaves the rest. -/
theorem Blocks.cutOff_frame (b : Blocks) : ∃ i p, b.cutOff = { b with
    stored := i, persistent := p, running := none, writes := []
    busA := { b.busA with exchange := none }, busB := { b.busB with exchange := none } } := by
  unfold Blocks.cutOff Blocks.loseWrites
  dsimp only
  split
  · exact ⟨_, _, rfl⟩
  · exact ⟨_, _, rfl⟩

/-- R190: the notices after a class is latched on a condition. -/
theorem Port.latchIf_notice (p : Port) (q : Bool) (c : BitVec 6) :
    (p.latchIf q c).notice = if q then p.notice ||| c else p.notice := by
  cases q <;> rfl

/-- R172, R182: held in reset the SAFE line is low. -/
theorem State.safe_of_held {s : State} (h : s.held = true) : s.safe = false := by
  unfold State.safe
  rw [h]
  rfl

/-- A supervisor held already is left as it is (log entry 2). -/
theorem exec_resetAsserted_held {s : State} (h : s.held = true) : exec .resetAsserted s = .next s := if_pos h

theorem exec_resetAsserted {s : State} (h : s.held = false) : exec .resetAsserted s = .next s.hold :=
  if_neg (Bool.not_eq_true _ ▸ h)

/-- Settles O19: held already, the state stands; else it is `State.hold`, whose blocks are those cut off. -/
theorem resetAssertedHolds : Obligations.ResetAssertedHolds := by
  unfold Obligations.ResetAssertedHolds
  intro s
  cases hheld : s.held with
  | true =>
    rw [exec_resetAsserted_held hheld]
    exact ⟨hheld, State.safe_of_held hheld, fun _ => rfl, nofun⟩
  | false =>
    rw [exec_resetAsserted hheld]
    refine ⟨rfl, State.safe_of_held rfl, nofun, fun _ => ?_⟩
    obtain ⟨_, _, hcut⟩ := s.blocks.cutOff_frame
    have hblocks : s.hold.blocks = _ := hcut
    rw [hblocks]
    exact ⟨rfl, rfl, rfl, rfl, rfl, Port.latchIf_hostMem _ _ _, Port.latchIf_mirrorMem _ _ _,
      Port.latchIf_intake _ _ _, Port.latchIf_notice _ _ _⟩

end Sys2Proof.Machine
end

section

namespace Sys2Proof.Machine

/-! PROOF. An exchange up to its timeout, and the miss (R111, R112, R114). -/

/-! ### Events that leave the exchange outstanding (R111, R112) -/

theorem Blocks.settle_exchange (b : Blocks) (x : Bus) : (b.settle.busRec x).exchange = (b.busRec x).exchange := by
  have hcalm := (Blocks.Follows.settle (full := true) b).calm rfl
  generalize b.settle = d at hcalm ⊢
  cases x
  · exact hcalm.exchangeA
  · exact hcalm.exchangeB

/-- In HALTED, where an event has no follow-ups, the end of one without answers and alarms leaves what it makes of the
blocks. -/
theorem Blocks.After.of_halted (s : State) (p : Port) (c : Blocks) (hm : c.mode = .halted)
    (hi : c.freeIndex = s.blocks.freeIndex) (ha : c.work.alarms = []) : c.After (s.finish p c).blocks := by
  have hchecks : ∀ q, c.closeChecks q = c := fun q => by
    unfold Blocks.closeChecks
    rw [hm]
    exact if_neg (by simp)
  rw [State.finish_eq s p c c (hchecks _), Blocks.enterAlarms_none c ha, ← hi]
  exact ⟨⟨rfl, rfl, rfl, rfl, rfl, rfl, rfl, rfl, rfl, rfl, rfl, rfl, rfl⟩, .inl rfl,
    fun _ => ⟨rfl, rfl, rfl, rfl, rfl, rfl, rfl, rfl, rfl⟩, fun _ => rfl⟩

/-- An event of a bus that leaves an exchange outstanding begins no poll (R120): it ends like any other event. -/
theorem State.busEvent_busy (s : State) (x : Bus) (f : Blocks → Option Blocks) (c : Blocks) (hheld : s.held = false)
    (hf : f s.blocks = some c) (hx : (c.busRec x).exchange ≠ none) (hi : c.freeIndex = s.blocks.freeIndex)
    (hw : c.work = Work.empty) : goesOn (s.busEvent x f) (fun t => c.After t.blocks) := by
  rw [State.busEvent_next s x f c hheld hf]
  have halarms := congrArg Work.alarms hw
  by_cases hm : c.mode = .halted
  · rw [if_pos hm, Blocks.startPoll_busy hx]
    exact Blocks.After.of_halted s s.port c hm hi halarms
  · rw [if_neg hm, Blocks.startPoll_busy ((c.settle_exchange x).trans_ne hx)]
    exact State.ended_silent s c hi (congrArg Work.answers hw) halarms

/-- The same for an event that replaces the exchange alone. -/
theorem State.busEvent_exchange (s : State) (x : Bus) (f : Blocks → Option Blocks) (e : Exchange)
    (hheld : s.held = false) (hw : s.blocks.work = Work.empty)
    (hf : f s.blocks = some (s.blocks.setBus x { s.blocks.busRec x with exchange := some e })) :
    goesOn (s.busEvent x f)
      (fun t => (s.blocks.setBus x { s.blocks.busRec x with exchange := some e }).After t.blocks) := by
  refine State.busEvent_busy s x f _ hheld hf ?_ ?_ ?_
  · rw [Blocks.busRec_setBus]
    nofun
  · cases x <;> rfl
  · cases x <;> exact hw

section

variable {b : Blocks} {x : Bus} {e : Exchange} (he : (b.busRec x).exchange = some e)

include he

/-- R111: the end of the command telegram is the exchange's end time. -/
theorem Blocks.telegramEnd_open (hend : e.endTime = none) : b.telegramEnd x =
    some (b.setBus x { b.busRec x with exchange := some { e with endTime := some b.clock } }) := by
  unfold Blocks.telegramEnd
  simp [he, hend]

/-- R112: the first complete reply, not valid, spends the exchange. -/
theorem Blocks.replyComplete_invalid {k : UnitEntry} {u : UnitRec} {chars : List LineChar} {r : Reply}
    (hm : b.mode ≠ .halted) (hspent : e.spent = false) (htime : e.inTime b.clock = true)
    (hk : b.unitEntry e.unit = some k) (hu : b.unitRec e.unit = some u)
    (hr : collectReply k.slots.length chars = some r) (hv : validReply k e.seq r = none) :
    b.replyComplete x chars = some (b.setBus x { b.busRec x with exchange := some { e with spent := true } }) := by
  unfold Blocks.replyComplete
  simp [he, hk, hu, hspent, htime, hr, hv, hm]

/-- R111: at the timeout the exchange is closed with a miss of its unit. -/
theorem Blocks.replyTimeout_reached {at0 : Clock} {u : UnitRec} (hm : b.mode ≠ .halted) (hend : e.endTime = some at0)
    (hreached : Clock.reached b.clock (Clock.after at0 20) = true) (hu : b.unitRec e.unit = some u) :
    b.replyTimeout x = some ((b.closeExchange x).takeMiss e.unit u (Clock.after at0 20)) := by
  unfold Blocks.replyTimeout
  simp [he, hend, hreached, hm, hu]

end

/-! ### The miss (R114) -/

/-- R108: a unit that is known stays so at a miss. -/
theorem missState_ne_unknown {k : UnitState} (h : k ≠ .unknown) (miss : Nat) : (missState k miss).1 ≠ .unknown := by
  unfold missState
  split
  · nofun
  · nofun
  · exact absurd rfl h
  · split
    · nofun
    · exact h

/-- R117: of the unit's record a change of its state handed on leaves all but the last status, which goes with the entry
to LOST or FAULT. -/
theorem Blocks.UnitIs.unitChanged {b : Blocks} {n : Nat} {k : UnitState} {miss good : Nat}
    {last : Option (List SlotStatus)} {reply : Option Clock} (h : b.UnitIs n (k, miss, good, last, reply))
    (k' : UnitState) (t : Clock) :
    (b.unitChanged n k' t).UnitIs n (k, miss, good, if k' = .lost ∨ k' = .fault then none else last, reply) := by
  have halarms := h.of_kept (Blocks.unitAlarms_unitsKept b n t k')
  have hforgot := halarms.updUnit (f := fun u => { u with lastStatus := none }) (k' := (k, miss, good, none, reply))
    fun w hw => by
      simp only [UnitRec.kept, Prod.mk.injEq] at hw ⊢
      simp [hw]
  have hlost := hforgot.of_kept (Blocks.loseUnit_unitsKept _ n t)
  unfold Blocks.unitChanged
  cases k' with
  | active => exact halarms.of_kept (Blocks.unitSeen_unitsKept _ n)
  | lost => exact hlost.of_kept (Blocks.unitSeen_unitsKept _ n)
  | fault => exact hlost
  | unknown => exact halarms
  | syncing => exact halarms
  | suspect => exact halarms

/-- R114: the record of the unit after a miss. -/
theorem Blocks.takeMiss_unit {b : Blocks} {n : Nat} {u : UnitRec} (hu : b.UnitIs n u.kept) (t : Clock) : ∃ last,
    (b.takeMiss n u t).UnitIs n
      ((missState u.state u.miss).1, (missState u.state u.miss).2, 0, last, u.lastReply) := by
  have hmoved := hu.updUnit
    (f := fun u' => { u' with state := (missState u.state u.miss).1, miss := (missState u.state u.miss).2, good := 0 })
    (k' := ((missState u.state u.miss).1, (missState u.state u.miss).2, 0, u.lastStatus, u.lastReply)) fun w hw => by
      simp only [UnitRec.kept, Prod.mk.injEq] at hw ⊢
      simp [hw]
  unfold Blocks.takeMiss
  dsimp only
  split
  · exact ⟨_, hmoved⟩
  · exact ⟨_, hmoved.unitChanged _ t⟩

/-- REPLY_TIMEOUT as an event, and the unit after it. -/
theorem State.replyTimeout_unit {s : State} {x : Bus} {e : Exchange} {at0 : Clock} {u : UnitRec}
    (hawake : s.asleep = false) (he : (s.blocks.busRec x).exchange = some e) (hend : e.endTime = some at0)
    (hreached : Clock.reached s.blocks.clock (Clock.after at0 20) = true) (hu : s.blocks.unitRec e.unit = some u)
    (hknown : u.state ≠ .unknown) : ∃ t last, exec (.replyTimeout x) s = .next t ∧ t.blocks.UnitIs e.unit
      ((missState u.state u.miss).1, (missState u.state u.miss).2, 0, last, u.lastReply) := by
  obtain ⟨hheld, hm⟩ := State.asleep_false hawake
  have hsome := Blocks.replyTimeout_reached he hm hend hreached hu
  have hnext := State.busEvent_next s x (fun b => b.replyTimeout x) _ hheld hsome
  rw [if_neg (((Blocks.Neutral.refl s.blocks).replyTimeout x hsome).awake hm)] at hnext
  have hclosed : (s.blocks.closeExchange x).UnitIs e.unit u.kept :=
    Blocks.UnitIs.of_kept (b := s.blocks) ⟨u, hu, rfl⟩ (by cases x <;> rfl)
  obtain ⟨last, hmissed⟩ := Blocks.takeMiss_unit hclosed (Clock.after at0 20)
  exact ⟨_, last, hnext, s.finish_startPoll_unit s.port hmissed (missState_ne_unknown hknown u.miss)⟩

/-- Settles O43: the two events that leave the exchange outstanding end like any other; the timeout, by the record of
the unit after a miss and the table of R114. -/
theorem exchangesLastToTheirTimeoutAndMiss : Obligations.ExchangesLastToTheirTimeoutAndMiss := by
  unfold Obligations.ExchangesLastToTheirTimeoutAndMiss
  refine ⟨fun x e s hheld hset he => ?_, fun x e at0 u s hawake _ he hend hreached hu hknown => ?_⟩
  · have hwork : s.blocks.work = Work.empty := eq_of_beq hset
    refine ⟨fun hend => ?_, fun k u chars r hm hspent htime hk hu hr hv => ?_⟩
    · exact State.busEvent_exchange s x (·.telegramEnd x) _ hheld hwork (Blocks.telegramEnd_open he hend)
    · exact State.busEvent_exchange s x (·.replyComplete x chars) _ hheld hwork
        (Blocks.replyComplete_invalid he hm hspent htime hk hu hr hv)
  · obtain ⟨t, last, hexec, v, hv, hkept⟩ := State.replyTimeout_unit hawake he hend hreached hu hknown
    obtain ⟨hstate, hmiss, hgood, -⟩ : v.state = _ ∧ v.miss = _ ∧ v.good = _ ∧ _ := by
      simpa only [UnitRec.kept, Prod.mk.injEq] using hkept
    rw [hexec]
    refine ⟨v, hv, hgood, ?_⟩
    rw [hstate, hmiss]
    cases hk : u.state with
    | unknown => exact absurd hk hknown
    | active => rfl
    | lost => rfl
    | syncing => rfl
    | suspect => rfl
    | fault => rfl

end Sys2Proof.Machine
end

section

namespace Sys2Proof.Machine

/-! PROOF. What the changes of a line's record and of the store write list come to, and TOKEN RESTORE (R134, R158,
R174). -/

/-! ### Changes shown by the mirrors -/

/-- Blocks c are blocks x but for the mirrors marked. -/
def Blocks.Marked (x c : Blocks) : Prop := ∃ d, c = { x with work := { x.work with dirty := d } }

namespace Blocks.Marked

variable {x c : Blocks}

theorem refl (x : Blocks) : Marked x x := ⟨_, rfl⟩

theorem trans {y : Blocks} (g : Marked x y) (h : Marked y c) : Marked x c := by
  obtain ⟨_, rfl⟩ := g
  obtain ⟨d, rfl⟩ := h
  exact ⟨d, rfl⟩

theorem raiseAlarm (h : Marked x c) (k : AlarmKind) (e : Element) (t : Clock) :
    Marked (x.raiseAlarm k e t) (c.raiseAlarm k e t) := by
  obtain ⟨d, rfl⟩ := h
  exact ⟨d, rfl⟩

theorem endAlarm (h : Marked x c) (k : AlarmKind) (e : Element) (t : Clock) :
    Marked (x.endAlarm k e t) (c.endAlarm k e t) := by
  obtain ⟨d, rfl⟩ := h
  exact ⟨d, rfl⟩

theorem noticeTokenHeld (h : Marked x c) : Marked x.noticeTokenHeld c.noticeTokenHeld := by
  obtain ⟨d, rfl⟩ := h
  exact ⟨d, rfl⟩

theorem setCollected (h : Marked x c) (port : Nat) (cs : List LineChar) :
    Marked (x.setCollected port cs) (c.setCollected port cs) := by
  obtain ⟨d, rfl⟩ := h
  exact ⟨d, rfl⟩

theorem withWrite (h : Marked x c) (w : Write) : Marked (x.withWrite w) (c.withWrite w) := by
  obtain ⟨d, rfl⟩ := h
  refine ⟨d, ?_⟩
  unfold Blocks.withWrite
  dsimp only
  split
  · rfl
  · rfl

/-- An event without answers and alarms. -/
theorem after (h : Marked x c) (s : State) (p : Port) (hi : x.freeIndex = s.blocks.freeIndex)
    (ha : x.work.answers = []) (hl : x.work.alarms = []) : x.After (s.finish p c.settle).blocks := by
  obtain ⟨d, rfl⟩ := h
  have hfine : (Port.writeAnswers x.clock p x.work.answers).2 = false := by
    rw [ha]
    rfl
  have hafter := Blocks.After.of_silent s p { x with work := { x.work with dirty := d } } hi hfine hl
  exact hafter.of_work x.work rfl (Blocks.quiet_congr rfl rfl rfl rfl rfl rfl rfl)

/-- An event without answers whose one alarm is raised. -/
theorem after_raise {k : AlarmKind} {e : Element} {t : Clock} (h : Marked (x.raiseAlarm k e t) c) (s : State) (p : Port)
    (hi : x.freeIndex = s.blocks.freeIndex) (ha : x.work.answers = []) (hl : x.work.alarms = []) :
    (x.enterRaise k e t).After (s.finish p c.settle).blocks := by
  obtain ⟨d, rfl⟩ := h
  refine Blocks.After.of_op s p _ x (.raised k e t) rfl hi ?_ ?_ rfl rfl rfl
  · show (Port.writeAnswers _ p x.work.answers).2 = false
    rw [ha]
    rfl
  · show x.work.alarms ++ [_] = _
    rw [hl]
    rfl

/-- An event without answers in which one condition ends. -/
theorem after_end {k : AlarmKind} {e : Element} {t : Clock} (h : Marked (x.endAlarm k e t) c) (s : State) (p : Port)
    (hi : x.freeIndex = s.blocks.freeIndex) (ha : x.work.answers = []) (hl : x.work.alarms = []) :
    (x.enterEnd k e t).After (s.finish p c.settle).blocks := by
  obtain ⟨d, rfl⟩ := h
  refine Blocks.After.of_op s p _ x (.ended k e t) rfl hi ?_ ?_ rfl rfl rfl
  · show (Port.writeAnswers _ p x.work.answers).2 = false
    rw [ha]
    rfl
  · show x.work.alarms ++ [_] = _
    rw [hl]
    rfl

end Blocks.Marked

/-! ### A line's record changed, and a write queued -/

/-- A change of a line record: the record replaced, and its mirror. -/
theorem Blocks.updLine_marked {b : Blocks} {n : Nat} {l : LineRec} (hl : b.lineRec n = some l)
    (f : LineRec → LineRec) : Blocks.Marked (b.withLine n (f l)) (b.updLine n f) := by
  unfold Blocks.updLine
  rw [hl]
  dsimp only
  split
  · rename_i hf
    obtain ⟨hn, hval⟩ := List.getElem?_eq_some_iff.mp (Blocks.Follows.getElem?_of_join hl)
    refine ⟨b.work.dirty, ?_⟩
    unfold Blocks.withLine
    rw [hf, ← hval, List.set_getElem_self]
  · exact ⟨_, rfl⟩

/-- A change of a line goes by what it makes of the line's record. -/
theorem Blocks.updLine_congr {b : Blocks} {n : Nat} {l : LineRec} {f g : LineRec → LineRec}
    (hl : b.lineRec n = some l) (h : f l = g l) : b.updLine n f = b.updLine n g := by
  unfold Blocks.updLine
  rw [hl]
  dsimp only
  rw [h]

theorem Blocks.mark_mark (b : Blocks) (r : MirrorRec) : (b.mark r).mark r = b.mark r := by
  have hmem : (b.mark r).work.dirty.contains r = true := by
    show (if b.work.dirty.contains r then b.work.dirty else b.work.dirty ++ [r]).contains r = true
    split
    · assumption
    · simp
  conv_lhs => rw [Blocks.mark]
  rw [if_pos hmem]

/-- Two changes of a line's record in turn are one, where the second does not undo the first. -/
theorem Blocks.updLine_updLine {b : Blocks} {n : Nat} {l : LineRec} {f g : LineRec → LineRec}
    (hl : b.lineRec n = some l) (h : g (f l) ≠ l) :
    (b.updLine n f).updLine n g = b.updLine n (fun l => g (f l)) := by
  have hget : b.lines[n]? = some (some l) := Blocks.Follows.getElem?_of_join hl
  have hlen : n < b.lines.length := (List.getElem?_eq_some_iff.mp hget).1
  by_cases hf : f l = l
  · have hsame : b.updLine n f = b := by
      unfold Blocks.updLine
      rw [hl]
      exact if_pos hf
    rw [hsame]
    exact Blocks.updLine_congr hl (congrArg g hf.symm)
  have hfirst : b.updLine n f = (b.withLine n (f l)).mark (.line n) := by
    unfold Blocks.updLine
    rw [hl]
    exact if_neg hf
  have hboth : b.updLine n (fun l => g (f l)) = (b.withLine n (g (f l))).mark (.line n) := by
    unfold Blocks.updLine
    rw [hl]
    exact if_neg h
  have hrec : ((b.withLine n (f l)).mark (.line n)).lineRec n = some (f l) := by
    show ((b.lines.set n (some (f l)))[n]?).join = _
    rw [List.getElem?_set_self hlen]
    rfl
  rw [hfirst, hboth]
  unfold Blocks.updLine
  rw [hrec]
  dsimp only
  split
  · rename_i hg
    rw [hg]
  · have hset : ({ (b.withLine n (f l)).mark (.line n) with
        lines := ((b.withLine n (f l)).mark (.line n)).lines.set n (some (g (f l))) } : Blocks) =
        (b.withLine n (g (f l))).mark (.line n) := by
      show ({ (b.withLine n (g (f l))).mark (.line n) with
        lines := (b.lines.set n (some (f l))).set n (some (g (f l))) } : Blocks) = _
      rw [List.set_set]
      rfl
    rw [hset, Blocks.mark_mark]

/-- R174: a write queued with room in the list. -/
theorem Blocks.queueRecord_room {b : Blocks} (h : b.writes.length < 32) (v : RecordValue) (r : Report) :
    b.queueRecord v r = b.withWrite (.record v r) := by
  unfold Blocks.queueRecord Blocks.withWrite
  rw [if_neg (Nat.not_le.mpr h)]
  simp only [Option.isNone_iff_eq_none, List.isEmpty_iff]

theorem Blocks.withWrite_frame (b : Blocks) (w : Write) : ∃ r ws,
    b.withWrite w = { b with running := r, writes := ws } := by
  unfold Blocks.withWrite
  split
  · exact ⟨_, _, rfl⟩
  · exact ⟨_, _, rfl⟩

/-- R132 to R134: a change of a line's record with its write, with room in the store's list. -/
theorem Blocks.updLine_queued {b : Blocks} {n : Nat} {l : LineRec} (hl : b.lineRec n = some l)
    (hroom : b.writes.length < 32) (f : LineRec → LineRec) (v : RecordValue) (r : Report) :
    Blocks.Marked ((b.withLine n (f l)).withWrite (.record v r)) ((b.updLine n f).queueRecord v r) := by
  have h := Blocks.updLine_marked hl f
  have hwrites : (b.updLine n f).writes = b.writes := by
    obtain ⟨d, e⟩ := h
    rw [e]
    rfl
  rw [Blocks.queueRecord_room (hwrites ▸ hroom)]
  exact h.withWrite _

theorem Blocks.withLine_rec {b : Blocks} {n : Nat} {l : LineRec} (hl : b.lineRec n = some l) (m : LineRec) :
    (b.withLine n m).lineRec n = some m := by
  have hget : b.lines[n]? = some (some l) := Blocks.Follows.getElem?_of_join hl
  show ((b.lines.set n (some m))[n]?).join = _
  rw [List.getElem?_set_self (List.getElem?_eq_some_iff.mp hget).1]
  rfl

theorem Blocks.queued_lineRec {b : Blocks} {n : Nat} {l : LineRec} (hl : b.lineRec n = some l)
    (hroom : b.writes.length < 32) (f : LineRec → LineRec) (v : RecordValue) (r : Report) :
    ((b.updLine n f).queueRecord v r).lineRec n = some (f l) := by
  obtain ⟨_, hset⟩ := Blocks.updLine_queued hl hroom f v r
  obtain ⟨_, _, hwrite⟩ := (b.withLine n (f l)).withWrite_frame (.record v r)
  rw [hset, hwrite]
  exact Blocks.withLine_rec hl (f l)

/-- A write queued leaves what the event hands on. -/
theorem Blocks.withWrite_idle (b : Blocks) (w : Write) :
    (b.withWrite w).freeIndex = b.freeIndex ∧ (b.withWrite w).work = b.work := by
  obtain ⟨_, _, e⟩ := b.withWrite_frame w
  rw [e]
  exact ⟨rfl, rfl⟩

/-- R161: the end of a condition and the notice of a token HELD do not see each other. -/
theorem Blocks.enterEnd_tokenHeld (b : Blocks) (k : AlarmKind) (e : Element) (t : Clock) :
    b.noticeTokenHeld.enterEnd k e t = (b.enterEnd k e t).noticeTokenHeld := by
  have hwork : (b.enterEnd k e t).work = b.work := by
    obtain ⟨_, _, _, h⟩ := b.enterOp_eq (.ended k e t)
    change b.enterEnd k e t = _ at h
    rw [h]
  unfold Blocks.noticeTokenHeld
  rw [Blocks.enterEnd_setWork, hwork]

section

variable {b : Blocks} {n : Nat} {l : LineRec} (hl : b.lineRec n = some l) (hroom : b.writes.length < 32) (s : State)
  (p : Port) (hi : b.freeIndex = s.blocks.freeIndex) (ha : b.work.answers = []) (ho : b.work.alarms = [])
  (f : LineRec → LineRec) (v : RecordValue) (r : Report)

include hl hroom hi ha ho

/-- An event that changes a line's record and queues its write. -/
theorem State.lineWritten_after : ((b.withLine n (f l)).withWrite (.record v r)).After
    (s.finish p ((b.updLine n f).queueRecord v r).settle).blocks := by
  obtain ⟨hindex, hidle⟩ := (b.withLine n (f l)).withWrite_idle (.record v r)
  exact (Blocks.updLine_queued hl hroom f v r).after s p (hindex.trans hi)
    ((congrArg Work.answers hidle).trans ha) ((congrArg Work.alarms hidle).trans ho)

/-- The same with a token now HELD. -/
theorem State.tokenWritten_after : ((b.withLine n (f l)).withWrite (.record v r)).noticeTokenHeld.After
    (s.finish p ((b.updLine n f).queueRecord v r).noticeTokenHeld.settle).blocks := by
  obtain ⟨hindex, hidle⟩ := (b.withLine n (f l)).withWrite_idle (.record v r)
  exact (Blocks.updLine_queued hl hroom f v r).noticeTokenHeld.after s p (hindex.trans hi)
    ((congrArg Work.answers hidle).trans ha) ((congrArg Work.alarms hidle).trans ho)

/-- The same with the end of a condition before. -/
theorem State.tokenWritten_end (k : AlarmKind) (e : Element) (t : Clock) :
    (((b.withLine n (f l)).withWrite (.record v r)).enterEnd k e t).noticeTokenHeld.After
      (s.finish p ((((b.updLine n f).queueRecord v r).endAlarm k e t).noticeTokenHeld).settle).blocks := by
  obtain ⟨hindex, hidle⟩ := (b.withLine n (f l)).withWrite_idle (.record v r)
  have hset := ((Blocks.updLine_queued hl hroom f v r).endAlarm k e t).noticeTokenHeld
  rw [← Blocks.enterEnd_tokenHeld]
  exact Blocks.Marked.after_end (x := Blocks.noticeTokenHeld _) hset s p (hindex.trans hi)
    ((congrArg Work.answers hidle).trans ha) ((congrArg Work.alarms hidle).trans ho)

end

/-! ### TOKEN RESTORE (R158) -/

/-- R158: the preconditions in their order, for a fitted line. -/
theorem Blocks.tokenRestore_eq {b : Blocks} {e : Element} {k : LineEntry} {l : LineRec} (cell : Nat)
    (hk : b.lineEntry e.number = some k) (hl : b.lineRec e.number = some l) : b.tokenRestore e cell =
      if l.token ≠ some .blocked then b.answer cell .conflict (.precondition .notBlocked)
      else if b.linkUp (e.number / 4) = false then b.answer cell .conflict (.precondition .linkNotUp)
      else if l.view.map (·.token) ≠ some .notHeld then b.answer cell .conflict (.precondition .neighbourView)
      else if b.occupancy k.border ≠ some .clear then b.answer cell .conflict (.precondition .sectionNotClear)
      else ((b.setToken e.number .held (doneAfterWrite cell)).endAlarm .tokenDisagreement (.line e.number)
        b.clock).noticeTokenHeld := by
  have hup : (!b.linkUp (portOf e.number)) = true ↔ b.linkUp (e.number / 4) = false := by simp [portOf]
  have hview : (!l.view.any (fun v => v.token = .notHeld)) = true ↔ l.view.map (·.token) ≠ some .notHeld := by
    cases l.view <;> simp
  have hclear : (!b.isClear k.border) = true ↔ b.occupancy k.border ≠ some .clear := by simp [Blocks.isClear]
  unfold Blocks.tokenRestore
  rw [hk, hl]
  simp only [hup, hview, hclear]
  rfl

/-- Settles O29: the preconditions in turn (`Blocks.tokenRestore_eq`), each answered in its event; then the token with
its write, as an event with one end of a condition. -/
theorem tokenRestoreRestores : Obligations.TokenRestoreRestores := by
  unfold Obligations.TokenRestoreRestores
  intro q s e a k l h hk hl
  obtain ⟨-, -, -, -, -, hwork⟩ := h.1
  have hexec : exec .tokenRestore s = .next (s.served ((s.blocks.disarm a).tokenRestore e q.cell)) :=
    State.executing_next h Blocks.tokenRestore
  rw [Blocks.tokenRestore_eq (b := s.blocks.disarm a) q.cell hk hl,
    show (s.blocks.disarm a).linkUp = s.blocks.linkUp from rfl,
    show (s.blocks.disarm a).occupancy = s.blocks.occupancy from rfl] at hexec
  refine ⟨fun ht => State.executing_answers h _ _ (hexec.trans (by rw [if_pos ht])), fun ht hdown => ?_,
    fun ht hup => ?_⟩
  · rw [if_neg (not_not.mpr ht), if_pos hdown] at hexec
    exact State.executing_answers h _ _ hexec
  rw [if_neg (not_not.mpr ht), if_neg (by rw [hup]; decide)] at hexec
  refine ⟨fun hview => ?_, fun v hv htoken => ⟨fun hocc => ?_, fun hclear => ?_⟩⟩
  · have hother : l.view.map (·.token) ≠ some .notHeld := fun hm => by
      obtain ⟨v, hv, hheld⟩ := Option.map_eq_some_iff.mp hm
      exact hview v hv hheld
    rw [if_pos hother] at hexec
    exact State.executing_answers h _ _ hexec
  · rw [if_neg (by rw [hv, Option.map_some, htoken]; decide), if_pos hocc] at hexec
    exact State.executing_answers h _ _ hexec
  rw [if_neg (by rw [hv, Option.map_some, htoken]; decide), if_neg (not_not.mpr hclear)] at hexec
  refine ⟨hexec, fun hroom => ?_⟩
  rw [hexec]
  refine ⟨?_, State.tokenWritten_end (b := s.blocks.disarm a) hl hroom s { s.port with handed := none } rfl
    (congrArg Work.answers hwork) (congrArg Work.alarms hwork) (fun l => { l with token := some .held }) _ _ _ _ _⟩
  have hrec : ((s.blocks.disarm a).setToken e.number .held (doneAfterWrite q.cell)).lineRec e.number =
      some { l with token := some .held } :=
    Blocks.queued_lineRec (b := s.blocks.disarm a) hl hroom (fun l => { l with token := some .held }) _ _
  generalize (s.blocks.disarm a).setToken e.number .held (doneAfterWrite q.cell) = c at hrec ⊢
  rw [(State.served_kept s _).token]
  exact congrArg (Option.map (·.token)) hrec

end Sys2Proof.Machine
end

section

namespace Sys2Proof.Machine

/-! PROOF. TOKEN ASK, TOKEN GIVE and TOKEN DECLINE on a link that is UP (R131 to R133). -/

section

variable {b : Blocks} {n : Nat} {k : LineEntry} {l : LineRec} (hk : b.lineEntry n = some k) (hl : b.lineRec n = some l)

include hk hl

/-! ### TOKEN ASK (R132) -/

theorem Blocks.onTokenAsk_declined (h : k.mode ≠ .bidirectional ∨ (l.givePending = false ∧ (l.token ≠ some .held ∨
      l.disagreement = true ∨ b.mode ≠ .service ∨ b.occupancy k.border ≠ some .clear ∨
      (b.sectionRec k.border).any (fun r => r.owner ≠ .free) = true ∨ b.hasHolding n = true))) :
    b.onTokenAsk n = b.sendLine n (.tokenDecline n) := by
  unfold Blocks.onTokenAsk
  rw [hk, hl]
  dsimp only
  by_cases hm : k.mode ≠ .bidirectional
  · exact if_pos hm
  obtain ⟨hpending, h⟩ := h.resolve_left hm
  rw [if_neg hm, if_neg (by rw [hpending]; decide)]
  by_cases ht : l.token ≠ some .held ∨ l.disagreement = true
  · exact if_pos ht
  rw [if_neg ht]
  rw [← or_assoc] at h
  replace h := h.resolve_left ht
  by_cases hs : b.mode ≠ .service
  · exact if_pos hs
  rw [if_neg hs]
  replace h := h.resolve_left hs
  have hclear : (!b.isClear k.border) = true ↔ b.occupancy k.border ≠ some .clear := by simp [Blocks.isClear]
  rw [← or_assoc, ← hclear] at h
  split
  · rfl
  · rename_i hfree
    exact if_pos (h.resolve_left hfree)

theorem Blocks.onTokenAsk_pending (hm : k.mode = .bidirectional) (hp : l.givePending = true) : b.onTokenAsk n = b := by
  unfold Blocks.onTokenAsk
  rw [hk, hl]
  dsimp only
  rw [if_neg (not_not.mpr hm), if_pos hp]

/-- R132: the give: NOT_HELD is recorded, and its write queued. -/
theorem Blocks.onTokenAsk_gives (hm : k.mode = .bidirectional) (hp : l.givePending = false)
    (ht : l.token = some .held) (hd : l.disagreement = false) (hs : b.mode = .service)
    (hc : b.occupancy k.border = some .clear) (hf : (b.sectionRec k.border).any (fun r => r.owner ≠ .free) = false)
    (hh : b.hasHolding n = false) : b.onTokenAsk n =
      (b.updLine n (fun l => { l with givePending := true, token := some .notHeld })).queueRecord
        (.token n .notHeld) (.give n) := by
  have hclear : b.isClear k.border = true := by simp [Blocks.isClear, hc]
  have hchange : ({ l with givePending := true, token := some .notHeld } : LineRec) ≠ l := fun e => by
    have := congrArg LineRec.token e
    rw [ht] at this
    cases this
  unfold Blocks.onTokenAsk
  rw [hk, hl]
  dsimp only
  rw [if_neg (not_not.mpr hm), if_neg (by rw [hp]; decide), if_neg (by simp [ht, hd]), if_neg (not_not.mpr hs),
    if_neg (by simp only [hclear, hf]; decide), if_neg (by rw [hh]; decide)]
  unfold Blocks.setToken
  rw [Blocks.updLine_updLine hl hchange]

/-! ### TOKEN GIVE (R133) -/

/-- R133: a TOKEN GIVE taken. -/
theorem Blocks.onTokenGive_taken (hm : k.mode = .bidirectional) (ht : l.token = some .notHeld)
    (hr : l.reception = none) : b.onTokenGive n =
      ((b.updLine n (fun l => { l with tokenAsk := none, token := some .held })).queueRecord
        (.token n .held) .nothing).noticeTokenHeld := by
  have hchange : ({ l with tokenAsk := none, token := some .held } : LineRec) ≠ l := fun e => by
    have := congrArg LineRec.token e
    rw [ht] at this
    cases this
  unfold Blocks.onTokenGive
  rw [hk, hl]
  dsimp only
  rw [if_neg (not_not.mpr hm), ht]
  dsimp only
  rw [if_neg (by rw [hr]; decide)]
  unfold Blocks.setToken
  rw [Blocks.updLine_updLine hl hchange]

theorem Blocks.onTokenGive_kept (hm : k.mode = .bidirectional) (ht : l.token ≠ some .notHeld) :
    b.onTokenGive n = b := by
  unfold Blocks.onTokenGive
  rw [hk, hl]
  dsimp only
  rw [if_neg (not_not.mpr hm)]
  split
  · rename_i h
    exact absurd h ht
  · rfl

theorem Blocks.onTokenGive_refused (h : k.mode ≠ .bidirectional ∨ (l.token = some .notHeld ∧ l.reception ≠ none)) :
    b.onTokenGive n = b.protocolError (portOf n) := by
  unfold Blocks.onTokenGive
  rw [hk, hl]
  dsimp only
  by_cases hm : k.mode ≠ .bidirectional
  · exact if_pos hm
  obtain ⟨ht, hr⟩ := h.resolve_left hm
  rw [if_neg hm, ht]
  exact if_pos (Option.isSome_iff_ne_none.mpr hr)

end

/-- R125, R126: with no telegram open, a noted telegram hands nothing on but the mirror of its link. -/
theorem Blocks.noted_work {b : Blocks} {port : Nat} (h : b.collectedOn port = []) (seq : Byte) : ∃ d,
    ((b.breakOff port).noteSequence port seq).work = { b.work with dirty := d } := by
  obtain ⟨_, d, e⟩ := b.noteSequence_frame port seq
  rw [b.breakOff_none port h, e]
  exact ⟨d, rfl⟩

/-- Settles O51: each telegram as an event on the noted blocks, by the lemma on its action. -/
theorem tokenTelegrams : Obligations.TokenTelegrams := by
  unfold Obligations.TokenTelegrams
  intro h line k l s n b hh hn hb
  have hevent := fun act => State.hears_event hh act
  have hidle := fun hc => Blocks.noted_work (b := s.blocks) (port := h.port) hc h.seq
  obtain ⟨-, hwork, -, -, hk, hl⟩ := hh
  obtain ⟨_, _, _, _, hframe⟩ := s.blocks.noted_frame h.port h.seq
  rw [← hn] at hevent hk hl
  rw [← hb] at hevent hidle hframe
  have hentry : b.lineEntry n = some k := by rw [hframe]; exact hk
  have hrec : b.lineRec n = some l := by rw [hframe]; exact hl
  have hmode : b.mode = s.blocks.mode := by rw [hframe]
  have hocc : b.occupancy = s.blocks.occupancy := by rw [hframe]; rfl
  have hsec : b.sectionRec = s.blocks.sectionRec := by rw [hframe]; rfl
  have hhold : b.hasHolding n = s.blocks.hasHolding n := by rw [hframe]; rfl
  have hwrites : b.writes = s.blocks.writes := by rw [hframe]
  have hindex : b.freeIndex = s.blocks.freeIndex := by rw [hframe]
  have hempty : s.blocks.collectedOn h.port = [] → b.work.answers = [] ∧ b.work.alarms = [] := fun hc => by
    obtain ⟨d, hd⟩ := hidle hc
    rw [hd, hwork]
    exact ⟨rfl, rfl⟩
  have hask : exec (.tokenAsk h line) s = .next (s.ended (b.onTokenAsk n)) := hevent Blocks.onTokenAsk
  have hgive : exec (.tokenGive h line) s = .next (s.ended (b.onTokenGive n)) := hevent Blocks.onTokenGive
  have hdecline : exec (.tokenDecline h line) s = .next (s.ended (b.endTokenAsk n)) := hevent Blocks.endTokenAsk
  rw [← hmode, ← hocc, ← hsec, ← hhold, ← hwrites, hask, hgive, hdecline]
  refine ⟨fun hno => ?_, fun hm hp => ?_, fun hm hp ht hd hs hc hf hnone => ?_, fun hm ht hr => ?_, fun hm ht => ?_,
    fun hno => ?_, fun hrun => ?_, fun hrun => ?_⟩
  · rw [Blocks.onTokenAsk_declined hentry hrec hno]
  · rw [Blocks.onTokenAsk_pending hentry hrec hm hp]
  · rw [Blocks.onTokenAsk_gives hentry hrec hm hp ht hd hs hc hf hnone]
    refine ⟨rfl, fun hroom hclosed => ?_⟩
    obtain ⟨ha, ho⟩ := hempty hclosed
    refine ⟨?_, State.lineWritten_after hrec hroom s s.port hindex ha ho
      (fun l => { l with givePending := true, token := some .notHeld }) _ _⟩
    rw [Blocks.Kept.view ((State.ended_kept s _).lineRec n) (fun l => (l.token, l.givePending))
      (fun x => (x.1, x.2.2.1)) (fun _ => rfl), Blocks.queued_lineRec hrec hroom]
    rfl
  · rw [Blocks.onTokenGive_taken hentry hrec hm ht hr]
    refine ⟨rfl, fun hroom hclosed => ?_⟩
    obtain ⟨ha, ho⟩ := hempty hclosed
    refine ⟨?_, State.tokenWritten_after hrec hroom s s.port hindex ha ho
      (fun l => { l with tokenAsk := none, token := some .held }) _ _⟩
    rw [(State.ended_kept s _).token]
    exact congrArg (Option.map (·.token)) (Blocks.queued_lineRec hrec hroom _ _ _)
  · rw [Blocks.onTokenGive_kept hentry hrec hm ht]
  · rw [Blocks.onTokenGive_refused hentry hrec hno]
  · rw [Blocks.endTokenAsk_eq hrec, if_pos (Option.isSome_iff_ne_none.mpr hrun)]
  · rw [Blocks.endTokenAsk_eq hrec, hrun]
    rfl

end Sys2Proof.Machine
end

section

namespace Sys2Proof.Machine

/-! PROOF. RECEPTION RELEASE (R140, R159). -/

/-! ### The alarms a release set hands on -/

theorem Blocks.updSection_alarms (b : Blocks) (n : Nat) (f : SectionRec → SectionRec) :
    (b.updSection n f).work.alarms = b.work.alarms := by
  obtain ⟨_, _, e⟩ := b.updSection_frame n f
  rw [e]

theorem Blocks.updPoint_alarms (b : Blocks) (n : Nat) (f : PointRec → PointRec) :
    (b.updPoint n f).work.alarms = b.work.alarms := by
  obtain ⟨_, _, _, _, _, e⟩ := b.updPoint_frame n f
  rw [e]

theorem Blocks.updSignal_alarms (b : Blocks) (n : Nat) (f : SignalRec → SignalRec) :
    (b.updSignal n f).work.alarms = b.work.alarms := by
  obtain ⟨_, _, _, _, _, e⟩ := b.updSignal_frame n f
  rw [e]

theorem Blocks.releaseItem_alarms {h : Hold} (hs : ∀ n slot, h ≠ .signalEntry n slot) (b : Blocks) :
    (b.releaseItem h).work.alarms = b.work.alarms := by
  cases h with
  | sec n owner => exact b.updSection_alarms n _
  | point n k pos => exact b.updPoint_alarms n _
  | pointPossession n => exact b.updPoint_alarms n _
  | signalEntry n slot => exact absurd rfl (hs n slot)
  | signalFlank n => exact b.updSignal_alarms n _
  | signalPossession n => exact b.updSignal_alarms n _

theorem Blocks.releaseItems_alarms {items : List Hold} (hs : ∀ n slot, Hold.signalEntry n slot ∉ items) :
    ∀ b : Blocks, (items.foldl Blocks.releaseItem b).work.alarms = b.work.alarms := by
  induction items with
  | nil => exact fun _ => rfl
  | cons h items ih =>
    intro b
    rw [List.foldl_cons, ih fun n slot hn => hs n slot (List.mem_cons_of_mem h hn),
      Blocks.releaseItem_alarms fun n slot e => hs n slot (e ▸ List.mem_cons_self)]

/-- R41: a release set without the entry claim of a signal, which may end SIGNAL_LAMP_FAULT, hands on no alarm. -/
theorem Blocks.release_alarms {items : List Hold} (hs : ∀ n slot, Hold.signalEntry n slot ∉ items) (b : Blocks)
    (c : Claimant) : (b.release c items).work.alarms = b.work.alarms := by
  unfold Blocks.release
  split
  · exact Blocks.releaseItems_alarms hs b
  · rfl

theorem Blocks.receptionHolds_signalEntry (b : Blocks) (k : LineEntry) (line m n slot : Nat) :
    Hold.signalEntry n slot ∉ b.receptionHolds k line m := by
  intro h
  rcases List.mem_append.mp h with h | h
  · obtain ⟨_, _, e⟩ := List.mem_map.mp h
    cases e
  · obtain ⟨_, _, e⟩ := List.mem_map.mp h
    cases e

/-! ### RECEPTION RELEASE (R159) -/

section

variable {b : Blocks} {e : Element} {k : LineEntry} {l : LineRec} (cell : Nat) (hk : b.lineEntry e.number = some k)
  (hl : b.lineRec e.number = some l)

include hk hl

theorem Blocks.receptionRelease_none (hr : l.reception = none) :
    b.receptionRelease e cell = b.answer cell .notFound .none := by
  unfold Blocks.receptionRelease
  rw [hk, hl, Option.bind_some, hr]

/-- R159: the preconditions in their order, for a line with a reception. -/
theorem Blocks.receptionRelease_eq {r : Reception} (hr : l.reception = some r) : b.receptionRelease e cell =
    if b.linkUp (e.number / 4) = true then b.answer cell .conflict (.precondition .linkNotDown)
    else if r.released ≠ 0 ∨ ∃ n ∈ k.recSections, b.isPassed n = true then
      b.answer cell .conflict (.precondition .receptionEntered)
    else if ∃ n ∈ k.recSections, b.occupancy n = some .occupied ∨ b.occupancy n = some .clearing then
      b.answer cell .conflict (.precondition .sectionNotClear)
    else ((b.release (.line e.number) (b.receptionHolds k e.number r.released)).endReception e.number).answer cell
      .done .none := by
  have hmarked : (!b.receptionUnmarked k) = true ↔ ∃ n ∈ k.recSections, b.isPassed n = true := by
    simp [Blocks.receptionUnmarked]
  have hoccupied : k.recSections.any (fun n => b.occupancy n == some .occupied || b.occupancy n == some .clearing) =
      true ↔ ∃ n ∈ k.recSections, b.occupancy n = some .occupied ∨ b.occupancy n = some .clearing := by
    simp
  unfold Blocks.receptionRelease
  rw [hk, hl, Option.bind_some, hr]
  simp only [hmarked, hoccupied, Blocks.releaseReception_eq hk hl hr]
  rfl

end

/-- R140: a reception released whole hands on no answer and no alarm. -/
theorem Blocks.releasedReception_idle (b : Blocks) (k : LineEntry) (n m : Nat) :
    ((b.release (.line n) (b.receptionHolds k n m)).endReception n).freeIndex = b.freeIndex ∧
      ((b.release (.line n) (b.receptionHolds k n m)).endReception n).work.answers = b.work.answers ∧
      ((b.release (.line n) (b.receptionHolds k n m)).endReception n).work.alarms = b.work.alarms := by
  obtain ⟨_, _, hline⟩ := (b.release (.line n) (b.receptionHolds k n m)).updLine_frame n
    (fun l => { l with reception := none, outgoingNone := 0 })
  unfold Blocks.endReception
  rw [hline]
  exact ⟨((Blocks.Follows.refl false b).release _ _).freeIndex, (b.release_hands _ _).1,
    Blocks.release_alarms (b.receptionHolds_signalEntry k n m) b _⟩

/-- Settles O30: the preconditions in turn (`Blocks.receptionRelease_eq`), and the release answered in its event. -/
theorem receptionReleaseReleases : Obligations.ReceptionReleaseReleases := by
  unfold Obligations.ReceptionReleaseReleases
  intro q s e a k l h hk hl
  obtain ⟨-, -, -, -, -, hwork⟩ := h.1
  have hexec : exec .receptionRelease s = .next (s.served ((s.blocks.disarm a).receptionRelease e q.cell)) :=
    State.executing_next h Blocks.receptionRelease
  refine ⟨fun hr => ?_, fun r hr => ?_⟩
  · rw [Blocks.receptionRelease_none (b := s.blocks.disarm a) q.cell hk hl hr] at hexec
    exact State.executing_answers h _ _ hexec
  rw [Blocks.receptionRelease_eq (b := s.blocks.disarm a) q.cell hk hl hr,
    show (s.blocks.disarm a).linkUp = s.blocks.linkUp from rfl,
    show (s.blocks.disarm a).isPassed = s.blocks.isPassed from rfl,
    show (s.blocks.disarm a).occupancy = s.blocks.occupancy from rfl] at hexec
  refine ⟨fun hup => ?_, fun hdown => ⟨fun hentered => ?_, fun hrel hmarks => ⟨fun hocc => ?_, fun hclear => ?_⟩⟩⟩
  · rw [if_pos hup] at hexec
    exact State.executing_answers h _ _ hexec
  · rw [if_neg (by rw [hdown]; decide), if_pos hentered] at hexec
    exact State.executing_answers h _ _ hexec
  all_goals
    have hnot : ¬ (r.released ≠ 0 ∨ ∃ n ∈ k.recSections, s.blocks.isPassed n = true) := by
      rintro (hne | ⟨n, hn, hmark⟩)
      · exact hne hrel
      · rw [hmarks n hn] at hmark
        cases hmark
    rw [if_neg (by rw [hdown]; decide), if_neg hnot] at hexec
  · rw [if_pos hocc] at hexec
    exact State.executing_answers h _ _ hexec
  · have hfree : ¬ ∃ n ∈ k.recSections, s.blocks.occupancy n = some .occupied ∨
        s.blocks.occupancy n = some .clearing := by
      rintro ⟨n, hn, ho | ho⟩
      · exact (hclear n hn).1 ho
      · exact (hclear n hn).2 ho
    rw [if_neg hfree, hrel] at hexec
    obtain ⟨hindex, ha, ho⟩ := (s.blocks.disarm a).releasedReception_idle k e.number 0
    exact State.serves_over h.1 hexec hindex (ha.trans (congrArg Work.answers hwork))
      (ho.trans (congrArg Work.alarms hwork))

end Sys2Proof.Machine
end

section

namespace Sys2Proof.Machine

/-! PROOF. The end of a record write (R132, R174, R184). -/

/-! ### The next write (R174, R177) -/

theorem Blocks.withdrawCalls_sent (b : Blocks) : b.withdrawCalls.work.sent = b.work.sent :=
  foldl_same (fun b : Blocks => b.work.sent) _ (fun b (p : PointRec) => by rw [Blocks.answerOpt_eq]) b.points b

/-- R177: a commit write that begins sends nothing and leaves the mode. -/
theorem Blocks.beginCommit_kept (b : Blocks) (c : Nat) :
    (b.beginCommit c).mode = b.mode ∧ (b.beginCommit c).work.sent = b.work.sent := by
  have halarms : ∀ d : Blocks, d.endAlarmsNow.mode = d.mode ∧ d.endAlarmsNow.work.sent = d.work.sent := fun d => by
    obtain ⟨_, _, _, e⟩ := d.enterAlarms_eq
    unfold Blocks.endAlarmsNow
    rw [e]
    exact ⟨rfl, rfl⟩
  unfold Blocks.beginCommit Blocks.markAbsent
  obtain ⟨_, e⟩ := Blocks.foldl_mark_eq (numberedRecords ++ [MirrorRec.identity]) (Blocks.discardRecords
    (Blocks.withdrawCalls { b with
      running := some (.commit c), writes := [], stored := { b.stored with valid := false } }).endAlarmsNow)
  dsimp only
  rw [e]
  obtain ⟨hmode, hsent⟩ := halarms (Blocks.withdrawCalls { b with
    running := some (.commit c), writes := [], stored := { b.stored with valid := false } })
  exact ⟨hmode.trans (Blocks.withdrawCalls_mode _), hsent.trans (Blocks.withdrawCalls_sent _)⟩

theorem Blocks.beginNext_kept (b : Blocks) : b.beginNext.mode = b.mode ∧ b.beginNext.work.sent = b.work.sent := by
  rcases b.beginNext_cases with ⟨_, _, e⟩ | ⟨c, e⟩
  · rw [e]
    exact ⟨rfl, rfl⟩
  · rw [e]
    exact b.beginCommit_kept c

/-- R174: the next record write of the list, or none. -/
theorem Blocks.beginNext_record {b : Blocks} (hrun : b.running = none)
    (h : ∀ c, b.writes.head? ≠ some (.commit c)) :
    b.beginNext = { b with running := b.writes.head?, writes := b.writes.tail } := by
  unfold Blocks.beginNext
  split
  · rename_i hw
    rw [hw, List.head?_nil, List.tail_nil, ← hrun, ← hw]
  · rename_i hw
    rw [hw]
    rfl
  · rename_i c _ hw
    exact absurd (by rw [hw]; rfl) (h c)

/-! ### The report (R132, R174) -/

theorem Blocks.sendGive_frame (b : Blocks) (n : Nat) : ∃ ks ls d x, b.sendGive n =
    { b with links := ks, lines := ls, work := { b.work with dirty := d, sent := x } } := by
  obtain ⟨_, _, _, hsend⟩ := (b.updLine n (fun l => { l with givePending := false })).sendBorder_frame (portOf n)
    (.tokenGive n)
  obtain ⟨_, _, hline⟩ := b.updLine_frame n (fun l => { l with givePending := false })
  unfold Blocks.sendGive Blocks.sendLine
  rw [hsend, hline]
  exact ⟨_, _, _, _, rfl⟩

theorem Blocks.reportWrite_mode (b : Blocks) (r : Report) (ok : Bool) : (b.reportWrite r ok).mode = b.mode := by
  unfold Blocks.reportWrite
  split
  · split
    · rfl
    · rfl
  · rename_i n
    obtain ⟨_, _, _, _, e⟩ := b.sendGive_frame n
    rw [e]
  · rfl

/-- R132: at the end of a give's write TOKEN GIVE is sent, and the give is no longer pending. -/
theorem Blocks.sendGive_effect {b : Blocks} {n : Nat} {l : LineRec} {m : LinkRec} {i : Image}
    (hl : b.lineRec n = some l) (hm : b.linkRec (portOf n) = some m) (hi : b.image? = some i)
    (hmode : b.mode ≠ .halted) :
    .border (portOf n) (.tokenGive n) (telegramChars ((Telegram.tokenGive n).bytes i.head.area m.transmit)) ∈
        (b.sendGive n).work.sent ∧
      (b.sendGive n).lineRec n = some { l with givePending := false } := by
  obtain ⟨_, _, hline⟩ := b.updLine_frame n (fun l => { l with givePending := false })
  have hsent := Blocks.sendBorder_sent (b := b.updLine n (fun l => { l with givePending := false })) (port := portOf n)
    (by rw [hline]; exact hi) (by rw [hline]; exact hm) (by rw [hline]; exact hmode) (.tokenGive n)
  unfold Blocks.sendGive
  refine ⟨?_, ?_⟩
  · unfold Blocks.sendLine
    rw [hsent]
    exact List.mem_append_right _ (List.mem_singleton_self _)
  · rw [(Blocks.sendLine_lineRec _ _ _ _).1, Blocks.updLine_rec, if_pos rfl, hl]
    rfl

/-! ### The event -/

/-- An event that answers one cell, with one raise. -/
theorem State.ended_raise_answer {s : State} (x : Blocks) {cell : Nat} (hc : cell < 32)
    (hflight : s.port.isInFlight cell = true) (hi : x.freeIndex = s.blocks.freeIndex) (ha : x.work.answers = [])
    (hl : x.work.alarms = []) (k : AlarmKind) (e : Element) (t : Clock) (o : CellOutcome) (d : Detail) :
    (s.ended ((x.raiseAlarm k e t).answer cell o d)).answered cell o d ∧
      (x.enterRaise k e t).After (s.ended ((x.raiseAlarm k e t).answer cell o d)).blocks := by
  have hone : ((x.raiseAlarm k e t).answer cell o d).work.answers = [{ cell := cell, outcome := o, detail := d }] := by
    show x.work.answers ++ _ = _
    rw [ha]
    rfl
  have hraise : ((x.raiseAlarm k e t).answer cell o d).work.alarms = [.raised k e t] := by
    show x.work.alarms ++ _ = _
    rw [hl]
    rfl
  refine ⟨State.ended_answered s _ { cell := cell, outcome := o, detail := d } hone hflight hc, ?_⟩
  exact Blocks.After.of_op s s.port _ x (.raised k e t) rfl hi
    (by rw [hone]; exact Port.writeAnswers_one _ _ _ hflight) hraise rfl rfl rfl

/-- R174: the blocks when a record write has ended, before its end is reported. -/
def Blocks.writeEnded (b : Blocks) (v : RecordValue) (ok : Bool) : Blocks :=
  if ok then b.endRecord v true else (b.endRecord v false).storeFault

theorem Blocks.writeEnded_reads (b : Blocks) (v : RecordValue) (ok : Bool) :
    (b.writeEnded v ok).mode = b.mode ∧ (b.writeEnded v ok).running = none ∧ (b.writeEnded v ok).writes = b.writes ∧
      (b.writeEnded v ok).lineRec = b.lineRec ∧ (b.writeEnded v ok).linkRec = b.linkRec ∧
      (b.writeEnded v ok).image? = b.image? := by
  cases ok
  · exact ⟨rfl, rfl, rfl, rfl, rfl, rfl⟩
  · exact ⟨rfl, rfl, rfl, rfl, rfl, rfl⟩

section

variable {v : RecordValue} {r : Report} {s : State} (hheld : s.held = false)
  (hrun : s.blocks.running = some (.record v r))

include hheld hrun

/-- R184: in HALTED the write reaches its end, and nothing follows. -/
theorem State.recordWriteEnd_halted (hm : s.blocks.mode = .halted) (ok : Bool) :
    exec (.recordWriteEnd ok) s = .next (s.finish s.port (s.blocks.endRecord v ok)) := by
  have hend : s.blocks.recordWriteEnd ok = some (s.blocks.endRecord v ok) := by
    unfold Blocks.recordWriteEnd
    rw [hrun]
    exact if_pos hm
  refine (State.storeEvent_next s (·.recordWriteEnd ok) _ hheld hend).trans ?_
  rw [if_pos (show (s.blocks.endRecord v ok).mode = .halted from hm)]

/-- R174: otherwise the end is reported and the next write begins. -/
theorem State.recordWriteEnd_next (hm : s.blocks.mode ≠ .halted) (ok : Bool) : exec (.recordWriteEnd ok) s =
    .next (s.ended ((s.blocks.writeEnded v ok).reportWrite r ok).beginNext) := by
  have hend : s.blocks.recordWriteEnd ok = some ((s.blocks.writeEnded v ok).reportWrite r ok).beginNext := by
    unfold Blocks.recordWriteEnd
    rw [hrun]
    dsimp only
    rw [if_neg hm]
    cases ok
    · rfl
    · rfl
  have hawake : ((s.blocks.writeEnded v ok).reportWrite r ok).beginNext.mode ≠ .halted := by
    rw [(Blocks.beginNext_kept _).1, Blocks.reportWrite_mode, (s.blocks.writeEnded_reads v ok).1]
    exact hm
  refine (State.storeEvent_next s (·.recordWriteEnd ok) _ hheld hend).trans ?_
  rw [if_neg hawake]
  rfl

end

/-- Settles O58: the two ways in which a record write ends, and its end by the report. -/
theorem recordWriteEnds : Obligations.RecordWriteEnds := by
  unfold Obligations.RecordWriteEnds
  intro v r s hheld hset hrun
  have hwork : s.blocks.work = Work.empty := eq_of_beq hset
  have hanswers := congrArg Work.answers hwork
  have halarms := congrArg Work.alarms hwork
  refine ⟨fun hm ok => ?_, fun hm => ⟨State.recordWriteEnd_next hheld hrun hm true,
    State.recordWriteEnd_next hheld hrun hm false, fun a ha hc hf hnext => ⟨?_, ?_⟩⟩,
    fun n l m w ok hr hm hl hk hw => ?_⟩
  · rw [State.recordWriteEnd_halted hheld hrun hm ok]
    exact Blocks.After.of_halted s s.port _ hm rfl halarms
  · rw [State.recordWriteEnd_next hheld hrun hm true, Blocks.beginNext_record (by rw [ha]; rfl)
      (by rw [ha]; exact hnext), ha]
    exact State.ended_answer { s.blocks with
      running := s.blocks.writes.head?, writes := s.blocks.writes.tail, persistent := s.blocks.persistent.store v }
      hc hf rfl hanswers halarms a.outcome a.detail
  · rw [State.recordWriteEnd_next hheld hrun hm false, Blocks.beginNext_record (by rw [ha]; rfl)
      (by rw [ha]; exact hnext), ha]
    exact State.ended_raise_answer
      { s.blocks with running := s.blocks.writes.head?, writes := s.blocks.writes.tail }
      hc hf rfl hanswers halarms .storeFault .device s.blocks.clock .storeFault .none
  · subst hr
    refine ⟨fun b => rfl, ?_⟩
    obtain ⟨hmode, hrunning, hwrites, hlines, hlinks, himage⟩ := s.blocks.writeEnded_reads v ok
    have hi : s.blocks.image? = some w.image := by
      unfold Blocks.image?
      rw [hw]
      rfl
    obtain ⟨hsent, hrec⟩ := Blocks.sendGive_effect (b := s.blocks.writeEnded v ok) (hlines ▸ hl) (hlinks ▸ hk)
      (himage ▸ hi) (hmode ▸ hm)
    obtain ⟨_, _, _, _, hframe⟩ := (s.blocks.writeEnded v ok).sendGive_frame n
    rw [State.recordWriteEnd_next hheld hrun hm ok,
      show (s.blocks.writeEnded v ok).reportWrite (.give n) ok = (s.blocks.writeEnded v ok).sendGive n from rfl]
    refine ⟨(State.ended_sent s _).subset ?_, fun hnext => ?_⟩
    · rw [(Blocks.beginNext_kept _).2]
      exact hsent
    · rw [(State.ended_kept s _).givePending, Blocks.beginNext_record (by rw [hframe]; exact hrunning)
        (by rw [hframe, hwrites]; exact hnext)]
      exact congrArg (Option.map (·.givePending)) hrec

end Sys2Proof.Machine
end

section

namespace Sys2Proof.Machine

/-! PROOF. A reception's grant and passage, and the start of a handover (R139 to R141). -/

/-! ### The line's entry (R130) -/

theorem Blocks.outgoingSlot_some {b : Blocks} {n slot : Nat} (h : b.outgoingSlot n = some slot) :
    ∃ r p, b.routeRec slot = some r ∧ r.border = some p ∧ p.line = n := by
  have hfound := List.find?_some (p := fun slot => (b.routeRec slot).any _) h
  obtain ⟨r, hr, hany⟩ := (Option.any_eq_true ..).mp hfound
  obtain ⟨p, hp, hline⟩ := (Option.any_eq_true ..).mp hany
  exact ⟨r, p, hr, hp, eq_of_beq hline⟩

theorem Blocks.outgoingSlot_none {b : Blocks} {n : Nat} (h : b.outgoingSlot n = none) {slot : Nat} {r : RouteRec}
    {p : BorderPart} (hs : slot < b.routes.length) (hr : b.routeRec slot = some r) (hp : r.border = some p) :
    p.line ≠ n := by
  have hnone := List.find?_eq_none.mp h slot (List.mem_range.mpr hs)
  rintro rfl
  exact hnone (by simp [hr, hp])

section

variable {b : Blocks} {n : Nat} {k : LineEntry} {l : LineRec} (hk : b.lineEntry n = some k) (hl : b.lineRec n = some l)

include hk hl

theorem Blocks.testGrant_none (hr : l.reception = none) : b.testGrant n = b := by
  unfold Blocks.testGrant
  rw [hk, hl, Option.bind_some, hr]

theorem Blocks.receptionPassage_none (hr : l.reception = none) (m : Nat) : b.receptionPassage m n = b := by
  cases m with
  | zero => rfl
  | succ m =>
    unfold Blocks.receptionPassage
    rw [hk, hl, Option.bind_some, hr]

section

variable {r : Reception} (hr : l.reception = some r)

include hr

/-! ### The grant (R139) -/

theorem Blocks.testGrant_sent (hg : r.grantSent = true) : b.testGrant n = b := by
  unfold Blocks.testGrant
  rw [hk, hl, Option.bind_some, hr]
  exact if_pos hg

/-- R139: before the grant is sent, by the points that the reception still claims. -/
theorem Blocks.testGrant_unsent (hg : r.grantSent = false) : b.testGrant n =
    if ∃ q ∈ b.receptionPoints k r, ∃ v, b.pointRec q.point = some v ∧ v.state = .failed then
      ((b.release (.line n) (b.receptionHolds k n r.released)).endReception n).sendLine n (.entryDeny n r.reference)
    else if ∀ q ∈ b.receptionPoints k r, ∃ v, b.pointRec q.point = some v ∧ v.state = .atRest ∧ v.ref = some q.pos then
      (b.updLine n (fun l => { l with reception := some { r with grantSent := true } })).sendLine n
        (.entryGrant n r.reference)
    else b := by
  have hfailed : (b.receptionPoints k r).any (fun p => (b.pointRec p.point).any (fun q => q.state = .failed)) = true ↔
      ∃ q ∈ b.receptionPoints k r, ∃ v, b.pointRec q.point = some v ∧ v.state = .failed := by
    simp [List.any_eq_true, Option.any_eq_true]
  have hrest : (b.receptionPoints k r).all b.restsIn = true ↔
      ∀ q ∈ b.receptionPoints k r, ∃ v, b.pointRec q.point = some v ∧ v.state = .atRest ∧ v.ref = some q.pos := by
    simp [List.all_eq_true, Blocks.restsIn, Option.any_eq_true]
  unfold Blocks.testGrant
  rw [hk, hl, Option.bind_some, hr]
  dsimp only
  rw [if_neg (by rw [hg]; decide), Blocks.releaseReception_eq hk hl hr]
  simp only [hfailed, hrest]

/-! ### The passage (R140) -/

theorem Blocks.receptionPassage_succ (m : Nat) : b.receptionPassage (m + 1) n =
    if b.receptionFrontReady k r then (b.releaseReceptionFront k n r).receptionPassage m n else b := by
  rw [Blocks.receptionPassage, hk, hl, Option.bind_some, hr]

end

/-! ### The handover (R141) -/

theorem Blocks.testHandover_unused (ho : b.outgoingSlot n = none) : b.testHandover n = b := by
  unfold Blocks.testHandover
  rw [hk, hl, ho]

theorem Blocks.testHandover_eq {slot : Nat} {r : RouteRec} (ho : b.outgoingSlot n = some slot)
    (hr : b.routeRec slot = some r) : b.testHandover n =
      if (∃ o ∈ b.work.occupations, o.sec = k.border) ∧ (r.state = .passing ∨ r.state = .emergency) ∧
        (b.sectionRec k.border).map (·.owner) = some (.route slot) ∧ l.handedSlot ≠ some slot then
        b.startHandover n slot r.identity
      else b := by
  have hocc : b.work.occupations.any (fun o => o.sec == k.border) = true ↔
      ∃ o ∈ b.work.occupations, o.sec = k.border := by simp
  have howner : (b.sectionRec k.border).any (fun s => s.owner = .route slot) = true ↔
      (b.sectionRec k.border).map (·.owner) = some (.route slot) := by
    cases b.sectionRec k.border <;> simp
  unfold Blocks.testHandover
  rw [hk, hl, ho]
  dsimp only
  rw [hr]
  simp only [hocc, howner]

end

/-- R141: a handover starts over one that may still be SENDING. -/
theorem Blocks.startHandover_eq {b c : Blocks} {n : Nat} {l : LineRec} (hl : b.lineRec n = some l) (slot : Nat)
    (i : Option Identity)
    (hc : c = if l.handover.isSome then b.raiseAlarm .handoverUnconfirmed (.line n) b.clock else b) :
    b.startHandover n slot i = (c.sendLine n (.trainPass n i)).updLine n (fun l => { l with
      handover := some { identity := i, sends := 1, next := Clock.after b.clock 1000 }
      handedSlot := some slot }) := by
  have hclock : c.clock = b.clock := by
    rw [hc]
    split
    · rfl
    · rfl
  unfold Blocks.startHandover
  rw [hl, Option.any_some, ← hc, ← hclock]

/-- R140: when the front section of a reception is given back. -/
theorem Blocks.receptionFrontReady_iff (b : Blocks) (k : LineEntry) (r : Reception) :
    b.receptionFrontReady k r = true ↔ ∃ m, k.recSections[r.released]? = some m ∧ b.isPassed m = true ∧
      b.isClear m = true ∧ ∀ x, k.recSections[r.released + 1]? = some x →
        b.occupancy x = some .occupied ∨ b.occupancy x = some .clearing ∨ b.isPassed x = true := by
  unfold Blocks.receptionFrontReady
  cases k.recSections[r.released]? with
  | none => simp
  | some m =>
    cases k.recSections[r.released + 1]? with
    | none => simp
    | some x => simp [and_assoc, or_assoc]

/-- R140: the front section given back, with its points. -/
theorem Blocks.releaseReceptionFront_eq {b c : Blocks} {k : LineEntry} {n m : Nat} {r : Reception}
    (hm : k.recSections[r.released]? = some m)
    (hc : c = b.release (.line n) ([.sec m (.reception n)] ++ (k.recPoints.filter (fun q =>
      (b.pointEntry q.point).any (fun x => x.sec = m))).map (fun q => .point q.point .path q.pos))) :
    b.releaseReceptionFront k n r = if r.released + 1 = k.recSections.length then c.endReception n
      else c.updLine n (fun l => { l with reception := some { r with released := r.released + 1 } }) := by
  unfold Blocks.releaseReceptionFront
  rw [hm]
  subst hc
  rfl

/-- Settles O53: the grant and the passage by the reception, and the handover by the line's entry. -/
theorem receptionsAndHandoversFollowTheTrain : Obligations.ReceptionsAndHandoversFollowTheTrain := by
  unfold Obligations.ReceptionsAndHandoversFollowTheTrain
  intro b n k l hk hl
  refine ⟨fun hr => ⟨Blocks.testGrant_none hk hl hr, Blocks.receptionPassage_none hk hl hr⟩, fun r ps hr hps => ?_,
    fun slot => Blocks.outgoingSlot_some, fun ho => ⟨Blocks.testHandover_unused hk hl ho, fun slot r p =>
      Blocks.outgoingSlot_none ho⟩, fun slot r c ho hr hc => ?_⟩
  · have hpoints : ∀ q, q ∈ b.receptionPoints k r ↔ q ∈ ps := fun q => by
      rw [hps q]
      simp [Blocks.receptionPoints, Option.any_eq_true]
    refine ⟨Blocks.testGrant_sent hk hl hr, fun hg => ?_, rfl, b.receptionFrontReady_iff k r,
      fun m c => Blocks.releaseReceptionFront_eq, Blocks.receptionPassage_succ hk hl hr⟩
    have heq := Blocks.testGrant_unsent hk hl hr hg
    simp only [hpoints] at heq
    refine ⟨fun hf => heq.trans (if_pos hf), fun hf => ?_⟩
    rw [if_neg (fun ⟨q, hq, v, hv, hs⟩ => hf q hq v hv hs)] at heq
    refine ⟨fun hrest => heq.trans (if_pos hrest), fun ⟨q, hq, hnot⟩ => heq.trans (if_neg fun hrest => ?_)⟩
    obtain ⟨v, hv, hs, hp⟩ := hrest q hq
    rcases hnot v hv with h | h
    · exact h hs
    · exact h hp
  · have heq := Blocks.testHandover_eq hk hl ho hr
    refine ⟨fun hocc hs howner hslot => ?_, fun hnot => heq.trans (if_neg ?_)⟩
    · rw [heq, if_pos ⟨hocc, hs, howner, hslot⟩, Blocks.startHandover_eq hl slot r.identity hc]
    · rintro ⟨⟨o, ho, hsec⟩, hs, howner, hslot⟩
      rcases hnot with h | ⟨hp, he⟩ | h | h
      · exact h o ho hsec
      · exact hs.elim hp he
      · exact h howner
      · exact hslot h

end Sys2Proof.Machine
end

section

namespace Sys2Proof.Machine

/-! PROOF. LINE STATE: the link that it counts UP, and what it makes of the port's lines (R126, R128, R134, R137,
R140). -/

/-! ### The link's record after a telegram is noted (R125, R199) -/

/-- A change of a link goes by what it makes of the link's record. -/
theorem Blocks.updLink_congr {b : Blocks} {port : Nat} {l : LinkRec} {f g : LinkRec → LinkRec}
    (hl : b.linkRec port = some l) (h : f l = g l) : b.updLink port f = b.updLink port g := by
  unfold Blocks.updLink
  rw [hl]
  dsimp only
  rw [h]

/-- R125, R199: the state stands, and STARTING loses its valid count to a telegram broken off. -/
theorem Blocks.noted_link {b : Blocks} {port : Nat} {l : LinkRec} (hl : b.linkRec port = some l) (seq : Byte) :
    ∃ m, ((b.breakOff port).noteSequence port seq).linkRec port = some m ∧ m.state = l.state ∧
      (l.state = .starting → m.valid = if b.collectedOn port = [] then l.valid else 0) := by
  unfold Blocks.noteSequence
  rw [Blocks.updLink_rec, if_pos rfl, Blocks.breakOff_rec, hl]
  by_cases h : b.collectedOn port = []
  · rw [if_neg (fun hc => hc.2 h), if_pos h]
    exact ⟨_, rfl, rfl, fun _ => rfl⟩
  · rw [if_pos ⟨rfl, h⟩, if_neg h]
    exact ⟨_, rfl, rfl, fun hs => if_pos hs⟩

/-! ### The views (R128) -/

theorem Blocks.writeViews_frame (b : Blocks) (port : Nat) (views : List LineView) : ∃ ls d,
    b.writeViews port views = { b with lines := ls, work := { b.work with dirty := d } } := by
  unfold Blocks.writeViews
  generalize List.range 4 = ks
  induction ks generalizing b with
  | nil => exact ⟨_, _, rfl⟩
  | cons k ks ih =>
    rw [List.foldl_cons]
    cases views[k]? with
    | none => exact ih b
    | some v =>
      obtain ⟨_, _, e⟩ := b.updLine_frame (4 * port + k) (fun l => { l with view := some v })
      obtain ⟨ls, d, e'⟩ := ih (b.updLine (4 * port + k) (fun l => { l with view := some v }))
      refine ⟨ls, d, e'.trans ?_⟩
      rw [e]

/-- R128: a line's record with the neighbour's view. -/
def LineRec.withView (l : LineRec) (v : LineView) : LineRec := { l with view := some v }

/-- R128: the record of a line of the port after the views are written. -/
theorem Blocks.writeViews_rec {b : Blocks} {port k : Nat} {views : List LineView} {x : LineView} {y : LineRec}
    (hk : k < 4) (hx : views[k]? = some x) (hy : b.lineRec (4 * port + k) = some y) :
    (b.writeViews port views).lineRec (4 * port + k) = some (y.withView x) := by
  have hwritten : (List.range 4).foldl (fun (r : LineRec) j => if j = k then r.withView x else r) y = y.withView x := by
    rw [foldl_idem (fun (r : LineRec) j => if j = k then r.withView x else r) (·.withView x) (fun j => decide (j = k))
      (List.range 4) (fun _ => rfl) (fun j _ r => by simp), if_pos]
    exact List.any_eq_true.mpr ⟨k, List.mem_range.mpr hk, decide_eq_true rfl⟩
  unfold Blocks.writeViews
  rw [foldl_get (·.lineRec (4 * port + k)) _ (fun r j => if j = k then r.withView x else r) ?_, hy, Option.map_some,
    hwritten]
  intro c j
  by_cases h : j = k
  · subst h
    rw [hx]
    dsimp only
    rw [Blocks.updLine_rec, if_pos rfl]
    simp only [if_pos]
    rfl
  · simp only [if_neg h, Option.map_id']
    cases views[j]? with
    | none => rfl
    | some v =>
      dsimp only
      rw [Blocks.updLine_rec, if_neg (by omega)]

/-! ### The count of LINE STATE telegrams (R126) -/

section

variable {b : Blocks} {port : Nat} {l : LinkRec} (hl : b.linkRec port = some l)

include hl

theorem Blocks.countLineState_down (hs : l.state = .down) : b.countLineState port =
    b.updLink port (fun l => { l with state := .starting, valid := 1, lastValid := some b.clock }) := by
  unfold Blocks.countLineState
  rw [hl]
  dsimp only
  rw [hs]

theorem Blocks.countLineState_starting (hs : l.state = .starting) {v : Nat} (hv : l.valid = v) :
    b.countLineState port = if 3 ≤ v + 1 then (b.updLink port (fun l => { l with valid := v + 1 })).linkBecomesUp port
      else b.updLink port (fun l => { l with valid := v + 1 }) := by
  subst hv
  unfold Blocks.countLineState
  rw [hl]
  dsimp only
  rw [hs, Blocks.updLink_congr hl (f := fun l => { l with valid := l.valid + 1 })
    (g := fun m => { m with valid := l.valid + 1 }) rfl]

theorem Blocks.countLineState_up (hs : l.state = .up) : b.countLineState port =
    (portLines port).foldl (fun b n => (b.recheckToken n).testOutgoing n) b := by
  unfold Blocks.countLineState
  rw [hl]
  dsimp only
  rw [hs]

end

/-- R126: the link becomes UP. -/
theorem Blocks.linkBecomesUp_eq {c d : Blocks} {port : Nat} (hd : d = (portLines port).foldl Blocks.checkToken
      ((c.updLink port (fun l => { l with state := .up, errorReported := false })).endAlarm .borderLinkDown
        (.port port) c.clock)) :
    c.linkBecomesUp port = (portLines port).foldl Blocks.sendDeferredFree
      ((portLines port).foldl (fun d n => d.recoverGrant (c.lineRec n) n) d) := by
  have hclock : (c.updLink port (fun l => { l with state := .up, errorReported := false })).clock = c.clock := by
    obtain ⟨_, _, e⟩ := c.updLink_frame port (fun l => { l with state := .up, errorReported := false })
    rw [e]
  subst hd
  unfold Blocks.linkBecomesUp
  rw [← hclock]
  rfl

/-! ### The token's views (R130, R134) -/

theorem viewsDisagree_iff (t : Option Token) (w : Option LineView) : viewsDisagree t w = true ↔
    ∃ v, w = some v ∧ (t = some .held ∧ v.token = .held ∨ t = some .notHeld ∧ v.token = .notHeld) := by
  cases w with
  | none => simp [viewsDisagree]
  | some v =>
    unfold viewsDisagree
    simp only [Option.map_some, Option.some.injEq, exists_eq_left']
    split <;> simp_all

section

variable {b : Blocks} {n : Nat} {k : LineEntry} {x : LineRec} (hk : b.lineEntry n = some k) (hx : b.lineRec n = some x)

include hx

theorem Blocks.hasHolding_iff : b.hasHolding n = true ↔ b.outgoingSlot n ≠ none ∨ x.reception ≠ none ∨
    ∃ v ∈ b.waiting, ∃ e, b.routeEntry v.route = some e ∧ e.exit = .line n := by
  unfold Blocks.hasHolding
  rw [hx]
  simp only [Bool.or_eq_true, Option.isSome_iff_ne_none, List.any_eq_true, Blocks.exitsTo, Option.any_eq_true,
    Option.any_some, decide_eq_true_eq]
  constructor
  · rintro ((h | h) | h)
    · exact .inl h
    · exact .inr (.inr h)
    · exact .inr (.inl h)
  · rintro (h | h | h)
    · exact .inl (.inl h)
    · exact .inr h
    · exact .inl (.inr h)

theorem Blocks.recheckToken_eq : b.recheckToken n =
    if x.disagreement = true then
      if viewsDisagree x.token x.view = true then if b.hasHolding n then b else b.blockLine n
      else (b.updLine n (fun l => { l with disagreement := false })).endAlarm .tokenDisagreement (.line n) b.clock
    else b := by
  unfold Blocks.recheckToken
  rw [hx]

/-! ### The line's entry (R137) -/

theorem Blocks.sendDeferredFree_cases : (x.deferredFree = none → b.sendDeferredFree n = b) ∧
    ∀ ref, x.deferredFree = some ref → b.sendDeferredFree n =
      (b.sendLine n (.entryFree n ref)).updLine n (fun x => { x with deferredFree := none }) := by
  unfold Blocks.sendDeferredFree
  rw [hx, Option.bind_some]
  refine ⟨fun hf => ?_, fun ref hf => ?_⟩
  · rw [hf]
  · rw [hf]

theorem Blocks.recoverGrant_eq (old : LineRec) {slot : Nat} {r : RouteRec} {p : BorderPart}
    (ho : b.outgoingSlot n = some slot) (hr : b.routeRec slot = some r) (hp : r.border = some p) :
    b.recoverGrant (some old) n =
      if p.grant = .lost ∧ x.token = old.token ∧ x.disagreement = old.disagreement ∧
        ∃ v, x.view = some v ∧ v.reception = some (BitVec.ofNat 16 r.route) then
        b.updRoute slot (fun r => { r with border := some { p with grant := .granted } })
      else b := by
  have hview : x.view.bind (·.reception) = some (BitVec.ofNat 16 r.route) ↔
      ∃ v, x.view = some v ∧ v.reception = some (BitVec.ofNat 16 r.route) := Option.bind_eq_some_iff
  unfold Blocks.recoverGrant
  rw [hx, ho]
  dsimp only
  rw [hr]
  dsimp only
  rw [hp, Option.any_some]
  simp only [decide_eq_true_eq, hview]
  split
  · refine Blocks.updRoute_congr hr ?_
    rw [hp, Option.map_some]
  · rfl

include hk

theorem Blocks.checkToken_eq : b.checkToken n =
    if k.mode = .bidirectional ∧ viewsDisagree x.token x.view = true then
      if b.hasHolding n then (b.raiseAlarm .tokenDisagreement (.line n) b.clock).updLine n (fun l =>
        { l with disagreement := true })
      else (b.raiseAlarm .tokenDisagreement (.line n) b.clock).blockLine n
    else b := by
  unfold Blocks.checkToken
  rw [hk, hx]
  rfl

/-! ### The outgoing-route test (R140) -/

theorem Blocks.testOutgoing_none (hw : x.view = none) : b.testOutgoing n = b := by
  unfold Blocks.testOutgoing
  rw [hk, hx]
  dsimp only
  rw [hw]

/-- R140: the count, and at the second LINE STATE in a row without an outgoing route the release of a reception. -/
theorem Blocks.testOutgoing_cases {v : LineView} {m : Nat} {d : Blocks} (hw : x.view = some v)
    (hm : m = if v.outgoing then 0 else min 2 (x.outgoingNone + 1))
    (hd : d = b.updLine n (fun x => { x with outgoingNone := m })) :
    (x.reception = none → b.testOutgoing n = d) ∧ ∀ r, x.reception = some r → b.testOutgoing n =
      if m = 2 ∧ ∀ y ∈ k.recSections, b.isPassed y = false then
        (d.release (.line n) (d.receptionHolds k n r.released)).endReception n
      else d := by
  have hrec : d.lineRec n = some { x with outgoingNone := m } := by
    rw [hd, Blocks.updLine_rec, if_pos rfl, hx]
    rfl
  obtain ⟨_, _, e⟩ := b.updLine_frame n (fun x => { x with outgoingNone := m })
  have hentry : d.lineEntry n = some k := by
    rw [hd, e]
    exact hk
  have hmarks : d.receptionUnmarked k = true ↔ ∀ y ∈ k.recSections, b.isPassed y = false := by
    rw [hd, e]
    simp [Blocks.receptionUnmarked, Blocks.isPassed, Blocks.sectionRec]
  unfold Blocks.testOutgoing
  rw [hk, hx]
  dsimp only
  rw [hw]
  dsimp only
  rw [← hm, ← hd]
  refine ⟨fun hr => ?_, fun r hr => ?_⟩
  · rw [hr]
  · rw [hr]
    simp only [hmarks, Blocks.releaseReception_eq hentry hrec hr]

end

/-! ### The event -/

/-- R125, R128: LINE STATE from the neighbour: noted, its views written, and counted. -/
theorem State.lineState_heard {s : State} {h : TelegramHead} {l : LinkRec} (views : List LineView)
    (hawake : s.asleep = false) (hi : s.blocks.inForce ≠ none) (hl : s.blocks.linkRec h.port = some l)
    (hsender : h.sender.toNat = l.neighbour) : exec (.lineState h views) s = .next (s.ended
      ((((s.blocks.breakOff h.port).noteSequence h.port h.seq).writeViews h.port views).countLineState h.port)) :=
  State.event_next s (·.onLineState h views) _ hawake
    (Blocks.receive_good s.blocks h none _ l hi hl hsender (fun _ => nofun))

/-- R125, R128: with no telegram open, a LINE STATE that changes the link's record alone. -/
theorem State.lineState_silent {s : State} {h : TelegramHead} {views : List LineView} {b : Blocks}
    (hwork : s.blocks.work = Work.empty) (hclosed : s.blocks.collectedOn h.port = [])
    (hb : b = ((s.blocks.breakOff h.port).noteSequence h.port h.seq).writeViews h.port views)
    (f : LinkRec → LinkRec) : (b.updLink h.port f).After (s.ended (b.updLink h.port f)).blocks := by
  obtain ⟨_, _, hnote⟩ := s.blocks.noteSequence_frame h.port h.seq
  obtain ⟨_, _, hviews⟩ := ((s.blocks.breakOff h.port).noteSequence h.port h.seq).writeViews_frame h.port views
  obtain ⟨_, _, hlink⟩ := b.updLink_frame h.port f
  rw [s.blocks.breakOff_none h.port hclosed, hnote] at hviews
  rw [s.blocks.breakOff_none h.port hclosed, hnote, hviews] at hb
  refine State.ended_silent s _ ?_ ?_ ?_
  · rw [hlink, hb]
  · rw [hlink, hb, hwork]
    rfl
  · rw [hlink, hb, hwork]
    rfl

/-- Settles O54: the count by the link's state, and what becoming UP and a recheck do, line by line. -/
theorem lineStateBringsTheLinkUp : Obligations.LineStateBringsTheLinkUp := by
  unfold Obligations.LineStateBringsTheLinkUp
  intro h views l v s b hawake hset hi hl hsender hb hv
  have hwork : s.blocks.work = Work.empty := eq_of_beq hset
  have hexec := State.lineState_heard views hawake hi hl hsender
  rw [← hb] at hexec
  obtain ⟨m, hm, hstate, hvalid⟩ := Blocks.noted_link hl h.seq
  have hsilent := fun hclosed => State.lineState_silent hwork hclosed hb
  obtain ⟨_, _, hviews⟩ := ((s.blocks.breakOff h.port).noteSequence h.port h.seq).writeViews_frame h.port views
  obtain ⟨_, _, _, _, hnoted⟩ := s.blocks.noted_frame h.port h.seq
  have hlink : b.linkRec h.port = some m := by
    rw [hb, hviews]
    exact hm
  have hclock : b.clock = s.blocks.clock := by
    rw [hb, hviews, hnoted]
  refine ⟨fun hs => ?_, fun hs hcount => ?_, fun hs hcount => ?_, fun hs => ?_,
    fun c k x y hk hx hy => Blocks.writeViews_rec hk hx hy, fun c d hd => Blocks.linkBecomesUp_eq hd,
    fun c n k x w hk hx hw => ⟨Blocks.hasHolding_iff hx, fun q hq blocked hblocked a ha => ?_,
      fun old slot r p ho hr hp q hq => ?_, ?_, fun hnone =>
        Blocks.testOutgoing_none hk hx (hw ▸ hnone), fun v m d hv hm hd => ?_⟩⟩
  · rw [hexec, Blocks.countLineState_down hlink (hstate.trans hs), hclock]
    exact ⟨rfl, fun hclosed => hsilent hclosed _⟩
  · rw [hexec, Blocks.countLineState_starting hlink (hstate.trans hs) ((hvalid hs).trans hv.symm),
      if_neg (Nat.not_le.mpr hcount)]
    exact ⟨rfl, fun hclosed => hsilent hclosed _⟩
  · rw [hexec, Blocks.countLineState_starting hlink (hstate.trans hs) ((hvalid hs).trans hv.symm), if_pos hcount]
  · rw [hexec, Blocks.countLineState_up hlink (hstate.trans hs)]
  · subst hw
    have hdisagree : viewsDisagree x.token x.view = true ↔ q := (viewsDisagree_iff _ _).trans hq.symm
    have hblock : ∀ a : Blocks, blocked a = a.blockLine n := hblocked
    have hcheck := Blocks.checkToken_eq hk hx
    have hrecheck := Blocks.recheckToken_eq hx
    rw [← ha, ← hblock] at hcheck
    rw [← hblock] at hrecheck
    refine ⟨fun hno => hcheck.trans (if_neg ?_), fun hyes hm => hcheck.trans (if_pos ⟨hm, hdisagree.mpr hyes⟩),
      fun hd => hrecheck.trans (if_neg (by rw [hd]; decide)), fun hd => ?_⟩
    · exact fun ⟨hm, hd⟩ => hno.elim (· (hdisagree.mp hd)) (· hm)
    · rw [if_pos hd] at hrecheck
      exact ⟨fun hyes => hrecheck.trans (if_pos (hdisagree.mpr hyes)),
        fun hno => hrecheck.trans (if_neg fun hd => hno (hdisagree.mp hd))⟩
  · subst hw
    have heq := Blocks.recoverGrant_eq hx old ho hr hp
    exact ⟨fun hyes => heq.trans (if_pos (hq.mp hyes)), fun hno => heq.trans (if_neg fun hc => hno (hq.mpr hc))⟩
  · obtain ⟨hnone, hsome⟩ := Blocks.sendDeferredFree_cases hx
    cases hf : x.deferredFree with
    | none => exact hnone hf
    | some ref => exact hsome ref hf
  · obtain ⟨hnone, hsome⟩ := Blocks.testOutgoing_cases hk hx (hw ▸ hv) hm hd
    refine ⟨fun hno => ?_, fun r hr h2 hmarks => (hsome r hr).trans (if_pos ⟨h2, hmarks⟩)⟩
    cases hr : x.reception with
    | none => exact hnone hr
    | some r =>
      refine (hsome r hr).trans (if_neg fun ⟨h2, hmarks⟩ => ?_)
      rcases hno with h | h | ⟨y, hy, h⟩
      · rw [hr] at h
        cases h
      · exact h h2
      · rw [hmarks y hy] at h
        cases h

end Sys2Proof.Machine
end

section

namespace Sys2Proof.Machine

/-! PROOF. Telegrams that are not valid, and the collection of characters into telegrams (R125, R126, R199). -/

/-! ### A telegram discarded (R125) -/

/-- R125: a link after a telegram on it is discarded. -/
def LinkRec.discarded (l : LinkRec) : LinkRec :=
  { l with valid := if l.state = .starting then 0 else l.valid, errorReported := true }

theorem LinkRec.discarded_discarded (l : LinkRec) : l.discarded.discarded = l.discarded := by
  unfold LinkRec.discarded
  dsimp only
  split
  · rfl
  · rfl

/-- R125: BORDER_PROTOCOL_ERROR handed on, where the link has not reported an error yet. -/
def Blocks.handError (b : Blocks) (port : Nat) (l : LinkRec) : Blocks :=
  if l.errorReported then b else b.raiseAlarm .borderProtocolError (.port port) b.clock

/-- R125: a discarded telegram is the link's record replaced, and the alarm. -/
theorem Blocks.discardTelegram_marked {b : Blocks} {port : Nat} {l : LinkRec} (hl : b.linkRec port = some l) :
    Blocks.Marked ((b.withLink port l.discarded).handError port l) (b.discardTelegram port) := by
  obtain ⟨d, e⟩ := Blocks.updLink_eq hl LinkRec.discarded
  have hmarked : Blocks.Marked (b.withLink port l.discarded) (b.updLink port LinkRec.discarded) := ⟨d, e⟩
  have hclock : (b.updLink port LinkRec.discarded).clock = b.clock := by
    rw [e]
    rfl
  have heq : b.discardTelegram port = (b.updLink port LinkRec.discarded).handError port l := by
    unfold Blocks.discardTelegram
    rw [hl]
    rfl
  rw [heq]
  unfold Blocks.handError
  split
  · exact hmarked
  · rw [hclock]
    exact hmarked.raiseAlarm _ _ _

theorem Blocks.withLink_same {b : Blocks} {port : Nat} {l : LinkRec} (hl : b.linkRec port = some l) :
    b.withLink port l = b := by
  obtain ⟨hp, hval⟩ := List.getElem?_eq_some_iff.mp (Blocks.Follows.getElem?_of_join hl)
  unfold Blocks.withLink
  rw [← hval, List.set_getElem_self]

/-- R125: a second telegram discarded in one event changes nothing more. -/
theorem Blocks.discardTelegram_again {b : Blocks} {port : Nat} {l : LinkRec} (hl : b.linkRec port = some l) :
    Blocks.Marked ((b.withLink port l.discarded).handError port l) ((b.discardTelegram port).discardTelegram port) := by
  have hrec : (b.discardTelegram port).linkRec port = some l.discarded := by
    rw [Blocks.discardTelegram_rec, if_pos rfl, hl]
    rfl
  have hsecond := Blocks.discardTelegram_marked hrec
  rw [LinkRec.discarded_discarded, Blocks.withLink_same hrec] at hsecond
  exact (Blocks.discardTelegram_marked hl).trans hsecond

/-- A raise does not see the characters collected. -/
theorem Blocks.enterRaise_setCollected (b : Blocks) (port : Nat) (cs : List LineChar) (k : AlarmKind) (e : Element)
    (t : Clock) : (b.setCollected port cs).enterRaise k e t = (b.enterRaise k e t).setCollected port cs := by
  unfold Blocks.enterRaise Blocks.setCollected
  dsimp only
  split
  · split
    · rfl
    · split
      · rfl
      · rfl
  · split
    · rfl
    · rfl

/-- R125: the blocks with the alarm of a discarded telegram entered. -/
def Blocks.enterError (b : Blocks) (port : Nat) (l : LinkRec) (t : Clock) : Blocks :=
  if l.errorReported then b else b.enterRaise .borderProtocolError (.port port) t

theorem Blocks.enterError_setCollected (b : Blocks) (port : Nat) (l : LinkRec) (t : Clock) (cs : List LineChar) :
    (b.setCollected port cs).enterError port l t = (b.enterError port l t).setCollected port cs := by
  unfold Blocks.enterError
  split
  · rfl
  · exact b.enterRaise_setCollected port cs _ _ _

/-- R125, R161: an event that discards a telegram. -/
theorem State.discarded_after {s : State} {x c : Blocks} {port : Nat} {l : LinkRec}
    (h : Blocks.Marked (x.handError port l) c) (hi : x.freeIndex = s.blocks.freeIndex) (hw : x.work = Work.empty) :
    (x.enterError port l x.clock).After (s.ended c).blocks := by
  unfold Blocks.handError at h
  unfold Blocks.enterError
  split
  · rename_i hreported
    rw [if_pos hreported] at h
    exact h.after s s.port hi (congrArg Work.answers hw) (congrArg Work.alarms hw)
  · rename_i hfirst
    rw [if_neg hfirst] at h
    exact h.after_raise s s.port hi (congrArg Work.answers hw) (congrArg Work.alarms hw)

/-! ### The collection (R199) -/

theorem Blocks.collectedOn_setCollected {b : Blocks} {port : Nat} (hp : port < b.collected.length)
    (cs : List LineChar) : (b.setCollected port cs).collectedOn port = cs := by
  unfold Blocks.collectedOn
  rw [Blocks.setCollected_collected, List.getElem?_set_self hp]
  rfl

theorem Blocks.setCollected_setCollected (b : Blocks) (port : Nat) (cs ds : List LineChar) :
    (b.setCollected port cs).setCollected port ds = b.setCollected port ds := by
  unfold Blocks.setCollected
  dsimp only
  rw [List.set_set]

theorem Blocks.setCollected_closed {b : Blocks} {port : Nat} (hp : port < b.collected.length)
    (h : b.collectedOn port = []) : b.setCollected port [] = b := by
  have hval : b.collected[port] = [] := by
    unfold Blocks.collectedOn at h
    rw [List.getElem?_eq_getElem hp] at h
    exact h
  unfold Blocks.setCollected
  rw [← hval, List.set_getElem_self]

theorem Blocks.collectChar_marked {c : LineChar} (h : LineChar.marked c = true) (b : Blocks) (port : Nat) :
    b.collectChar port c = b.openTelegram port c := if_pos h

theorem Blocks.collectChar_unmarked {c : LineChar} (h : LineChar.marked c = false) (b : Blocks) (port : Nat) :
    b.collectChar port c = b.joinTelegram port c := if_neg (by rw [h]; decide)

theorem Blocks.openTelegram_cases (b : Blocks) (port : Nat) (c : LineChar) :
    (telegramLength c.data.toNat ≠ none → b.openTelegram port c = (b.breakOff port).setCollected port [c]) ∧
    (telegramLength c.data.toNat = none → b.openTelegram port c = (b.breakOff port).discardTelegram port) := by
  unfold Blocks.openTelegram
  refine ⟨fun h => if_pos (Option.isSome_iff_ne_none.mpr h), fun h => ?_⟩
  rw [h]
  rfl

theorem Blocks.breakOff_open {b : Blocks} {port : Nat} (h : b.collectedOn port ≠ []) :
    b.breakOff port = (b.setCollected port []).discardTelegram port :=
  if_neg (by rw [List.isEmpty_iff]; exact h)

theorem Blocks.joinTelegram_closed {b : Blocks} {port : Nat} (h : b.collectedOn port = []) (c : LineChar) :
    b.joinTelegram port c = b := by
  unfold Blocks.joinTelegram
  rw [h]

section

variable {b : Blocks} {port : Nat} {o : LineChar} {os : List LineChar} (ho : b.collectedOn port = o :: os)

include ho

theorem Blocks.joinTelegram_open (h : telegramLength o.data.toNat ≠ some (os.length + 2)) (c : LineChar) :
    b.joinTelegram port c = b.setCollected port (o :: os ++ [c]) := by
  unfold Blocks.joinTelegram
  rw [ho]
  exact if_neg (by simpa using h)

/-- R199: the telegram is judged at its kind's length. -/
theorem Blocks.joinTelegram_last {l : LinkRec} (hl : b.linkRec port = some l)
    (h : telegramLength o.data.toNat = some (os.length + 2)) (c : LineChar) : b.joinTelegram port c =
      if b.telegramValid port l (o :: os ++ [c]) then b.setCollected port []
      else (b.setCollected port []).discardTelegram port := by
  unfold Blocks.joinTelegram
  rw [ho]
  dsimp only
  rw [if_pos (by simpa using h), hl]

end

/-- R199: unmarked characters with no telegram open are lost. -/
theorem Blocks.collect_closed {b : Blocks} {port : Nat} (h : b.collectedOn port = []) {cs : List LineChar}
    (hcs : ∀ d ∈ cs, LineChar.marked d = false) : cs.foldl (Blocks.collectChar port) b = b := by
  induction cs with
  | nil => rfl
  | cons d cs ih =>
    rw [List.foldl_cons, Blocks.collectChar_unmarked (hcs d List.mem_cons_self), Blocks.joinTelegram_closed h]
    exact ih fun e he => hcs e (List.mem_cons_of_mem d he)

/-- R199: unmarked characters short of the telegram's length join it. -/
theorem Blocks.collect_open {b : Blocks} {port n : Nat} {o : LineChar} (hp : port < b.collected.length)
    (hn : telegramLength o.data.toNat = some n) {cs : List LineChar} (hcs : ∀ d ∈ cs, LineChar.marked d = false) :
    ∀ os : List LineChar, os.length + 1 + cs.length < n →
      cs.foldl (Blocks.collectChar port) (b.setCollected port (o :: os)) = b.setCollected port (o :: os ++ cs) := by
  induction cs with
  | nil =>
    intro os _
    rw [List.append_nil]
    rfl
  | cons d cs ih =>
    intro os hlen
    rw [List.length_cons] at hlen
    have hshort : telegramLength o.data.toNat ≠ some (os.length + 2) := fun e => by
      rw [hn] at e
      injection e
      omega
    rw [List.foldl_cons, Blocks.collectChar_unmarked (hcs d List.mem_cons_self),
      Blocks.joinTelegram_open (Blocks.collectedOn_setCollected hp (o :: os)) hshort, Blocks.setCollected_setCollected]
    have hrest := ih (fun e he => hcs e (List.mem_cons_of_mem d he)) (os ++ [d])
      (by rw [List.length_append, List.length_singleton]; omega)
    rw [List.cons_append, hrest]
    simp

theorem telegramLength_ge {kind n : Nat} (h : telegramLength kind = some n) : 7 ≤ n := by
  unfold telegramLength at h
  split at h
  all_goals cases h
  all_goals decide

/-- R199: a telegram of its kind's length, collected whole. -/
theorem Blocks.collect_whole {b : Blocks} {port : Nat} {l : LinkRec} (hp : port < b.collected.length)
    (hl : b.linkRec port = some l) {c : LineChar} {cs : List LineChar} (hcs : ∀ d ∈ cs, LineChar.marked d = false)
    (hn : telegramLength c.data.toNat = some (cs.length + 1)) :
    cs.foldl (Blocks.collectChar port) (b.setCollected port [c]) =
      if b.telegramValid port l (c :: cs) then b.setCollected port []
      else (b.setCollected port []).discardTelegram port := by
  rcases List.eq_nil_or_concat cs with rfl | ⟨init, d, rfl⟩
  · have := telegramLength_ge hn
    simp at this
  rw [List.length_concat] at hn
  have hinit := Blocks.collect_open hp hn (cs := init) (fun e he => hcs e (by simp [he])) []
    (by rw [List.length_nil]; omega)
  rw [List.singleton_append] at hinit
  rw [List.concat_eq_append, List.foldl_append, hinit, List.foldl_cons, List.foldl_nil,
    Blocks.collectChar_unmarked (hcs d (by simp)),
    Blocks.joinTelegram_last (Blocks.collectedOn_setCollected hp _) (l := l) hl hn]
  simp only [Blocks.setCollected_setCollected]
  rfl

/-- R199: characters of which the first is marked, with no telegram open. -/
theorem Blocks.collect_fresh {b : Blocks} {port : Nat} {l : LinkRec} (hclosed : b.collectedOn port = [])
    (hp : port < b.collected.length) (hl : b.linkRec port = some l) {c : LineChar} {cs : List LineChar}
    (hc : LineChar.marked c = true) (hcs : ∀ d ∈ cs, LineChar.marked d = false) :
    (telegramLength c.data.toNat = none → (c :: cs).foldl (Blocks.collectChar port) b = b.discardTelegram port) ∧
    (telegramLength c.data.toNat = some (cs.length + 1) → (c :: cs).foldl (Blocks.collectChar port) b =
      if b.telegramValid port l (c :: cs) then b else b.discardTelegram port) ∧
    ∀ n, telegramLength c.data.toNat = some n → cs.length + 1 < n →
      (c :: cs).foldl (Blocks.collectChar port) b = b.setCollected port (c :: cs) := by
  obtain ⟨hknown, hunknown⟩ := b.openTelegram_cases port c
  rw [b.breakOff_none port hclosed] at hknown hunknown
  rw [List.foldl_cons, Blocks.collectChar_marked hc]
  refine ⟨fun hn => ?_, fun hn => ?_, fun n hn hlen => ?_⟩
  · rw [hunknown hn]
    refine Blocks.collect_closed ?_ hcs
    obtain ⟨_, _, _, e⟩ := b.discardTelegram_frame port
    rw [e]
    exact hclosed
  · rw [hknown (by rw [hn]; exact Option.some_ne_none _), Blocks.collect_whole hp hl hcs hn,
      Blocks.setCollected_closed hp hclosed]
  · rw [hknown (by rw [hn]; exact Option.some_ne_none _), Blocks.collect_open hp hn hcs []
      (by rw [List.length_nil]; omega)]
    rfl

/-- R125, R199: a telegram broken off by one that opens. -/
theorem Blocks.discardTelegram_setCollected {b : Blocks} {port : Nat} {l : LinkRec} (hl : b.linkRec port = some l)
    (cs : List LineChar) : Blocks.Marked (((b.setCollected port cs).withLink port l.discarded).handError port l)
      (((b.setCollected port []).discardTelegram port).setCollected port cs) := by
  have h := (Blocks.discardTelegram_marked (b := b.setCollected port []) hl).setCollected port cs
  have hset : (((b.setCollected port []).withLink port l.discarded).handError port l).setCollected port cs =
      ((b.setCollected port cs).withLink port l.discarded).handError port l := by
    rw [← b.setCollected_setCollected port [] cs]
    unfold Blocks.handError
    split
    · rfl
    · rfl
  rwa [hset] at h

/-! ### The events -/

/-- R199, log entry 16: the characters of INVALID_BORDER_TELEGRAM on a port in use, one by one. -/
theorem State.invalidTelegram_next {s : State} {port : Nat} {l : LinkRec} (hawake : s.asleep = false)
    (hi : s.blocks.inForce ≠ none) (hl : s.blocks.linkRec port = some l) (cs : List LineChar) :
    exec (.invalidBorderTelegram port cs) s = .next (s.ended (cs.foldl (Blocks.collectChar port) s.blocks)) := by
  obtain ⟨w, hw⟩ := Option.ne_none_iff_exists'.mp hi
  refine State.event_next s (·.onInvalidTelegram port cs) _ hawake ?_
  unfold Blocks.onInvalidTelegram
  rw [show s.blocks.image? = some w.image by unfold Blocks.image?; rw [hw]; rfl, hl]

/-- R126: a telegram that names a line is received as such, whatever its action. -/
theorem exec_lineTelegram {h : TelegramHead} {line : Byte} {ref : Word16} {f : TelegramIdentity} {c : Instr}
    (hc : c ∈ lineTelegrams h line ref f) (s : State) :
    ∃ act : Blocks → Blocks → Nat → Blocks, exec c s = s.event (fun b => b.receiveLine h line (act b)) := by
  simp only [lineTelegrams, List.mem_cons, List.not_mem_nil, or_false] at hc
  rcases hc with rfl | rfl | rfl | rfl | rfl | rfl | rfl | rfl | rfl
  · exact ⟨fun _ => Blocks.onTokenAsk, rfl⟩
  · exact ⟨fun _ => Blocks.onTokenGive, rfl⟩
  · exact ⟨fun _ => Blocks.endTokenAsk, rfl⟩
  · exact ⟨fun b c n => c.onEntryAsk n ref (readIdentity b.freeIndex f), rfl⟩
  · exact ⟨fun _ b n => b.onEntryGrant n ref, rfl⟩
  · exact ⟨fun _ b n => b.onEntryDeny n ref, rfl⟩
  · exact ⟨fun _ b n => b.onEntryFree n ref, rfl⟩
  · exact ⟨fun b c n => c.onTrainPass n (readIdentity b.freeIndex f), rfl⟩
  · exact ⟨fun _ => Blocks.onTrainTaken, rfl⟩

/-- Settles O55: the collection by what stands on the port, and the telegrams of the rows by sender, line and link. -/
theorem badTelegramsAreDiscarded : Obligations.BadTelegramsAreDiscarded := by
  unfold Obligations.BadTelegramsAreDiscarded
  intro port l m s x hawake hset hi hl hp hm hx
  have hwork : s.blocks.work = Work.empty := eq_of_beq hset
  have hcollect := State.invalidTelegram_next hawake hi hl
  replace hx : x = (s.blocks.withLink port l.discarded).enterError port l s.blocks.clock := by
    rw [hx, hm]
    rfl
  have hdiscarded : x.After (s.ended (s.blocks.discardTelegram port)).blocks :=
    hx ▸ State.discarded_after (Blocks.discardTelegram_marked hl) rfl hwork
  have hreset : ∀ cs, (x.setCollected port cs) =
      ((s.blocks.setCollected port cs).withLink port l.discarded).enterError port l s.blocks.clock := fun cs => by
    rw [hx, ← Blocks.enterError_setCollected]
    rfl
  refine ⟨fun hclosed cs hcs => ⟨?_, fun c hc => ?_⟩, fun o os ho c => ⟨fun hc => ?_, fun hc => ?_⟩, fun h hh => ?_⟩
  · rw [hcollect, Blocks.collect_closed hclosed hcs]
  · obtain ⟨hunknown, hwhole, hopen⟩ := Blocks.collect_fresh hclosed hp hl hc hcs
    refine ⟨fun hbad => ?_, fun hn hvalid => ?_, fun n hn hlen => ?_⟩
    · have hexec : exec (.invalidBorderTelegram port (c :: cs)) s =
          .next (s.ended (s.blocks.discardTelegram port)) := by
        rw [hcollect]
        rcases hbad with hn | ⟨hn, hinvalid⟩
        · rw [hunknown hn]
        · rw [hwhole hn, if_neg (by rw [hinvalid]; decide)]
      refine ⟨hexec, ?_⟩
      rw [hexec]
      exact hdiscarded
    · rw [hcollect, hwhole hn, if_pos hvalid]
    · rw [hcollect, hopen n hn hlen]
  · obtain ⟨hknown, hunknown⟩ := s.blocks.openTelegram_cases port c
    rw [Blocks.breakOff_open (by rw [ho]; exact List.cons_ne_nil o os)] at hknown hunknown
    rw [hcollect, List.foldl_cons, List.foldl_nil, Blocks.collectChar_marked hc]
    refine ⟨fun hn => ?_, fun hn => ?_⟩
    · rw [hknown hn, hreset]
      exact ⟨rfl, State.discarded_after (Blocks.discardTelegram_setCollected hl [c]) rfl hwork⟩
    · rw [hunknown hn, hreset]
      exact ⟨rfl, State.discarded_after
        (Blocks.discardTelegram_again (b := s.blocks.setCollected port []) hl) rfl hwork⟩
  · rw [hcollect, List.foldl_cons, List.foldl_nil, Blocks.collectChar_unmarked hc]
    refine ⟨fun hn => ?_, fun hn => ⟨fun hinvalid => ?_, fun hvalid => ?_⟩⟩
    · rw [Blocks.joinTelegram_open ho hn]
    · rw [Blocks.joinTelegram_last ho hl hn, if_neg (by rw [hinvalid]; decide), hreset]
      exact ⟨rfl, State.discarded_after
        (Blocks.discardTelegram_marked (b := s.blocks.setCollected port []) hl) rfl hwork⟩
    · rw [Blocks.joinTelegram_last ho hl hn, if_pos hvalid]
  · subst hh
    have hbad : ∀ c, exec c s = .next (s.ended ((s.blocks.breakOff h.port).discardTelegram h.port)) →
        exec c s = .next (s.ended ((s.blocks.breakOff h.port).discardTelegram h.port)) ∧
          (s.blocks.collectedOn h.port = [] → goesOn (exec c s) (fun t => x.After t.blocks)) := fun c hc => by
      refine ⟨hc, fun hclosed => ?_⟩
      rw [hc, s.blocks.breakOff_none h.port hclosed]
      exact hdiscarded
    refine ⟨fun hsender views => hbad _ ?_, fun line ref f c hc => ?_⟩
    · exact State.event_next s (·.onLineState h views) _ hawake
        (Blocks.receive_bad s.blocks h none _ l hi hl (.inl hsender))
    · obtain ⟨act, hact⟩ := exec_lineTelegram hc s
      refine ⟨fun hwrong => hbad c (hact.trans ?_), fun hsender hport hentry hdown => hact.trans ?_⟩
      · exact State.event_next s _ _ hawake (Blocks.receive_bad s.blocks h _ _ l hi hl
          (hwrong.imp_right fun hline => ⟨_, rfl, hline⟩))
      · refine State.event_next s _ _ hawake ?_
        unfold Blocks.receiveLine
        rw [Blocks.receive_good s.blocks h _ _ l hi hl hsender fun n hn => by cases hn; exact ⟨hport, hentry⟩,
          Blocks.noted_linkUp s.blocks h.port h.seq l hl, decide_eq_false hdown]
        rfl

end Sys2Proof.Machine
end

section

namespace Sys2Proof.Machine

/-! PROOF. A request of the restriction unit over blocks that hand on no answer and no alarm: answered in its event, or
with a write queued (R174). -/

/-! ### What the event hands on -/

/-- Blocks x, which an event makes of those of s, hand on no answer and no alarm, and no free value has been drawn. -/
structure State.Silent (s : State) (x : Blocks) : Prop where
  index : x.freeIndex = s.blocks.freeIndex
  answers : x.work.answers = []
  alarms : x.work.alarms = []

theorem State.Silent.of_serving {s : State} {k : RequestKind} {q : Request} (h : s.serving k q) : s.Silent s.blocks := by
  obtain ⟨-, -, -, -, -, hwork⟩ := h
  exact ⟨rfl, congrArg Work.answers hwork, congrArg Work.alarms hwork⟩

namespace State.Silent

variable {s : State} {x : Blocks} (h : s.Silent x)

include h

theorem disarm (a : ArmRec) : s.Silent (x.disarm a) := ⟨h.index, h.answers, h.alarms⟩

theorem setArms (as : List ArmRec) : s.Silent { x with arms := as } := ⟨h.index, h.answers, h.alarms⟩

theorem setReminder (e : Element) (v : Bool) : s.Silent (x.setReminder e v) := by
  obtain ⟨_, _, _, _, _, _, _, eq⟩ := x.setReminder_frame e v
  rw [eq]
  exact ⟨h.index, h.answers, h.alarms⟩

theorem setStanding (e : Element) (v : Bool) : s.Silent (x.setStanding e v) := by
  obtain ⟨_, _, _, _, _, _, _, eq⟩ := x.setStanding_frame e v
  rw [eq]
  exact ⟨h.index, h.answers, h.alarms⟩

theorem updArea (n : Nat) (f : PossessionRec → PossessionRec) : s.Silent (x.updArea n f) := by
  obtain ⟨_, _, eq⟩ := x.updArea_frame n f
  rw [eq]
  exact ⟨h.index, h.answers, h.alarms⟩

theorem withWrite (w : Write) : s.Silent (x.withWrite w) := by
  obtain ⟨hindex, hwork⟩ := x.withWrite_idle w
  exact ⟨hindex.trans h.index, (congrArg Work.answers hwork).trans h.answers, (congrArg Work.alarms hwork).trans h.alarms⟩

/-- A request answered in its event. -/
theorem answered {c : Instr} {k : RequestKind} {q : Request} {o : CellOutcome} {d : Detail} (hs : s.serving k q)
    (hx : exec c s = .next (s.served (x.answer q.cell o d))) :
    goesOn (exec c s) (fun t => t.answered q.cell o d ∧ x.After t.blocks) :=
  (State.serves_over hs hx h.index h.answers h.alarms).2

/-- With nothing for its follow-ups to act on, a request that leaves its cell open leaves every in-flight mark. -/
theorem served_inFlight (hq : x.quiet) : (s.served x).port.inFlight = s.port.inFlight := by
  have hsettled : x.settle.work.answers = [] := by
    rw [x.settle_of_quiet hq]
    exact h.answers
  obtain ⟨-, hflight, -⟩ := State.finish_port s { s.port with handed := none } x.settle
  rw [hsettled] at hflight
  exact hflight

/-! ### A write queued (R174) -/

/-- R174: with room in the list the write joins it, and the cell stays open. -/
theorem queued_after (hroom : x.writes.length < 32) (v : RecordValue) (r : Report) :
    (x.withWrite (.record v r)).After (s.served (x.queueRecord v r)).blocks := by
  rw [Blocks.queueRecord_room hroom]
  have hw := h.withWrite (.record v r)
  exact State.served_open s _ hw.index hw.answers hw.alarms

/-- R174: with the list full the request is answered STORE_FAULT in its event, and the alarm is raised. -/
theorem queued_fault {k : RequestKind} {q : Request} (hs : s.serving k q) (hfull : 32 ≤ x.writes.length)
    (v : RecordValue) {a : Answer} (ha : a.cell = q.cell) :
    (s.served (x.queueRecord v (.answer a))).answered q.cell .storeFault .none ∧
      (x.enterRaise .storeFault .device x.clock).After (s.served (x.queueRecord v (.answer a))).blocks := by
  have hqueue : x.queueRecord v (.answer a) = x.storeFault.answer q.cell .storeFault .none := by
    unfold Blocks.queueRecord
    rw [if_pos hfull, ← ha]
    rfl
  rw [hqueue]
  refine State.served_op hs x _ .storeFault .none (.raised .storeFault .device x.clock) rfl h.index ?_ ?_ rfl rfl rfl
  · show x.work.answers ++ _ = _
    rw [h.answers]
    rfl
  · show x.work.alarms ++ _ = _
    rw [h.alarms]
    rfl

end State.Silent

/-- R174: a write queued, or reported failed at once, changes the list, what is handed on and the line of a give. -/
theorem Blocks.queueRecord_frame (b : Blocks) (v : RecordValue) (r : Report) : ∃ x ws ks ls w,
    b.queueRecord v r = { b with running := x, writes := ws, links := ks, lines := ls, work := w } := by
  unfold Blocks.queueRecord
  split
  · unfold Blocks.reportWrite
    split
    · exact ⟨_, _, _, _, _, rfl⟩
    · rename_i n
      obtain ⟨_, _, _, _, e⟩ := b.storeFault.sendGive_frame n
      rw [e]
      exact ⟨_, _, _, _, _, rfl⟩
    · exact ⟨_, _, _, _, _, rfl⟩
  · split
    · exact ⟨_, _, _, _, _, rfl⟩
    · exact ⟨_, _, _, _, _, rfl⟩

end Sys2Proof.Machine
end

section

namespace Sys2Proof.Machine

/-! PROOF. Reminders and standing restrictions (R144, R145, R157). -/

/-! ### A mark after it is set -/

theorem Blocks.recorded_cases {b : Blocks} {e : Element} (h : b.recorded e) :
    (e.kind = .sec ∧ ∃ r, b.sectionRec e.number = some r) ∨ (e.kind = .point ∧ ∃ p, b.pointRec e.number = some p) ∨
      (e.kind = .signal ∧ ∃ r, b.signalRec e.number = some r) := by
  unfold Blocks.recorded at h
  split at h
  · exact .inl ⟨‹_›, Option.ne_none_iff_exists'.mp h⟩
  · exact .inr (.inl ⟨‹_›, Option.ne_none_iff_exists'.mp h⟩)
  · exact .inr (.inr ⟨‹_›, Option.ne_none_iff_exists'.mp h⟩)
  · exact h.elim

theorem Blocks.setReminder_reminderOf {b : Blocks} {e : Element} (h : b.recorded e) (v : Bool) :
    (b.setReminder e v).reminderOf e = v := by
  unfold Blocks.setReminder Blocks.reminderOf
  obtain ⟨hk, r, hr⟩ | ⟨hk, r, hr⟩ | ⟨hk, r, hr⟩ := b.recorded_cases h
  · simp [hk, Blocks.updSection_rec, hr]
  · simp [hk, Blocks.updPoint_rec, hr]
  · simp [hk, Blocks.updSignal_rec, hr]

theorem Blocks.setStanding_standingOf {b : Blocks} {e : Element} (h : b.recorded e) (v : Bool) :
    (b.setStanding e v).standingOf e = v := by
  unfold Blocks.setStanding Blocks.standingOf
  obtain ⟨hk, r, hr⟩ | ⟨hk, r, hr⟩ | ⟨hk, r, hr⟩ := b.recorded_cases h
  · simp [hk, Blocks.updSection_rec, hr]
  · simp [hk, Blocks.updPoint_rec, hr]
  · simp [hk, Blocks.updSignal_rec, hr]

/-- R144: an element with a standing restriction has its record. -/
theorem Blocks.recorded_of_standingOf {b : Blocks} {e : Element} (h : b.standingOf e = true) : b.recorded e := by
  have some_of_any : ∀ {α : Type} {x : Option α} {g : α → Bool}, x.any g = true → x ≠ none := fun hx hn => by
    rw [hn] at hx
    cases hx
  obtain ⟨k, n⟩ := e
  cases k with
  | sec => exact some_of_any h
  | point => exact some_of_any h
  | signal => exact some_of_any h
  | _ => exact absurd h Bool.false_ne_true

/-! ### The requests and the operation -/

theorem Blocks.removeReminder_eq {b : Blocks} {q : Request} {e : Element} (he : b.elementOperand q = .ok e) :
    b.removeReminder q = if b.reminderOf e then (b.setReminder e false).answer q.cell .done .none
      else b.answer q.cell .notFound .none := by
  unfold Blocks.removeReminder
  rw [he]

theorem Blocks.applyStanding_eq {b : Blocks} {q : Request} {e : Element} (he : b.elementOperand q = .ok e) :
    b.applyStanding q = if b.standingOf e then b.answer q.cell .done .none
      else (b.setStanding e true).queueRecord (.standing e true) (doneAfterWrite q.cell) := by
  unfold Blocks.applyStanding
  rw [he]

/-- A standing restriction mark leaves the write list and the clock, and gives an event nothing to act on. -/
theorem Blocks.setStanding_rest (b : Blocks) (e : Element) (v : Bool) : (b.setStanding e v).writes = b.writes ∧
    (b.setStanding e v).clock = b.clock ∧ (b.quiet → (b.setStanding e v).quiet) := by
  obtain ⟨_, _, _, _, _, _, _, eq⟩ := b.setStanding_frame e v
  rw [eq]
  exact ⟨rfl, rfl, Blocks.quiet_congr rfl rfl rfl rfl rfl rfl rfl⟩

theorem Blocks.withWrite_quiet {b : Blocks} (h : b.quiet) (w : Write) : (b.withWrite w).quiet := by
  obtain ⟨_, _, eq⟩ := b.withWrite_frame w
  rw [eq]
  exact Blocks.quiet_congr rfl rfl rfl rfl rfl rfl rfl h

/-- R145, R157: the mark stands after the event whatever becomes of its write. -/
theorem State.served_standingOf (s : State) {x : Blocks} {e : Element} (h : x.recorded e) (v : Bool) (w : RecordValue)
    (r : Report) : (s.served ((x.setStanding e v).queueRecord w r)).blocks.standingOf e = v := by
  rw [(State.served_kept s _).standingOf]
  obtain ⟨_, _, _, _, _, eq⟩ := (x.setStanding e v).queueRecord_frame w r
  rw [eq]
  exact x.setStanding_standingOf h v

/-- Settles O20: a request of bad parameters, of a mark set or cleared, and of a mark that is no, each answered in its
event. -/
theorem remindersAreSetAndCleared : Obligations.RemindersAreSetAndCleared := by
  unfold Obligations.RemindersAreSetAndCleared
  intro q s
  have happly : s.serving .applyReminder q →
      exec .applyReminder s = .next (s.served (s.blocks.applyReminder q)) :=
    State.serving_next s .applyReminder Blocks.applyReminder q
  have hremove : s.serving .removeReminder q →
      exec .removeReminder s = .next (s.served (s.blocks.removeReminder q)) :=
    State.serving_next s .removeReminder Blocks.removeReminder q
  have hmarked : ∀ {c k e v}, s.blocks.recorded e → s.serving k q →
      exec c s = .next (s.served ((s.blocks.setReminder e v).answer q.cell .done .none)) →
      goesOn (exec c s) (fun t => t.answered q.cell .done .none ∧ t.blocks.reminderOf e = v ∧
        (s.blocks.setReminder e v).After t.blocks) := fun {c k e v} hrec h hexec => by
    have hserved := ((State.Silent.of_serving h).setReminder e v).answered h hexec
    rw [hexec] at hserved ⊢
    obtain ⟨hanswered, hafter⟩ := hserved
    exact ⟨hanswered, (hafter.kept.reminderOf e).trans (s.blocks.setReminder_reminderOf hrec v), hafter⟩
  refine ⟨fun o ho => ⟨fun h => ?_, fun h => ?_⟩, fun e he hrec => ⟨fun h => ?_, fun h hyes => ?_, fun h hno => ?_⟩⟩
  · refine (State.Silent.of_serving h).answered h ((happly h).trans ?_)
    unfold Blocks.applyReminder
    rw [ho]
  · refine (State.Silent.of_serving h).answered h ((hremove h).trans ?_)
    unfold Blocks.removeReminder
    rw [ho]
  · refine hmarked hrec h ((happly h).trans ?_)
    unfold Blocks.applyReminder
    rw [he]
  · exact hmarked hrec h ((hremove h).trans (by rw [Blocks.removeReminder_eq he, if_pos hyes]))
  · exact (State.Silent.of_serving h).answered h
      ((hremove h).trans (by rw [Blocks.removeReminder_eq he, if_neg (by rw [hno]; decide)]))

/-- Settles O21: the mark is set before its write, which joins the list or is reported failed at once. -/
theorem standingRestrictionHoldsBeforeItsWrite : Obligations.StandingRestrictionHoldsBeforeItsWrite := by
  unfold Obligations.StandingRestrictionHoldsBeforeItsWrite
  intro q s h
  have hsilent := State.Silent.of_serving h
  have hexec : exec .applyStandingRestriction s = .next (s.served (s.blocks.applyStanding q)) :=
    State.serving_next s .applyStanding Blocks.applyStanding q h
  refine ⟨fun o ho => hsilent.answered h (hexec.trans ?_), fun e he hrec => ?_⟩
  · unfold Blocks.applyStanding
    rw [ho]
  rw [Blocks.applyStanding_eq he] at hexec
  obtain ⟨hwrites, hclock, hquiet⟩ := s.blocks.setStanding_rest e true
  have hset := hsilent.setStanding e true
  have hmark := s.served_standingOf hrec true (.standing e true) (doneAfterWrite q.cell)
  refine ⟨fun hyes => ?_, fun hno hroom => ?_, fun hno hfull => ?_⟩
  · rw [if_pos hyes] at hexec
    exact hsilent.answered h hexec
  · rw [if_neg (by rw [hno]; decide)] at hexec
    rw [hexec]
    rw [← hwrites] at hroom
    refine ⟨hmark, hset.queued_after hroom _ _, fun hq => ?_⟩
    rw [Blocks.queueRecord_room hroom]
    exact (hset.withWrite _).served_inFlight (Blocks.withWrite_quiet (hquiet hq) _)
  · rw [if_neg (by rw [hno]; decide)] at hexec
    rw [hexec]
    obtain ⟨hanswered, hafter⟩ := hset.queued_fault h (hwrites ▸ hfull) (.standing e true)
      (a := { cell := q.cell, outcome := .done, detail := .none }) rfl
    rw [hclock] at hafter
    exact ⟨hanswered, hmark, hafter⟩

end Sys2Proof.Machine
end

section

namespace Sys2Proof.Machine

/-! PROOF. GRANT POSSESSION and LIFT POSSESSION (R147 to R151). -/

/-! ### A possession's record and its write -/

theorem Blocks.storeArea_areas (b : Blocks) (n m : Nat) (r : PossessionRec) (a : Answer) :
    (b.storeArea n r a).areas[m]? = if n = m then (b.areas[m]?).map (fun _ => r) else b.areas[m]? := by
  obtain ⟨_, _, _, _, _, eq⟩ := (b.updArea n (fun _ => r)).queueRecord_frame (.possession n r.stored) (.answer a)
  rw [← b.updArea_rec n m (fun _ => r)]
  unfold Blocks.storeArea
  rw [eq]

/-- A possession's record stored leaves the sections. -/
theorem Blocks.storeArea_occupancy (b : Blocks) (n k : Nat) (r : PossessionRec) (a : Answer) :
    (b.storeArea n r a).occupancy k = b.occupancy k := by
  obtain ⟨_, _, _, _, _, eq⟩ := (b.updArea n (fun _ => r)).queueRecord_frame (.possession n r.stored) (.answer a)
  obtain ⟨_, _, harea⟩ := b.updArea_frame n (fun _ => r)
  unfold Blocks.storeArea
  rw [eq, harea]
  rfl

/-- R147: the record stands after the event whatever becomes of its write. -/
theorem State.served_area (s : State) {x : Blocks} {n : Nat} {r : PossessionRec} (h : x.areas[n]? = some r)
    (v : PossessionRec) (a : Answer) : (s.served (x.storeArea n v a)).blocks.areas[n]? = some v := by
  rw [(State.served_kept s _).areas, Blocks.storeArea_areas, if_pos rfl, h]
  rfl

/-! ### GRANT POSSESSION (R148, R149) -/

/-- R148: the record of a possession granted at a time. -/
def PossessionRec.grantedAs (reference : Nat) (t : Clock) : PossessionRec :=
  { state := .granted, reference := some reference, attempts := 5, grantedAt := some t }

section

variable {b : Blocks} {q : Request}

theorem Blocks.grantPossession_noArea (h : b.areas[q.field 28 1]? = none) :
    b.grantPossession q = b.answer q.cell .badParameter (.parameter 28) := by
  unfold Blocks.grantPossession
  dsimp only
  rw [h]

/-- R148: an area of the image, by the reference and the state of its record. -/
theorem Blocks.grantPossession_eq {r : PossessionRec} (h : b.areas[q.field 28 1]? = some r) :
    b.grantPossession q =
      if q.field 30 2 = 0 then b.answer q.cell .badParameter (.parameter 30)
      else if r.state = .granted then b.answer q.cell .active (.element (.area (q.field 28 1)) .none 0)
      else if r.state = .barred then b.answer q.cell .barred .none
      else b.grant (q.field 28 1) (q.field 30 2) q.cell := by
  unfold Blocks.grantPossession
  dsimp only
  rw [h]
  dsimp only
  cases r.state <;> rfl

end

/-- R149: a claim set refused names its first unavailable element. -/
theorem Blocks.grant_refused {b : Blocks} {area : Nat} {f : Finding} (reference cell : Nat)
    (h : b.checkClaim ((b.possessionHolds area).map Hold.item) = some f) :
    b.grant area reference cell = b.answer cell .conflict f.detail := by
  unfold Blocks.grant Blocks.claim
  rw [h]

/-- R148: a claim set applied, and the record from the clock of the event, which the claim set leaves. -/
theorem Blocks.grant_applied {b : Blocks} {area : Nat} (reference cell : Nat)
    (h : b.checkClaim ((b.possessionHolds area).map Hold.item) = none) :
    b.grant area reference cell = (b.applyClaim (.area area) ((b.possessionHolds area).map Hold.item)).storeArea area
      (.grantedAs reference b.clock) { cell := cell, outcome := .done, detail := .none } := by
  have hclock : (b.applyClaim (.area area) ((b.possessionHolds area).map Hold.item)).clock = b.clock :=
    ((Blocks.Follows.refl false b).applyClaim _ _).clock
  unfold Blocks.grant Blocks.claim
  rw [h, ← hclock]
  rfl

/-- Settles O22: the parameters, the record's state and the claim set in turn, each answered in its event; then the
record with its write. -/
theorem possessionIsGranted : Obligations.PossessionIsGranted := by
  unfold Obligations.PossessionIsGranted
  intro q s n ref h hn href
  have hsilent := State.Silent.of_serving h
  have hexec : exec .grantPossession s = .next (s.served (s.blocks.grantPossession q)) :=
    State.serving_next s .grantPossession Blocks.grantPossession q h
  refine ⟨fun hout => ?_, fun r hr => ?_⟩
  · rw [Blocks.grantPossession_noArea (hn ▸ List.getElem?_eq_none hout)] at hexec
    exact hsilent.answered h hexec
  rw [Blocks.grantPossession_eq (hn ▸ hr), ← hn, ← href] at hexec
  refine ⟨fun hzero => ?_, fun hne hst => ?_, fun hne hst => ?_, fun f hne hst hf => ?_, fun hne hst hf => ?_⟩
  · rw [if_pos hzero] at hexec
    exact hsilent.answered h hexec
  · rw [if_neg hne, if_pos hst] at hexec
    exact hsilent.answered h hexec
  · rw [if_neg hne, if_neg (by rw [hst]; decide), if_pos hst] at hexec
    exact hsilent.answered h hexec
  all_goals rw [if_neg hne, if_neg (by rw [hst]; decide), if_neg (by rw [hst]; decide)] at hexec
  · rw [Blocks.grant_refused ref q.cell hf] at hexec
    exact hsilent.answered h hexec
  · rw [Blocks.grant_applied ref q.cell hf] at hexec
    rw [hexec]
    have harea : (s.blocks.applyClaim (.area n) ((s.blocks.possessionHolds n).map Hold.item)).areas[n]? = some r := by
      rw [((Blocks.Follows.refl false s.blocks).applyClaim _ _).areas]
      exact hr
    exact ⟨s.served_area harea _ _, rfl⟩

/-! ### The lift (R150) -/

/-- R150: the COUNTED sections of an area, in the order of its entry. -/
def Blocks.countedSections (b : Blocks) (area : Nat) : List Nat :=
  (((b.areaEntry area).map (·.sections)).getD []).filter (fun n => (b.sectionEntry n).any (fun e => e.kind = .counted))

theorem Blocks.mem_countedSections (b : Blocks) (area k : Nat) : k ∈ b.countedSections area ↔
    (b.areaEntry area).any (fun a => a.sections.contains k) = true ∧
      (b.sectionEntry k).any (fun e => e.kind = .counted) = true := by
  unfold Blocks.countedSections
  rw [List.mem_filter]
  cases b.areaEntry area <;> simp

/-- A section lost changes the sections and what is handed on. -/
theorem Blocks.loseSection_frame (b : Blocks) (n : Nat) (t : Clock) : ∃ ss w,
    b.loseSection n t = { b with sections := ss, work := w } := by
  obtain ⟨_, _, _, _, _, _, hset⟩ := b.setOccupancy_frame n .disturbed t none
  obtain ⟨_, _, hupd⟩ := (b.setOccupancy n .disturbed t none).updSection_frame n
    (fun r => { r with identity := none, confirm := none })
  unfold Blocks.loseSection
  rw [hupd, hset]
  exact ⟨_, _, rfl⟩

theorem Blocks.loseSection_occupancy (b : Blocks) (n : Nat) (t : Clock) (k : Nat) :
    (b.loseSection n t).occupancy k = (b.occupancy k).map (fun o => if n = k then .disturbed else o) := by
  unfold Blocks.occupancy
  rw [b.loseSection_rec n t k, Option.map_map, Option.map_map]
  refine congrArg (Option.map · (b.sectionRec k)) (funext fun r => ?_)
  show (if n = k then r.lost t else r).occupancy = if n = k then .disturbed else r.occupancy
  split <;> rfl

theorem Blocks.loseSections_occupancy (b : Blocks) (l : List Nat) (t : Clock) (k : Nat) :
    (l.foldl (fun b n => b.loseSection n t) b).occupancy k =
      if k ∈ l then (b.occupancy k).map (fun _ => .disturbed) else b.occupancy k := by
  rw [foldl_get (Blocks.occupancy · k) _ (fun o n => if n = k then .disturbed else o)
    (fun b n => b.loseSection_occupancy n t k)]
  have hfold : ∀ o : Occupancy, l.foldl (fun o n => if n = k then .disturbed else o) o =
      if k ∈ l then .disturbed else o := fun o => by
    simpa using foldl_const _ id (fun n => n = k) .disturbed l (fun n _ o => by simp) o
  by_cases hk : k ∈ l <;> simp [hfold, hk]

/-- R150: the sections of a lift are lost at the clock of the event, which a loss leaves. -/
theorem Blocks.loseSections_clock (l : List Nat) : ∀ b : Blocks,
    l.foldl (fun b n => b.loseSection n b.clock) b = l.foldl (fun c n => c.loseSection n b.clock) b := by
  induction l with
  | nil => exact fun _ => rfl
  | cons n l ih =>
    intro b
    have hclock : (b.loseSection n b.clock).clock = b.clock := by
      obtain ⟨_, _, eq⟩ := b.loseSection_frame n b.clock
      rw [eq]
    rw [List.foldl_cons, List.foldl_cons, ih, hclock]

theorem Blocks.loseSections_areas (b : Blocks) (l : List Nat) (t : Clock) :
    (l.foldl (fun b n => b.loseSection n t) b).areas = b.areas :=
  foldl_same Blocks.areas _ (fun b n => by
    obtain ⟨_, _, eq⟩ := b.loseSection_frame n t
    rw [eq]) l b

/-- R150: the blocks of a lift before the record is freed. -/
def Blocks.givenBack (b : Blocks) (area : Nat) : Blocks :=
  (b.countedSections area).foldl (fun c n => c.loseSection n b.clock) (b.release (.area area) (b.possessionHolds area))

theorem Blocks.lift_eq (b : Blocks) (area cell : Nat) : b.lift area cell =
    (b.givenBack area).storeArea area PossessionRec.free { cell := cell, outcome := .done, detail := .none } := by
  have hrel := (Blocks.Follows.refl false b).release (.area area) (b.possessionHolds area)
  have hsections : (b.release (.area area) (b.possessionHolds area)).countedSections area = b.countedSections area := by
    unfold Blocks.countedSections Blocks.areaEntry Blocks.sectionEntry Blocks.image?
    rw [hrel.inForce]
  unfold Blocks.givenBack
  rw [← hsections, ← hrel.clock, ← Blocks.loseSections_clock]
  rfl

theorem Blocks.givenBack_areas (b : Blocks) (area : Nat) : (b.givenBack area).areas = b.areas :=
  (Blocks.loseSections_areas _ _ _).trans ((Blocks.Follows.refl false b).release _ _).areas

theorem Blocks.givenBack_occupancy (b : Blocks) (area k : Nat) : (b.givenBack area).occupancy k =
    if k ∈ b.countedSections area then (b.occupancy k).map (fun _ => .disturbed) else b.occupancy k := by
  have hrel : (b.release (.area area) (b.possessionHolds area)).occupancy k = b.occupancy k :=
    Blocks.Kept.view (getElem?_map_eq ((Blocks.Follows.refl false b).release _ _).sections k) _ (·.1) (fun _ => rfl)
  unfold Blocks.givenBack
  rw [Blocks.loseSections_occupancy, hrel]

/-- R150: the record is FREE after the event of a lift. -/
theorem State.served_lift_area (s : State) {x : Blocks} {n : Nat} {r : PossessionRec} (h : x.areas[n]? = some r)
    (cell : Nat) : (s.served (x.lift n cell)).blocks.areas[n]? = some PossessionRec.free := by
  rw [x.lift_eq]
  exact s.served_area (by rw [x.givenBack_areas]; exact h) _ _

/-! ### LIFT POSSESSION (R150, R151) -/

/-- R151: the record after a wrong reference. -/
def PossessionRec.mismatched (r : PossessionRec) : PossessionRec :=
  { r with attempts := r.attempts - 1, state := if r.attempts - 1 = 0 then .barred else .granted }

section

variable {b : Blocks} {q : Request}

theorem Blocks.liftPossession_noArea (h : b.areas[q.field 28 1]? = none) :
    b.liftPossession q = b.answer q.cell .badParameter (.parameter 28) := by
  unfold Blocks.liftPossession
  dsimp only
  rw [h]

/-- R150, R151: an area of the image, by the state of its record and the reference. -/
theorem Blocks.liftPossession_eq {r : PossessionRec} (h : b.areas[q.field 28 1]? = some r) :
    b.liftPossession q =
      if r.state = .free then b.answer q.cell .notFound .none
      else if r.state = .barred then b.answer q.cell .barred .none
      else if r.reference = some (q.field 30 2) then b.lift (q.field 28 1) q.cell
      else b.storeArea (q.field 28 1) r.mismatched
        { cell := q.cell, outcome := .mismatch, detail := .count (r.attempts - 1) false } := by
  unfold Blocks.liftPossession
  dsimp only
  rw [h]
  dsimp only
  cases hs : r.state with
  | free => rfl
  | barred => rfl
  | granted =>
    have hmismatch : b.mismatch (q.field 28 1) q.cell r = b.storeArea (q.field 28 1) r.mismatched
        { cell := q.cell, outcome := .mismatch, detail := .count (r.attempts - 1) false } := by
      unfold Blocks.mismatch
      rw [hs]
      rfl
    rw [← hmismatch]
    rfl

end

/-- Settles O23: by the record's state and the reference; a mismatch as a record stored, a lift by its parts. -/
theorem possessionIsLifted : Obligations.PossessionIsLifted := by
  unfold Obligations.PossessionIsLifted
  intro q s n h hn
  have hsilent := State.Silent.of_serving h
  have hexec : exec .liftPossession s = .next (s.served (s.blocks.liftPossession q)) :=
    State.serving_next s .liftPossession Blocks.liftPossession q h
  refine ⟨fun hout => ?_, fun r hr => ?_⟩
  · rw [Blocks.liftPossession_noArea (hn ▸ List.getElem?_eq_none hout)] at hexec
    exact hsilent.answered h hexec
  rw [Blocks.liftPossession_eq (hn ▸ hr), ← hn] at hexec
  refine ⟨fun hst => ?_, fun hst => ?_, fun v hst href hv => ?_, fun hst href => ?_⟩
  · rw [if_pos hst] at hexec
    exact hsilent.answered h hexec
  · rw [if_neg (by rw [hst]; decide), if_pos hst] at hexec
    exact hsilent.answered h hexec
  all_goals rw [if_neg (by rw [hst]; decide), if_neg (by rw [hst]; decide)] at hexec
  · rw [if_neg href, show r.mismatched = v from hv.symm] at hexec
    rw [hexec]
    obtain ⟨_, _, hupd⟩ := s.blocks.updArea_frame n (fun _ => v)
    have hset := hsilent.updArea n (fun _ => v)
    have hwrites : (s.blocks.updArea n (fun _ => v)).writes = s.blocks.writes := by rw [hupd]
    have hclock : (s.blocks.updArea n (fun _ => v)).clock = s.blocks.clock := by rw [hupd]
    refine ⟨fun hroom => ⟨s.served_area hr v _, hset.queued_after (hwrites ▸ hroom) _ _⟩, fun hfull => ?_⟩
    obtain ⟨hanswered, hafter⟩ := hset.queued_fault h (hwrites ▸ hfull) (.possession n v.stored)
      (a := { cell := q.cell, outcome := .mismatch, detail := .count (r.attempts - 1) false }) rfl
    rw [hclock] at hafter
    exact ⟨hanswered, s.served_area hr v _, hafter⟩
  · rw [if_pos href] at hexec
    rw [hexec]
    refine ⟨fun a ha => ?_, s.served_lift_area hr q.cell, fun k => ?_⟩
    · have hcounted : s.blocks.countedSections n =
          a.sections.filter (fun k => (s.blocks.sectionEntry k).any (fun e => e.kind = .counted)) := by
        unfold Blocks.countedSections
        rw [ha]
        rfl
      rw [s.blocks.lift_eq]
      unfold Blocks.givenBack
      rw [hcounted]
      rfl
    · rw [(State.served_kept s _).occupancy, s.blocks.lift_eq, Blocks.storeArea_occupancy, Blocks.givenBack_occupancy]
      simp only [Blocks.mem_countedSections]

end Sys2Proof.Machine
end

section

namespace Sys2Proof.Machine

/-! PROOF. ARM and EXECUTE (R153 to R155). -/

/-! ### The operation and the target (R154) -/

theorem Blocks.targetExists_iff (b : Blocks) (e : Element) : b.targetExists e = true ↔
    e.number < b.count e.kind ∧ (e.kind = .line → b.lineEntry e.number ≠ none) := by
  unfold Blocks.targetExists
  simp only [Bool.and_eq_true, Bool.or_eq_true, decide_eq_true_eq, Option.isSome_iff_ne_none, ne_eq, imp_iff_not_or]

/-- R154: an operation, a kind of its targets and a number that names one. -/
theorem Blocks.qualifiedOperand_ok {b : Blocks} {q : Request} {op : Operation} {e : Element}
    (hop : Operation.ofCode (q.field 28 1) = some op) (hk : Kind.ofCode (q.field 29 1) = some e.kind)
    (hn : e.number = q.field 30 2) (ht : op.targetOk e.kind = true) (he : b.targetExists e = true) :
    b.qualifiedOperand q = .ok (op, e) := by
  have htarget : ({ kind := e.kind, number := q.field 30 2 } : Element) = e := by rw [← hn]
  unfold Blocks.qualifiedOperand
  rw [hop, hk]
  dsimp only
  rw [if_pos ht, htarget, if_pos he]

/-- R154: no operation, no kind of its targets, or a number that names none. -/
theorem Blocks.qualifiedOperand_bad {b : Blocks} {q : Request}
    (h : ∀ op k, Operation.ofCode (q.field 28 1) = some op → Kind.ofCode (q.field 29 1) = some k →
      op.targetOk k = true → b.targetExists { kind := k, number := q.field 30 2 } = false) :
    ∃ o, b.qualifiedOperand q = .error o := by
  unfold Blocks.qualifiedOperand
  split
  · exact ⟨_, rfl⟩
  rename_i op hop
  split
  · exact ⟨_, rfl⟩
  rename_i k hk
  split
  · rename_i ht
    rw [h op k hop hk ht]
    exact ⟨_, rfl⟩
  · exact ⟨_, rfl⟩

/-! ### ARM (R154) -/

theorem Blocks.arm_error {b : Blocks} {q : Request} {o : Nat} (h : b.qualifiedOperand q = .error o) :
    b.arm q = b.answer q.cell .badParameter (.parameter o) := by
  unfold Blocks.arm
  rw [h]

theorem Blocks.arm_ok {b : Blocks} {q : Request} {op : Operation} {e : Element} (h : b.qualifiedOperand q = .ok (op, e)) :
    b.arm q =
      if 4 ≤ b.arms.length then b.answer q.cell .armFull .none
      else if ∃ a ∈ b.arms, a.target = e then b.answer q.cell .duplicate .none
      else Blocks.answer { b with arms := b.arms ++ [{ operation := op, target := e, armTime := b.clock }] } q.cell
        .done .none := by
  have hany : b.arms.any (fun a => a.target == e) = true ↔ ∃ a ∈ b.arms, a.target = e := by simp
  unfold Blocks.arm
  rw [h]
  simp only [hany]

/-- Settles O24: the operand by its parameters, then the list, each answered in its event. -/
theorem armAppendsAnEntry : Obligations.ArmAppendsAnEntry := by
  unfold Obligations.ArmAppendsAnEntry
  intro q s h
  have hsilent := State.Silent.of_serving h
  have hexec : exec .arm s = .next (s.served (s.blocks.arm q)) := State.serving_next s .arm Blocks.arm q h
  refine ⟨fun hbad => ?_, fun op e hop hk hn ht hcount hline => ?_⟩
  · obtain ⟨o, ho⟩ := Blocks.qualifiedOperand_bad (b := s.blocks) (q := q) fun op k hop hk ht => by
      rw [Bool.eq_false_iff]
      intro htarget
      obtain ⟨hcount, hfitted⟩ := (s.blocks.targetExists_iff _).mp htarget
      rcases hbad op k hop hk ht with hout | ⟨hline, hnone⟩
      · exact absurd hcount (Nat.not_lt.mpr hout)
      · exact hfitted hline hnone
    rw [Blocks.arm_error ho] at hexec
    have hanswered := hsilent.answered h hexec
    rw [hexec] at hanswered ⊢
    exact ⟨⟨o, hanswered.1⟩, hanswered.2⟩
  rw [Blocks.arm_ok (Blocks.qualifiedOperand_ok hop hk hn ht ((s.blocks.targetExists_iff e).mpr ⟨hcount, hline⟩))]
    at hexec
  refine ⟨fun hfull => ?_, fun hroom hdup => ?_, fun hroom hnew => ?_⟩
  · rw [if_pos hfull] at hexec
    exact hsilent.answered h hexec
  · rw [if_neg (Nat.not_le.mpr hroom), if_pos hdup] at hexec
    exact hsilent.answered h hexec
  · rw [if_neg (Nat.not_le.mpr hroom), if_neg (by simpa using hnew)] at hexec
    exact (hsilent.setArms _).answered h hexec

/-! ### What the operations leave: the arm list (8.4) -/

/-- 8.4: what an operation does with its target. -/
def Operation.run : Operation → Blocks → Element → Nat → Blocks
  | .restoreSection => Blocks.restoreSection
  | .emergencyRelease => Blocks.executeEmergency
  | .removeStanding => Blocks.removeStanding
  | .forceLift => Blocks.forceLift
  | .tokenRestore => Blocks.tokenRestore
  | .receptionRelease => Blocks.receptionRelease

theorem exec_executeRow (op : Operation) (s : State) :
    exec (executeRow op) s = s.request (Request.executes op) (fun b q => b.execute q op.run) := by
  cases op <;> rfl

section

variable (b : Blocks)

theorem Blocks.queueRecord_arms (v : RecordValue) (r : Report) : (b.queueRecord v r).arms = b.arms := by
  obtain ⟨_, _, _, _, _, eq⟩ := b.queueRecord_frame v r
  rw [eq]

theorem Blocks.setOccupancy_arms (n : Nat) (o : Occupancy) (t : Clock) (c : Option Clock) :
    (b.setOccupancy n o t c).arms = b.arms := by
  obtain ⟨_, _, _, _, _, _, eq⟩ := b.setOccupancy_frame n o t c
  rw [eq]

theorem Blocks.restoreSection_arms (e : Element) (cell : Nat) : (b.restoreSection e cell).arms = b.arms := by
  have hrestored : ∀ (ownerOk : Bool) d u, (if !ownerOk then b.answer cell .conflict d
      else if !b.unitTrusted u then b.precondition cell .unitNotActive
      else (b.setOccupancy e.number .restoring b.clock none).answer cell .done .none).arms = b.arms := by
    intro ownerOk d u
    split
    · rfl
    split
    · rfl
    · exact b.setOccupancy_arms e.number .restoring b.clock none
  unfold Blocks.restoreSection
  split
  · split
    · rfl
    split
    · rfl
    · exact hrestored _ _ _
  · rfl

theorem Blocks.startEmergency_arms (slot : Nat) (e : RouteEntry) (r : RouteRec) :
    (b.startEmergency slot e r).arms = b.arms := by
  rw [Blocks.startEmergency_eq rfl]
  split
  · exact ((((Blocks.Follows.refl false b).commandSignal slot e.entry .stop).updRoute slot _).answerOpt _ _ _).arms
  · exact (((Blocks.Follows.refl false b).updRoute slot _).answerOpt _ _ _).arms

theorem Blocks.emergencyRelease_arms (route cell : Nat) : (b.emergencyRelease route cell).arms = b.arms := by
  unfold Blocks.emergencyRelease
  split
  · rfl
  · split
    · exact b.startEmergency_arms _ _ _
    · exact b.startEmergency_arms _ _ _
    · exact b.startEmergency_arms _ _ _
    · exact b.startEmergency_arms _ _ _
    · split <;> rfl
    · rfl

theorem Blocks.removeStanding_arms (e : Element) (cell : Nat) : (b.removeStanding e cell).arms = b.arms := by
  unfold Blocks.removeStanding
  split
  · obtain ⟨_, _, _, _, _, _, _, eq⟩ := b.setStanding_frame e false
    rw [Blocks.queueRecord_arms, eq]
  · rfl

theorem Blocks.lift_arms (area cell : Nat) : (b.lift area cell).arms = b.arms := by
  obtain ⟨_, _, harea⟩ := (b.givenBack area).updArea_frame area (fun _ => PossessionRec.free)
  have hlost : (b.givenBack area).arms = (b.release (.area area) (b.possessionHolds area)).arms :=
    foldl_same Blocks.arms _ (fun c n => by
      obtain ⟨_, _, eq⟩ := c.loseSection_frame n b.clock
      rw [eq]) _ _
  rw [b.lift_eq]
  unfold Blocks.storeArea
  rw [Blocks.queueRecord_arms, harea]
  exact hlost.trans ((Blocks.Follows.refl false b).release _ _).arms

theorem Blocks.forceLift_arms (e : Element) (cell : Nat) : (b.forceLift e cell).arms = b.arms := by
  unfold Blocks.forceLift
  split
  · rfl
  split
  · rfl
  · exact b.lift_arms e.number cell

theorem Blocks.setToken_arms (n : Nat) (t : Token) (r : Report) : (b.setToken n t r).arms = b.arms := by
  obtain ⟨_, _, eq⟩ := b.updLine_frame n (fun l => { l with token := some t })
  unfold Blocks.setToken
  rw [Blocks.queueRecord_arms, eq]

theorem Blocks.tokenRestore_arms (e : Element) (cell : Nat) : (b.tokenRestore e cell).arms = b.arms := by
  unfold Blocks.tokenRestore
  split
  · split
    · rfl
    split
    · rfl
    split
    · rfl
    split
    · rfl
    · rw [show ∀ c : Blocks, c.noticeTokenHeld.arms = c.arms from fun _ => rfl, Blocks.endAlarm_arms,
        Blocks.setToken_arms]
  · rfl

theorem Blocks.receptionRelease_arms (e : Element) (cell : Nat) : (b.receptionRelease e cell).arms = b.arms := by
  unfold Blocks.receptionRelease
  split
  · split
    · rfl
    split
    · rfl
    split
    · rfl
    · exact (((Blocks.Follows.refl false b).releaseReception e.number).answer _ _ _).arms
  · rfl

end

/-- 8.4: no operation changes the arm list. -/
theorem Operation.run_arms (op : Operation) (b : Blocks) (e : Element) (cell : Nat) : (op.run b e cell).arms = b.arms := by
  cases op with
  | restoreSection => exact b.restoreSection_arms e cell
  | emergencyRelease => exact b.emergencyRelease_arms e.number cell
  | removeStanding => exact b.removeStanding_arms e cell
  | forceLift => exact b.forceLift_arms e cell
  | tokenRestore => exact b.tokenRestore_arms e cell
  | receptionRelease => exact b.receptionRelease_arms e cell

/-! ### EXECUTE (R155) -/

/-- R155: an EXECUTE served by the row of its operation, or by any row where its code is no operation. -/
theorem State.execute_next {s : State} {q : Request} (op : Operation) (h : s.serving .execute q)
    (hop : Operation.ofCode (q.field 28 1) = some op ∨ Operation.ofCode (q.field 28 1) = none) :
    exec (executeRow op) s = .next (s.served (s.blocks.execute q op.run)) := by
  obtain ⟨hawake, hq, hkind, -⟩ := h
  have hmine : Request.executes op q = true := by
    simpa [Request.executes, hkind] using hop
  rw [exec_executeRow]
  exact State.request_next s _ _ q hawake hq hmine

section

variable {b : Blocks} {q : Request} {op : Operation} {e : Element} (f : Blocks → Element → Nat → Blocks)

theorem Blocks.execute_error {o : Nat} (h : b.qualifiedOperand q = .error o) :
    b.execute q f = b.answer q.cell .badParameter (.parameter o) := by
  unfold Blocks.execute
  rw [h]

theorem Blocks.execute_notArmed (h : b.qualifiedOperand q = .ok (op, e)) (ha : b.armed op e = none) :
    b.execute q f = b.answer q.cell .notArmed .none := by
  unfold Blocks.armed at ha
  unfold Blocks.execute
  rw [h]
  dsimp only
  rw [ha]

theorem Blocks.execute_early {a : ArmRec} (h : b.qualifiedOperand q = .ok (op, e)) (ha : b.armed op e = some a)
    (hearly : Clock.age b.clock a.armTime < 3000) :
    b.execute q f = (b.disarm a).answer q.cell .tooEarly .none := by
  unfold Blocks.armed at ha
  unfold Blocks.execute
  rw [h]
  dsimp only
  rw [ha]
  exact if_pos hearly

end

theorem Blocks.qualifiedOperand_noOperation {b : Blocks} {q : Request}
    (h : Operation.ofCode (q.field 28 1) = none) : b.qualifiedOperand q = .error 28 := by
  unfold Blocks.qualifiedOperand
  rw [h]

theorem Blocks.armed_none {b : Blocks} {op : Operation} {e : Element}
    (h : ∀ a ∈ b.arms, ¬ (a.operation = op ∧ a.target = e)) : b.armed op e = none := by
  unfold Blocks.armed
  rw [List.find?_eq_none]
  simpa using h

/-- Settles O25: the operand, the arm entry and its age; an operation taken up leaves the list without the entry. -/
theorem executeMatchesAnArmedEntry : Obligations.ExecuteMatchesAnArmedEntry := by
  unfold Obligations.ExecuteMatchesAnArmedEntry
  intro op q s h
  have hsilent := State.Silent.of_serving h
  refine ⟨fun hnone => ?_, fun hop => ⟨fun o ho => ?_, fun e he => ⟨fun hall => ?_, fun a ha => ⟨fun hearly => ?_,
    fun hage hlate => ?_⟩⟩⟩⟩
  · have hexec := State.execute_next op h (.inr hnone)
    rw [Blocks.execute_error _ (Blocks.qualifiedOperand_noOperation hnone)] at hexec
    exact hsilent.answered h hexec
  · have hexec := State.execute_next op h (.inl hop)
    rw [Blocks.execute_error _ ho] at hexec
    exact hsilent.answered h hexec
  · have hexec := State.execute_next op h (.inl hop)
    rw [Blocks.execute_notArmed _ he (Blocks.armed_none hall)] at hexec
    exact hsilent.answered h hexec
  · have hexec := State.execute_next op h (.inl hop)
    rw [Blocks.execute_early _ he ha hearly] at hexec
    exact (hsilent.disarm a).answered h hexec
  · rw [exec_executeRow, State.executing_next ⟨h, he, ha, hage, hlate⟩ op.run]
    exact (State.served_kept s _).arms.trans (op.run_arms _ e q.cell)

end Sys2Proof.Machine
end

section

namespace Sys2Proof.Machine

/-! PROOF. REMOVE STANDING and FORCE LIFT (R157). -/

/-- R157: REMOVE STANDING by the mark. -/
theorem Blocks.removeStanding_eq (b : Blocks) (e : Element) (cell : Nat) : b.removeStanding e cell =
    if b.standingOf e then (b.setStanding e false).queueRecord (.standing e false) (doneAfterWrite cell)
    else b.answer cell .notFound .none := rfl

/-- R157: FORCE LIFT by the state of the record, without a look at the reference. -/
theorem Blocks.forceLift_eq {b : Blocks} {e : Element} {r : PossessionRec} (cell : Nat)
    (h : b.areas[e.number]? = some r) : b.forceLift e cell =
      if r.state = .free then b.answer cell .notFound .none else b.lift e.number cell := by
  unfold Blocks.forceLift
  rw [h]

/-- Settles O28: both operations run on the arm list without their entry. -/
theorem marksAndPossessionsAreForced : Obligations.MarksAndPossessionsAreForced := by
  unfold Obligations.MarksAndPossessionsAreForced
  intro q s e a
  refine ⟨fun h => ?_, fun r h hr => ?_⟩
  · have hsilent := (State.Silent.of_serving h.1).disarm a
    have hexec : exec .removeStanding s = .next (s.served ((s.blocks.disarm a).removeStanding e q.cell)) :=
      State.executing_next h Blocks.removeStanding
    rw [Blocks.removeStanding_eq, show (s.blocks.disarm a).standingOf e = s.blocks.standingOf e from rfl] at hexec
    refine ⟨fun hno => ?_, fun hyes hroom => ?_⟩
    · rw [if_neg (by rw [hno]; decide)] at hexec
      exact hsilent.answered h.1 hexec
    · rw [if_pos hyes] at hexec
      rw [hexec]
      obtain ⟨hwrites, -, -⟩ := (s.blocks.disarm a).setStanding_rest e false
      have hrec : (s.blocks.disarm a).recorded e := Blocks.recorded_of_standingOf hyes
      exact ⟨s.served_standingOf hrec false _ _, (hsilent.setStanding e false).queued_after (hwrites ▸ hroom) _ _⟩
  · have hsilent := (State.Silent.of_serving h.1).disarm a
    have hexec : exec .forceLift s = .next (s.served ((s.blocks.disarm a).forceLift e q.cell)) :=
      State.executing_next h Blocks.forceLift
    rw [Blocks.forceLift_eq (b := s.blocks.disarm a) q.cell hr] at hexec
    refine ⟨fun hst => ?_, fun hst => ?_⟩
    · rw [if_pos hst] at hexec
      exact hsilent.answered h.1 hexec
    · rw [if_neg hst] at hexec
      rw [hexec]
      exact ⟨rfl, s.served_lift_area (x := s.blocks.disarm a) hr q.cell⟩

end Sys2Proof.Machine
end

section

namespace Sys2Proof.Machine

/-! PROOF. A raise and an end on the alarm list (R161 to R166). -/

/-! ### The entry about a condition -/

section

variable {k : AlarmKind} {e : Element} {xs before after : List AlarmRec} {a : AlarmRec}

theorem AlarmRec.about_eq_false (a : AlarmRec) (k : AlarmKind) (e : Element) :
    a.about k e = false ↔ ¬ (a.kind = k ∧ a.element = e) := by
  rw [← a.about_iff k e, Bool.not_eq_true]

theorem find?_about_none (h : ∀ x ∈ xs, x.about k e = false) : xs.find? (·.about k e) = none :=
  List.find?_eq_none.mpr fun x hx => by simp [h x hx]

theorem find?_about_some (ha : a.about k e = true) (h : ∀ x ∈ before, x.about k e = false) :
    (before ++ a :: after).find? (·.about k e) = some a :=
  List.find?_eq_some_iff_append.mpr ⟨ha, before, after, rfl, fun x hx => by simp [h x hx]⟩

theorem filter_about_others (h : ∀ x ∈ xs, x.about k e = false) : xs.filter (fun x => !x.about k e) = xs :=
  List.filter_eq_self.mpr fun x hx => by simp [h x hx]

theorem filter_about (ha : a.about k e = true) (hb : ∀ x ∈ before, x.about k e = false)
    (hc : ∀ x ∈ after, x.about k e = false) :
    (before ++ a :: after).filter (fun x => !x.about k e) = before ++ after := by
  rw [List.filter_append, List.filter_cons_of_neg (by simp [ha]), filter_about_others hb, filter_about_others hc]

theorem map_about_others (f : AlarmRec → AlarmRec) (h : ∀ x ∈ xs, x.about k e = false) :
    xs.map (fun x => if x.about k e then f x else x) = xs :=
  (List.map_congr_left fun x hx => if_neg (by simp [h x hx])).trans (List.map_id xs)

theorem map_about (f : AlarmRec → AlarmRec) (ha : a.about k e = true) (hb : ∀ x ∈ before, x.about k e = false)
    (hc : ∀ x ∈ after, x.about k e = false) :
    (before ++ a :: after).map (fun x => if x.about k e then f x else x) = before ++ f a :: after := by
  rw [List.map_append, List.map_cons, if_pos ha, map_about_others f hb, map_about_others f hc]

end

/-! ### A raise (R163, R164, R166) -/

/-- R163, R166: the state an entry takes at its raise: a condition stands, an event is over at once. -/
def AlarmKind.raisedState (k : AlarmKind) : AlarmState := if k.event then .lapsed else .standing

/-- R163: the entry a raise makes, before it has its number. -/
def AlarmKind.entry (k : AlarmKind) (e : Element) (t : Clock) : AlarmRec :=
  { seq := 0, kind := k, element := e, state := k.raisedState, raisedAt := t, changedAt := t, repeats := 0 }

/-- R163: a LAPSED entry raised again, before it has its new number. -/
def AlarmRec.recurred (a : AlarmRec) (k : AlarmKind) (t : Clock) : AlarmRec :=
  { a with state := k.raisedState, repeats := min 255 (a.repeats + 1), changedAt := t }

section

variable {b : Blocks} {k : AlarmKind} {e : Element} {t : Clock} {a : AlarmRec}

theorem Blocks.appendAlarm_eq (b : Blocks) (xs : List AlarmRec) (a : AlarmRec) : b.appendAlarm xs a =
    { b with alarms := xs ++ [{ a with seq := b.alarmCounter }]
             alarmCounter := (b.appendAlarm xs a).alarmCounter } := rfl

/-- A raise that finds no entry, in a list with room. -/
theorem Blocks.enterRaise_room (h : b.alarms.find? (·.about k e) = none) (hl : b.alarms.length < 64) :
    b.enterRaise k e t = b.appendAlarm b.alarms (k.entry e t) := by
  unfold Blocks.enterRaise
  rw [h]
  exact if_pos hl

/-- A raise that finds no entry, in a full list. -/
theorem Blocks.enterRaise_full (h : b.alarms.find? (·.about k e) = none) (hl : 64 ≤ b.alarms.length) :
    b.enterRaise k e t = (withoutOldestLapsed b.alarms).elim { b with overflow := true }
      (fun xs => b.appendAlarm xs (k.entry e t)) := by
  unfold Blocks.enterRaise
  rw [h]
  dsimp only
  rw [if_neg (Nat.not_lt.mpr hl)]
  cases withoutOldestLapsed b.alarms <;> rfl

/-- A raise that finds its entry. -/
theorem Blocks.enterRaise_found (h : b.alarms.find? (·.about k e) = some a) :
    b.enterRaise k e t = if a.state = .lapsed then
      b.appendAlarm (b.alarms.filter (fun x => !x.about k e)) (a.recurred k t) else b := by
  unfold Blocks.enterRaise
  rw [h]
  rfl

/-! ### An end (R165) -/

theorem Blocks.enterEnd_absent (h : b.alarms.find? (·.about k e) = none) : b.enterEnd k e t = b := by
  unfold Blocks.enterEnd
  rw [h]

theorem Blocks.enterEnd_standing (h : b.alarms.find? (·.about k e) = some a) (ha : a.state = .standing) :
    b.enterEnd k e t = { b with alarms := b.alarms.map (fun x =>
      if x.about k e then { x with state := .lapsed, changedAt := t } else x) } := by
  unfold Blocks.enterEnd
  rw [h]
  dsimp only
  rw [ha]

theorem Blocks.enterEnd_accepted (h : b.alarms.find? (·.about k e) = some a) (ha : a.state = .accepted) :
    b.enterEnd k e t = { b with alarms := b.alarms.filter (fun x => !x.about k e) } := by
  unfold Blocks.enterEnd
  rw [h]
  dsimp only
  rw [ha]

theorem Blocks.enterEnd_lapsed (h : b.alarms.find? (·.about k e) = some a) (ha : a.state = .lapsed) :
    b.enterEnd k e t = b := by
  unfold Blocks.enterEnd
  rw [h]
  dsimp only
  rw [ha]

end

/-! ### The statement -/

/-- R166: the event kinds. -/
theorem AlarmKind.event_iff (k : AlarmKind) : k.event = true ↔
    k ∈ [.signalPassedAtStop, .unexpectedOccupation, .borderProtocolError, .handoverUnconfirmed, .storeFault] := by
  cases k <;> decide

/-- Settles O39: a raise and an end by the entry they find, and a raise that finds none by the room in the list. -/
theorem alarmsAreRaisedAndEnded : Obligations.AlarmsAreRaisedAndEnded := by
  unfold Obligations.AlarmsAreRaisedAndEnded
  refine ⟨AlarmKind.event_iff, ?_⟩
  rintro b k e t d rfl
  refine ⟨fun hall => ?_, fun a before after hlist hk he hothers => ?_⟩
  · have hnone : b.alarms.find? (·.about k e) = none :=
      find?_about_none fun x hx => (x.about_eq_false k e).mpr (hall x hx)
    refine ⟨Blocks.enterEnd_absent hnone, ?_⟩
    rintro a rfl
    refine ⟨fun hroom => ?_, fun hfull => ⟨fun before x after hlist hx hbefore => ?_, fun hlapsed => ?_⟩⟩
    · rw [Blocks.enterRaise_room hnone hroom]
      exact ⟨b.appendAlarm_eq _ _, b.appendAlarm_advances _ hroom⟩
    · have hout : withoutOldestLapsed b.alarms = some (before ++ after) := by
        rw [hlist]
        exact withoutOldestLapsed_some hx hbefore
      rw [Blocks.enterRaise_full hnone hfull, hout]
      refine ⟨b.appendAlarm_eq _ _, fun hlen => b.appendAlarm_advances _ ?_⟩
      obtain ⟨-, hshorter⟩ := withoutOldestLapsed_sublist hout
      omega
    · rw [Blocks.enterRaise_full hnone hfull, withoutOldestLapsed_none hlapsed]
      rfl
  · have habout : a.about k e = true := (a.about_iff k e).mpr ⟨hk, he⟩
    have hbefore : ∀ x ∈ before, x.about k e = false := fun x hx =>
      (x.about_eq_false k e).mpr (hothers x (List.mem_append_left _ hx))
    have hafter : ∀ x ∈ after, x.about k e = false := fun x hx =>
      (x.about_eq_false k e).mpr (hothers x (List.mem_append_right _ hx))
    have hfound : b.alarms.find? (·.about k e) = some a := by
      rw [hlist]
      exact find?_about_some habout hbefore
    have hrest : b.alarms.filter (fun x => !x.about k e) = before ++ after := by
      rw [hlist]
      exact filter_about habout hbefore hafter
    refine ⟨fun hst => ?_, fun hst => ?_, ?_⟩
    · rw [Blocks.enterRaise_found hfound, if_neg hst]
    · rw [Blocks.enterRaise_found hfound, if_pos hst, hrest]
      refine ⟨b.appendAlarm_eq _ _, fun hlen => b.appendAlarm_advances _ ?_⟩
      rw [hlist] at hlen
      simp only [List.length_append, List.length_cons] at hlen ⊢
      omega
    · cases hst : a.state with
      | standing =>
        rw [Blocks.enterEnd_standing hfound hst, hlist,
          map_about (fun x => { x with state := .lapsed, changedAt := t }) habout hbefore hafter]
      | accepted => rw [Blocks.enterEnd_accepted hfound hst, hrest]
      | lapsed => exact Blocks.enterEnd_lapsed hfound hst

end Sys2Proof.Machine
end

section

namespace Sys2Proof.Machine

/-! PROOF. ACKNOWLEDGE ALARM (R167). -/

section

variable {b : Blocks} {q : Request}

theorem Blocks.acknowledgeAlarm_zero (h : q.field 28 4 = 0) :
    b.acknowledgeAlarm q = { b with overflow := false }.answer q.cell .done .none := if_pos h

theorem Blocks.acknowledgeAlarm_unknown (h : q.field 28 4 ≠ 0)
    (hnone : b.alarms.find? (fun x => x.seq == q.field 28 4) = none) :
    b.acknowledgeAlarm q = b.answer q.cell .notFound .none := by
  unfold Blocks.acknowledgeAlarm
  dsimp only
  rw [if_neg h, hnone]

theorem Blocks.acknowledgeAlarm_found {a : AlarmRec} (h : q.field 28 4 ≠ 0)
    (hsome : b.alarms.find? (fun x => x.seq == q.field 28 4) = some a) :
    b.acknowledgeAlarm q = (b.acceptAlarm a (q.field 28 4)).answer q.cell .done (.priorState a.state) := by
  unfold Blocks.acknowledgeAlarm
  dsimp only
  rw [if_neg h, hsome]

end

/-- An acknowledgement that changes the alarm list and its overflow mark alone is answered in its event. -/
theorem State.serves_acknowledge {s : State} {q : Request} {o : CellOutcome} {d : Detail} {as : List AlarmRec}
    {m : Bool} (h : s.serving .acknowledgeAlarm q)
    (hx : s.blocks.acknowledgeAlarm q = ({ s.blocks with alarms := as, overflow := m } : Blocks).answer q.cell o d) :
    s.serves .acknowledgeAlarm q { s.blocks with alarms := as, overflow := m } o d := by
  have hexec : exec .acknowledgeAlarm s = .next (s.served (s.blocks.acknowledgeAlarm q)) :=
    State.serving_next s .acknowledgeAlarm Blocks.acknowledgeAlarm q h
  rw [hx] at hexec
  have hsilent := State.Silent.of_serving h
  exact State.serves_over h hexec hsilent.index hsilent.answers hsilent.alarms

/-- Settles O38: sequence 0, a number that no entry has, and an entry by its state. -/
theorem acknowledgeAlarmByState : Obligations.AcknowledgeAlarmByState := by
  unfold Obligations.AcknowledgeAlarmByState
  rintro q s n h rfl
  refine ⟨fun hzero => ?_, fun hn hunknown => ?_, fun a hn hsome => ?_⟩
  · exact State.serves_acknowledge h (Blocks.acknowledgeAlarm_zero hzero)
  · have hnone : s.blocks.alarms.find? (fun x => x.seq == q.field 28 4) = none :=
      List.find?_eq_none.mpr fun x hx => by simpa using hunknown x hx
    exact State.serves_acknowledge h (Blocks.acknowledgeAlarm_unknown hn hnone)
  · refine State.serves_acknowledge h ((Blocks.acknowledgeAlarm_found hn hsome).trans ?_)
    unfold Blocks.acceptAlarm
    cases a.state <;> rfl

end Sys2Proof.Machine
end

section

namespace Sys2Proof.Machine

/-! PROOF. HALTED lasts until a hard restart, and so does being held in reset (R172, R182, R184). -/

/-! ### What goes on in HALTED: the buses and the end of a record write (R122, R184) -/

theorem Blocks.telegramEnd_mode {b d : Blocks} {x : Bus} (h : b.telegramEnd x = some d) : d.mode = b.mode := by
  unfold Blocks.telegramEnd at h
  split at h
  · cases h
  · split at h
    · cases h
    · cases h
      exact b.setBus_mode x _

/-- R122: a reply is discarded unchecked. -/
theorem Blocks.replyComplete_halted {b d : Blocks} {x : Bus} {chars : List LineChar} (hm : b.mode = .halted)
    (h : b.replyComplete x chars = some d) : d.mode = .halted := by
  unfold Blocks.replyComplete at h
  split at h
  · cases h
  split at h
  · split at h
    · cases h
    split at h
    · cases h
    · split at h
      · cases h
        exact (b.setBus_mode x _).trans hm
      · cases h
  · cases h

/-- R122: a timeout counts no miss. -/
theorem Blocks.replyTimeout_halted {b d : Blocks} {x : Bus} (hm : b.mode = .halted)
    (h : b.replyTimeout x = some d) : d.mode = .halted := by
  unfold Blocks.replyTimeout at h
  split at h
  · cases h
  split at h
  · cases h
  split at h
  · cases h
    exact (b.setBus_mode x _).trans hm
  · cases h

/-- R184: the end of a record write is reported to no one. -/
theorem Blocks.recordWriteEnd_halted {b d : Blocks} {ok : Bool} (hm : b.mode = .halted)
    (h : b.recordWriteEnd ok = some d) : d.mode = .halted := by
  unfold Blocks.recordWriteEnd at h
  split at h
  · rw [if_pos hm] at h
    cases h
    exact hm
  · cases h

theorem State.finish_halted (s : State) (p : Port) {b : Blocks} (hm : b.mode = .halted) :
    (s.finish p b).blocks.mode = .halted := by
  rcases s.finish_mode p b with h | h
  · exact h.trans hm
  · exact h

/-- An event of a bus whose change stays in HALTED ends there. -/
theorem State.busEvent_halted {s t : State} {x : Bus} {f : Blocks → Option Blocks}
    (hf : ∀ d, f s.blocks = some d → d.mode = .halted) (hm : s.blocks.mode = .halted)
    (h : s.busEvent x f = .next t) : t.blocks.mode = .halted := by
  unfold State.busEvent at h
  split at h
  · cases h; exact hm
  split at h
  · cases h; exact hm
  · rename_i d hd
    cases h
    rw [if_pos (hf d hd)]
    exact s.finish_halted _ ((d.startPoll_mode x).trans (hf d hd))

theorem State.storeEvent_halted {s t : State} {f : Blocks → Option Blocks}
    (hf : ∀ d, f s.blocks = some d → d.mode = .halted) (hm : s.blocks.mode = .halted)
    (h : s.storeEvent f = .next t) : t.blocks.mode = .halted := by
  unfold State.storeEvent at h
  split at h
  · cases h; exact hm
  split at h
  · cases h; exact hm
  · rename_i d hd
    cases h
    rw [if_pos (hf d hd)]
    exact s.finish_halted _ (hf d hd)

/-- R184: a row that acts on a block leaves HALTED as it is. -/
theorem exec_blockRow_halted {c : Instr} {s t : State} (hc : blockRow c = true) (hm : s.blocks.mode = .halted)
    (h : exec c s = .next t) : t.blocks.mode = .halted := by
  have hasleep : s.asleep = true := by simp [State.asleep, hm]
  rcases exec_asleep c s hasleep hc with e | ⟨x, rfl⟩ | ⟨x, chars, rfl⟩ | ⟨x, rfl⟩ | ⟨ok, rfl⟩
  · rw [e] at h
    cases h
    exact hm
  · change execCommandTelegramEnd x s = _ at h
    exact State.busEvent_halted (fun d hd => (Blocks.telegramEnd_mode hd).trans hm) hm h
  · change execReplyComplete x chars s = _ at h
    exact State.busEvent_halted (fun d hd => Blocks.replyComplete_halted hm hd) hm h
  · change execReplyTimeout x s = _ at h
    exact State.busEvent_halted (fun d hd => Blocks.replyTimeout_halted hm hd) hm h
  · change execRecordWriteEnd ok s = _ at h
    exact State.storeEvent_halted (fun d hd => Blocks.recordWriteEnd_halted hm hd) hm h

/-! ### The host's rows, the pins and the resets -/

/-- R182: a reset that is taken leaves the mode. -/
theorem State.hold_mode (s : State) : s.hold.blocks.mode = s.blocks.mode := by
  obtain ⟨_, _, e⟩ := s.blocks.cutOff_frame
  have h : s.hold.blocks = _ := e
  rw [h]

/-- Asleep, none of the rows beside those of the blocks leaves HALTED or a reset that is held, but for the hard restart
(R182, R184; log entry 12). -/
theorem exec_hostRow_asleep {c : Instr} {s t : State} (hrow : blockRow c = false) (hc : c ≠ .hardRestart)
    (hs : s.asleep = true) (h : exec c s = .next t) :
    (s.blocks.mode = .halted → t.blocks.mode = .halted) ∧ (s.held = true → t.held = true) := by
  cases c with
  | hardRestart => exact absurd rfl hc
  | post v =>
    by_cases hm : s.blocks.mode = .halted
    · cases (show exec (.post v) s = .next s from if_pos hm).symm.trans h
      exact ⟨id, id⟩
    · exact post_rule (P := fun t => _ ∧ (_ → t.held = true)) h hm ⟨fun e => absurd e hm, id⟩
        ⟨fun e => absurd e hm, id⟩
  | noticeRead => cases h; exact ⟨id, id⟩
  | noticeMaskWrite v => cases h; exact ⟨id, id⟩
  | restart =>
    cases (show exec .restart s = .next s from if_pos hs).symm.trans h
    exact ⟨id, id⟩
  | clearStray => cases h; exact ⟨id, id⟩
  | registerWriteNoEffect r v => cases h; exact ⟨id, id⟩
  | hostMemoryAccess x =>
    change execHostMemoryAccess x s = _ at h
    unfold execHostMemoryAccess at h
    split at h
    · cases h
    · cases x <;> cases h <;> exact ⟨id, id⟩
  | keyLevelChange l =>
    change execKeyLevelChange l s = _ at h
    unfold execKeyLevelChange at h
    split at h <;> cases h <;> exact ⟨id, id⟩
  | takeCell =>
    cases (show exec .takeCell s = .next s from if_pos (.inl hs)).symm.trans h
    exact ⟨id, id⟩
  | resetAsserted =>
    cases hheld : s.held with
    | true =>
      cases (exec_resetAsserted_held hheld).symm.trans h
      exact ⟨id, fun _ => hheld⟩
    | false =>
      cases (exec_resetAsserted hheld).symm.trans h
      exact ⟨fun e => s.hold_mode.trans e, fun _ => rfl⟩
  | _ => exact Bool.noConfusion (show true = false from hrow)

/-- R172: SAFE is low in HALTED. -/
theorem State.safe_of_halted {s : State} (h : s.blocks.mode = .halted) : s.safe = false := by
  unfold State.safe
  rw [h]
  exact Bool.and_false _

/-- Settles O7: a row of a block by what goes on in HALTED, and by nothing going on while held; the others by case. -/
theorem haltedAndHeldUntilAHardRestart : Obligations.HaltedAndHeldUntilAHardRestart := by
  unfold Obligations.HaltedAndHeldUntilAHardRestart
  intro c s t hc h
  constructor
  · intro hm
    have hasleep : s.asleep = true := by simp [State.asleep, hm]
    have hmode : t.blocks.mode = .halted := by
      cases hrow : blockRow c with
      | true => exact exec_blockRow_halted hrow hm h
      | false => exact (exec_hostRow_asleep hrow hc hasleep h).1 hm
    exact ⟨hmode, State.safe_of_halted hmode⟩
  · intro hheld
    have hasleep : s.asleep = true := by simp [State.asleep, hheld]
    cases hrow : blockRow c with
    | true =>
      cases (exec_held c s hheld hrow).symm.trans h
      exact ⟨hheld, State.safe_of_held hheld, fun _ => rfl⟩
    | false =>
      have ht := (exec_hostRow_asleep hrow hc hasleep h).2 hheld
      exact ⟨ht, State.safe_of_held ht, nofun⟩

end Sys2Proof.Machine
end

section

namespace Sys2Proof.Machine

/-! PROOF. The registers, POST, and the values after a power-on restart (R172, R182, R186, R190, R191, R197). -/

/-- Settles O8: the machine after a power-on hard restart, field by field. -/
theorem resetValues : Obligations.ResetValues := by
  unfold Obligations.ResetValues
  decide

/-- Settles O11: each row's next state is its equation in the model. -/
theorem registersActAlone : Obligations.RegistersActAlone := by
  unfold Obligations.RegistersActAlone
  intro s
  refine ⟨⟨rfl, ?_⟩, fun v => rfl, rfl, fun r v _ => rfl, fun l => ?_⟩
  · show (0 &&& s.port.mask != 0) = false
    simp
  · show execKeyLevelChange l s = _
    unfold execKeyLevelChange
    split <;> rfl

/-! ### POST (R186, R197) -/

/-- R186: offered cells that differ join the list in turn, but for those announced already. -/
theorem foldl_offerCell {run : List Nat} (hrun : run.Nodup) : ∀ intake : List Nat,
    run.foldl offerCell intake = intake ++ run.filter (fun c => !intake.contains c) := by
  induction run with
  | nil => simp
  | cons c run ih =>
    intro intake
    obtain ⟨hc, hrun⟩ := List.nodup_cons.mp hrun
    rw [List.foldl_cons, ih hrun]
    unfold offerCell
    by_cases hin : intake.contains c = true
    · rw [if_pos hin, List.filter_cons_of_neg (by rw [hin]; nofun)]
    · have hfilter : run.filter (fun d => !(intake ++ [c]).contains d) = run.filter (fun d => !intake.contains d) :=
        List.filter_congr fun d hd => by
          have hne : d ≠ c := fun e => hc (e ▸ hd)
          simp [hne]
      rw [if_neg hin, hfilter, List.filter_cons_of_pos (by simpa using hin), List.append_assoc]
      rfl

/-- R186: a run of at most 32 cells names none twice. -/
theorem nodup_runCells (first : Nat) {count : Nat} (h : count ≤ 32) : (runCells first count).Nodup := by
  refine List.nodup_range.map_on ?_
  intro i hi j hj e
  rw [List.mem_range] at hi hj
  omega

/-- R197: an event that enters HALTED empties the intake list, and a request handed on is not served; any other leaves
both. -/
theorem State.finish_intake (s : State) (p : Port) (b : Blocks) :
    ((s.finish p b).blocks.mode = .halted ∧ s.blocks.mode ≠ .halted →
        (s.finish p b).port.intake = [] ∧ (s.finish p b).port.handed = none) ∧
      (¬ ((s.finish p b).blocks.mode = .halted ∧ s.blocks.mode ≠ .halted) →
        (s.finish p b).port.intake = p.intake ∧ (s.finish p b).port.handed = p.handed) := by
  obtain ⟨m, f, n, hanswers, -⟩ := Port.writeAnswers_frame b.clock b.work.answers p
  unfold State.finish
  dsimp only
  generalize (b.closeChecks _).enterAlarms = c
  obtain ⟨-, hintake, -, hhanded, -⟩ :=
    Port.closeEvent_frame (Port.writeAnswers b.clock p b.work.answers).1 s.port s.blocks c
  unfold Port.halt
  constructor
  · intro h
    rw [if_pos h]
    exact ⟨rfl, rfl⟩
  · intro h
    rw [if_neg h, hintake, hhanded, hanswers]
    exact ⟨rfl, rfl⟩

/-- R186: the end of an event that records a stray and does nothing else. -/
theorem State.finish_stray {s : State} (hset : s.settled = true) (x : StrayCause) (c : Nat) :
    let t := s.finish (s.port.setStray x c) s.blocks
    t.port.strayMark = true ∧ t.port.stray = some { cause := x, cell := c } ∧ t.port.notice.getLsbD 5 = true ∧
      t.port.intake = s.port.intake ∧ t.blocks = { s.blocks with freeIndex := s.blocks.freeIndex + 1 } ∧
      ∀ a, Exchange.mirrorRange a = false → t.port.byteAt a = s.port.byteAt a := by
  have hwork : s.blocks.work = Work.empty := eq_of_beq hset
  have hanswers : s.blocks.work.answers = [] := congrArg Work.answers hwork
  have hblocks : (s.finish (s.port.setStray x c) s.blocks).blocks =
      { s.blocks with freeIndex := s.blocks.freeIndex + 1 } := by
    rw [State.finish_blocks s _ _ hanswers (congrArg Work.alarms hwork) (congrArg Work.halt hwork), ← hwork]
  obtain ⟨-, -, hmark, hstray, hmem, -⟩ := s.finish_port (s.port.setStray x c) s.blocks
  obtain ⟨k, hnotice⟩ := s.finish_notice (s.port.setStray x c) s.blocks
  rw [hanswers] at hmem hnotice
  have hmode : (s.finish (s.port.setStray x c) s.blocks).blocks.mode = s.blocks.mode := by rw [hblocks]
  refine ⟨hmark, hstray, ?_, ?_, hblocks, fun a ha => ?_⟩
  · rw [hnotice]
    show (s.port.notice ||| Notice.stray ||| k).getLsbD 5 = true
    simp [Notice.stray]
  · exact ((s.finish_intake _ _).2 fun ⟨h, hne⟩ => hne (hmode.symm.trans h)).1
  · unfold Port.byteAt
    rw [ha, hmem]
    rfl

/-- Settles O12: in HALTED nothing, a count of 1 to 32 by the cells offered in turn, any other by the stray recorded. -/
theorem postOffersTheRun : Obligations.PostOffersTheRun := by
  unfold Obligations.PostOffersTheRun
  rintro v s n
  refine ⟨fun hm => if_pos hm, ?_⟩
  rintro hm rfl
  constructor
  · intro hpos hle
    have hcount : ¬ (postCount v = 0 ∨ 32 < postCount v) := by unfold postCount; omega
    show execPost v s = _
    unfold execPost
    rw [if_neg hm, if_neg hcount, foldl_offerCell (nodup_runCells (postFirst v) (show postCount v ≤ 32 from hle))]
    rfl
  · intro hcount hset
    have hpost : exec (.post v) s = .next (s.finish (s.port.setStray .badRun (postFirst v)) s.blocks) :=
      (if_neg hm).trans (if_pos hcount)
    rw [hpost]
    exact s.finish_stray hset .badRun (postFirst v)

end Sys2Proof.Machine
end

section

namespace Sys2Proof.Machine

/-! PROOF. Every well-formed command goes on and leaves the queue, and time passes on an empty one (log entries 1, 2). -/

/-- A soft restart ends as an event does. -/
theorem State.softRestart_pending (s : State) : s.softRestart.pending = s.pending := State.finish_pending s _ _

/-- A command leaves the rest of the queue. -/
theorem exec_pending {c : Instr} {s t : State} (h : exec c s = .next t) : t.pending = s.pending := by
  refine exec_rule (P := fun t => t.pending = s.pending) h rfl (fun _ _ _ => rfl) rfl ?_ rfl (fun _ => rfl)
    (fun _ => s.softRestart_pending) rfl (fun _ => rfl) (fun _ _ => rfl) (fun _ => rfl) ?_ (fun _ => rfl)
  · intro v hv hm
    subst hv
    exact post_rule (P := fun t => t.pending = s.pending) h hm rfl rfl
  · intro cell rest _ _
    exact take_rule (P := fun t => t.pending = s.pending) (fun _ => rfl) (fun _ => rfl) (fun _ => rfl)

/-- An event goes on. -/
theorem EndsEvent.next {s : State} {o : Host.Outcome State Fault Refusal} (h : EndsEvent s o) : ∃ t, o = .next t := by
  rcases h with h | ⟨p, b, h, -⟩
  · exact ⟨_, h⟩
  · exact ⟨_, h⟩

/-- R185: an access inside the exchange memory goes on. -/
theorem execHostMemoryAccess_next {x : HostAccess} (h : x.ok = true) (s : State) :
    ∃ t, execHostMemoryAccess x s = .next t := by
  have hspan : ¬ (0x10000 < (accessSpan x).1 + (accessSpan x).2 ∧ (accessSpan x).2 ≠ 0) := by
    have hle : (accessSpan x).1 + (accessSpan x).2 ≤ 65536 := by
      cases x with
      | read a n => exact of_decide_eq_true h
      | write a bs => exact of_decide_eq_true h
    omega
  unfold execHostMemoryAccess
  rw [if_neg hspan]
  cases x with
  | read a n => exact ⟨_, rfl⟩
  | write a bs => exact ⟨_, rfl⟩

/-- The only command with no next state is an access beyond the exchange memory. -/
theorem exec_next {c : Instr} (hc : wellFormed c = true) (s : State) : ∃ t, exec c s = .next t := by
  have hite : ∀ (q : Prop) [Decidable q] (u v : State), ∃ t,
      (if q then .next u else .next v : Host.Outcome State Fault Refusal) = .next t := by
    intro q _ u v
    split
    · exact ⟨_, rfl⟩
    · exact ⟨_, rfl⟩
  rcases exec_cases c s with h | rfl | ⟨v, rfl⟩ | rfl | ⟨v, rfl⟩ | rfl | rfl | ⟨r, v, rfl⟩ | ⟨x, rfl⟩ | ⟨l, rfl⟩ | rfl | rfl
  · exact h.next
  · exact ⟨_, rfl⟩
  · show ∃ t, execPost v s = .next t
    unfold execPost
    split
    · exact ⟨_, rfl⟩
    · exact hite _ _ _
  · exact ⟨_, rfl⟩
  · exact ⟨_, rfl⟩
  · exact hite _ _ _
  · exact ⟨_, rfl⟩
  · exact ⟨_, rfl⟩
  · exact execHostMemoryAccess_next hc s
  · exact hite _ _ _
  · show ∃ t, execTakeCell s = .next t
    unfold execTakeCell
    split
    · exact ⟨_, rfl⟩
    · split
      · exact ⟨_, rfl⟩
      · exact ⟨_, rfl⟩
  · exact hite _ _ _

/-- Settles O2: a well-formed command goes on, and leaves the rest of the queue; the tick by its definition. -/
theorem commandsGoOnAndTimePasses : Obligations.CommandsGoOnAndTimePasses := by
  unfold Obligations.CommandsGoOnAndTimePasses
  constructor
  · intro c s hc
    obtain ⟨t, ht⟩ := exec_next hc s
    rw [ht]
    exact exec_pending ht
  · intro s hempty
    have hstep : step s = .next s.tick := by
      unfold step
      rw [hempty]
    exact hstep

/-! PROOF. An answer for a cell that is not in flight (R183, R189). -/

/-- R189: an answer for a cell that is not in flight is a failed check, whatever else the event answers. -/
theorem Port.writeAnswers_fails {now : Clock} {p : Port} {a : Answer} (as : List Answer)
    (h : p.isInFlight a.cell = false) : (Port.writeAnswers now p (a :: as)).2 = true := by
  unfold Port.writeAnswers
  rw [if_neg (by rw [h]; nofun)]

/-- R183: an event with an answer that is not written ends in HALTED. -/
theorem State.finish_unwritten (s : State) (p : Port) (b : Blocks)
    (h : (Port.writeAnswers b.clock p b.work.answers).2 = true) : (s.finish p b).blocks.mode = .halted := by
  show (b.closeChecks _).enterAlarms.mode = _
  rw [Blocks.enterAlarms_mode, h]
  unfold Blocks.closeChecks
  split
  · exact Blocks.enterHalted_mode _ _
  · rename_i hmode
    simpa using hmode

/-- R167: an acknowledgement is answered in its event. -/
theorem Blocks.acknowledgeAlarm_answers (b : Blocks) (q : Request) : ∃ o d,
    (b.acknowledgeAlarm q).work.answers = b.work.answers ++ [{ cell := q.cell, outcome := o, detail := d }] := by
  unfold Blocks.acknowledgeAlarm
  dsimp only
  split
  · exact ⟨_, _, rfl⟩
  · split
    · exact ⟨_, _, rfl⟩
    · rename_i a _
      unfold Blocks.acceptAlarm
      split
      · exact ⟨_, _, rfl⟩
      · exact ⟨_, _, rfl⟩
      · exact ⟨_, _, rfl⟩

/-- Settles O16: the acknowledgement's answer comes first in its event, and its cell is not in flight. -/
theorem answerToAClosedCellHalts : Obligations.AnswerToAClosedCellHalts := by
  unfold Obligations.AnswerToAClosedCellHalts
  intro q s hawake hhanded hkind hcell hclosed hwork
  have hexec : exec .acknowledgeAlarm s =
      .next (s.finish { s.port with handed := none } (s.blocks.acknowledgeAlarm q).settle) :=
    State.request_next s (Request.isKind .acknowledgeAlarm) Blocks.acknowledgeAlarm q hawake hhanded
      (by simp [Request.isKind, hkind])
  rw [hexec]
  obtain ⟨o, d, hanswers⟩ := s.blocks.acknowledgeAlarm_answers q
  obtain ⟨as, hsettle⟩ := (Blocks.Follows.settle (full := true) (s.blocks.acknowledgeAlarm q)).answers
  rw [hanswers, hwork] at hsettle
  generalize (s.blocks.acknowledgeAlarm q).settle = d at hsettle ⊢
  constructor
  · refine State.finish_unwritten _ _ _ ?_
    rw [← hsettle]
    exact Port.writeAnswers_fails as hclosed
  · intro i hi
    rw [Port.byteAt_cell _ _ _ hcell (by omega), Port.byteAt_cell _ _ _ hcell (by omega)]
    obtain ⟨-, -, -, -, hmem, -⟩ := s.finish_port { s.port with handed := none } d
    rw [hmem]
    exact (Port.writeAnswers_closed _ q.cell _ { s.port with handed := none } hclosed).2 _ (by omega) (by omega)

end Sys2Proof.Machine
end

section

namespace Sys2Proof.Machine

/-! PROOF. SELF_CHECK goes on or enters HALTED (R183, R184, R197). -/

/-! ### What the entry to HALTED empties (R184) -/

theorem Blocks.haltStore_writes (b : Blocks) : b.haltStore.writes = [] := by
  unfold Blocks.haltStore
  split
  · rfl
  · rfl

/-- R184: a commit write that is abandoned leaves no valid image (R179). -/
theorem Blocks.haltStore_stored (b : Blocks) (h : b.stored.valid = false) : b.haltStore.stored.valid = false := by
  unfold Blocks.haltStore
  split
  · rfl
  · exact h

/-- What no effect on a record changes, the effects on all of them leave. -/
theorem Blocks.haltRecords_get {β : Type} (get : Blocks → β) (hs : ∀ b n, get (b.updSection n SectionRec.halt) = get b)
    (hp : ∀ b n, get (b.updPoint n PointRec.halt) = get b) (hg : ∀ b n, get (b.updSignal n SignalRec.halt) = get b)
    (hl : ∀ b n, get (b.updLine n LineRec.halt) = get b) (hh : ∀ (b : Blocks) hs, get { b with holds := hs } = get b)
    (b : Blocks) : get b.haltRecords = get b := by
  unfold Blocks.haltRecords
  dsimp only
  rw [hh, foldl_same get _ hl, foldl_same get _ hg, foldl_same get _ hp, foldl_same get _ hs]

/-- The waiting list and the store's writes and image. -/
def Blocks.waitingAndStore (b : Blocks) : List WaitingRec × List Write × StoredImage := (b.waiting, b.writes, b.stored)

/-- The effects on the records leave the waiting list and the store. -/
theorem Blocks.haltRecords_store (b : Blocks) : b.haltRecords.waiting = b.waiting ∧
    b.haltRecords.writes = b.writes ∧ b.haltRecords.stored = b.stored := by
  have h : b.haltRecords.waitingAndStore = b.waitingAndStore := by
    refine Blocks.haltRecords_get Blocks.waitingAndStore (fun b n => ?_) (fun b n => ?_) (fun b n => ?_)
      (fun b n => ?_) (fun _ _ => rfl) b
    · obtain ⟨_, _, e⟩ := b.updSection_frame n SectionRec.halt
      rw [e]
      rfl
    · obtain ⟨_, _, _, _, _, e⟩ := b.updPoint_frame n PointRec.halt
      rw [e]
      rfl
    · obtain ⟨_, _, _, _, _, e⟩ := b.updSignal_frame n SignalRec.halt
      rw [e]
      rfl
    · obtain ⟨_, _, e⟩ := b.updLine_frame n LineRec.halt
      rw [e]
      rfl
  obtain ⟨hwaiting, hrest⟩ := Prod.mk.inj h
  obtain ⟨hwrites, hstored⟩ := Prod.mk.inj hrest
  exact ⟨hwaiting, hwrites, hstored⟩

theorem SignalRec.halt_owningSlot (r : SignalRec) : r.halt.owningSlot = none := congrArg Prod.fst r.halt_holdView

/-- R184: nothing waits, no write is left, an image that was not valid is not, and every signal is commanded STOP and
owned by no slot. -/
theorem Blocks.enterHalted_emptied (b : Blocks) (raise : Option Clock) :
    (b.enterHalted raise).waiting = [] ∧ (b.enterHalted raise).writes = [] ∧
      (b.stored.valid = false → (b.enterHalted raise).stored.valid = false) ∧
      ∀ n r, (b.enterHalted raise).signalRec n = some r → r.commanded = .stop ∧ r.owningSlot = none := by
  unfold Blocks.enterHalted
  dsimp only
  generalize hd : ({ (b.setMode .halted).haltStore with
    sweep := Sweep.off, selfCheckDue := none, lineStateDue := none
    work := { (b.setMode .halted).haltStore.work with halt := false } } : Blocks) = d
  have hwrites : d.writes = [] := by
    rw [← hd]
    exact Blocks.haltStore_writes _
  have hstored : b.stored.valid = false → d.stored.valid = false := by
    rw [← hd]
    exact (b.setMode .halted).haltStore_stored
  obtain ⟨hwaiting, hrest, himage⟩ := d.dropRoutes.haltRecords_store
  obtain ⟨_, _, hdrop⟩ := d.dropRoutes_frame
  replace hwaiting : d.dropRoutes.haltRecords.waiting = [] := by rw [hwaiting, hdrop]
  replace hrest : d.dropRoutes.haltRecords.writes = [] := by rw [hrest, hdrop]; exact hwrites
  replace himage : d.dropRoutes.haltRecords.stored = d.stored := by rw [himage, hdrop]
  rw [← himage] at hstored
  have hsignals : ∀ n r, d.dropRoutes.haltRecords.signalRec n = some r → r.commanded = .stop ∧ r.owningSlot = none := by
    intro n r hr
    rw [Blocks.haltRecords_signalRec] at hr
    obtain ⟨q, -, rfl⟩ := Option.map_eq_some_iff.mp hr
    exact ⟨q.halt_commanded, q.halt_owningSlot⟩
  generalize d.dropRoutes.haltRecords = f at hwaiting hrest hstored hsignals ⊢
  have hpolled : ∀ g : Blocks, g.waiting = f.waiting → g.writes = f.writes → g.stored = f.stored →
      g.signals = f.signals →
      ((g.haltBus .a).haltBus .b).waiting = [] ∧ ((g.haltBus .a).haltBus .b).writes = [] ∧
        (b.stored.valid = false → ((g.haltBus .a).haltBus .b).stored.valid = false) ∧
        ∀ n r, ((g.haltBus .a).haltBus .b).signalRec n = some r → r.commanded = .stop ∧ r.owningSlot = none := by
    intro g hgw hgr hgi hgs
    obtain ⟨_, _, _, _, _, e⟩ := ((Blocks.Polled.haltBus g .a).trans (Blocks.Polled.haltBus _ .b)).frame
    rw [e]
    exact ⟨hgw.trans hwaiting, hgr.trans hrest, fun h => (congrArg StoredImage.valid hgi).trans (hstored h),
      fun n r hr => hsignals n r ((Blocks.signalRec_congr hgs n).symm.trans hr)⟩
  split
  · exact hpolled f rfl rfl rfl rfl
  · exact hpolled (f.raiseAlarm _ _ _) rfl rfl rfl rfl

/-! ### The event that enters HALTED -/

/-- R183, R184: an event that enters HALTED ends with the blocks it makes, but for the alarm list. -/
theorem State.ended_halted (s : State) {c : Blocks} (hq : c.quiet) (hm : c.mode = .halted) : ∃ as m n,
    (s.ended c).blocks = { c with
      alarms := as, overflow := m, alarmCounter := n, work := Work.empty, freeIndex := s.blocks.freeIndex + 1 } := by
  unfold State.ended
  rw [Blocks.settle_of_quiet c hq]
  have hchecks : ∀ q, c.clearNotices.clearFreed.closeChecks q = c.clearNotices.clearFreed := fun q => by
    unfold Blocks.closeChecks
    rw [if_neg (by rw [show c.clearNotices.clearFreed.mode = .halted from hm]; simp)]
  rw [State.finish_eq s s.port _ _ (hchecks _)]
  obtain ⟨as, m, n, e⟩ := c.clearNotices.clearFreed.enterAlarms_eq
  rw [e]
  exact ⟨as, m, n, rfl⟩

/-- R183: which self-check takes the supervisor to HALTED. -/
theorem Blocks.selfCheck_fails {b : Blocks} {c : SelfCheckCause} (h : (∃ m, c = .memoryFault m) ∨ (c = .periodic ∧
    ∃ w d, b.inForce = some w ∧ b.selfCheckDue = some d ∧ Clock.reached b.clock d = true ∧
      imageCrc w.bytes ≠ imageCrcField w.bytes)) : ∃ raise, b.selfCheck c = some (b.enterHalted raise) := by
  rcases h with ⟨m, rfl⟩ | ⟨rfl, w, d, hw, hd, hdue, hcrc⟩
  · exact ⟨_, rfl⟩
  · refine ⟨some d, ?_⟩
    unfold Blocks.selfCheck
    rw [hw, hd]
    exact (if_pos hdue).trans (if_neg hcrc)

/-- R183: a due check whose CRC agrees. -/
theorem Blocks.selfCheck_agrees {b : Blocks} {w : WorkingCopy} {d : Clock} (hw : b.inForce = some w)
    (hd : b.selfCheckDue = some d) (hdue : Clock.reached b.clock d = true)
    (hcrc : imageCrc w.bytes = imageCrcField w.bytes) :
    b.selfCheck .periodic = some { b with selfCheckDue := some (Clock.after d 60000) } := by
  unfold Blocks.selfCheck
  rw [hw, hd]
  exact (if_pos hdue).trans (if_pos hcrc)

/-- Settles O57: a check that agrees is an event without alarms; one that fails ends as the entry to HALTED does. -/
theorem selfCheckHalts : Obligations.SelfCheckHalts := by
  unfold Obligations.SelfCheckHalts
  intro s hawake hset
  have hwork : s.blocks.work = Work.empty := eq_of_beq hset
  constructor
  · intro w d hw hd hdue hcrc
    have hexec : exec (.selfCheck .periodic) s =
        .next (s.ended { s.blocks with selfCheckDue := some (Clock.after d 60000) }) :=
      State.event_next s (·.selfCheck .periodic) _ hawake (Blocks.selfCheck_agrees hw hd hdue hcrc)
    rw [hexec]
    exact s.ended_silent _ rfl (congrArg Work.answers hwork) (congrArg Work.alarms hwork)
  · intro c hc
    obtain ⟨raise, hcheck⟩ := Blocks.selfCheck_fails hc
    have hexec : exec (.selfCheck c) s = .next (s.ended (s.blocks.enterHalted raise)) :=
      State.event_next s (·.selfCheck c) _ hawake hcheck
    rw [hexec]
    obtain ⟨_, _, _, hblocks⟩ :=
      s.ended_halted (s.blocks.enterHalted_quiet raise) (s.blocks.enterHalted_mode raise)
    obtain ⟨hwaiting, hwrites, -, hsignals⟩ := s.blocks.enterHalted_emptied raise
    obtain ⟨hroutes, -⟩ := s.blocks.enterHalted_quiet raise
    have hmode : (s.ended (s.blocks.enterHalted raise)).blocks.mode = .halted := by
      rw [hblocks]
      exact s.blocks.enterHalted_mode raise
    have hbefore : s.blocks.mode ≠ .halted := fun h => by simp [State.asleep, h] at hawake
    obtain ⟨hintake, hhanded⟩ := (s.finish_intake s.port (s.blocks.enterHalted raise).settle).1 ⟨hmode, hbefore⟩
    refine ⟨hmode, State.safe_of_halted hmode, ?_, ?_, hintake, hhanded, ?_, ?_, ?_⟩
    · rw [hblocks]; exact hwaiting
    · rw [hblocks]; exact hroutes
    · rw [hblocks]; exact hwrites
    · rw [hblocks]; exact hsignals
    · rw [hblocks]; exact ((Blocks.Follows.refl false s.blocks).enterHalted raise).inForce

/-! PROOF. LEAVE SERVICE (R180). -/

/-- A place of a list of optional records that holds one with a property. -/
theorem any_any_iff {α : Type} (l : List (Option α)) (q : α → Bool) :
    l.any (fun x => x.any q) = true ↔ ∃ (n : Nat) (a : α), (l[n]?).join = some a ∧ q a = true := by
  rw [List.any_eq_true]
  constructor
  · rintro ⟨x, hx, hq⟩
    obtain ⟨a, rfl, ha⟩ := (Option.any_eq_true ..).mp hq
    obtain ⟨n, hn⟩ := List.mem_iff_getElem?.mp hx
    exact ⟨n, a, by rw [hn]; rfl, ha⟩
  · rintro ⟨n, a, hn, ha⟩
    exact ⟨some a, List.mem_of_getElem? (Blocks.Follows.getElem?_of_join hn), ha⟩

/-- R180: the Route Set is not empty. -/
theorem Blocks.routes_any_iff (b : Blocks) : b.routes.any (·.isSome) = true ↔ ∃ n, b.routeRec n ≠ none := by
  have hany : b.routes.any (·.isSome) = b.routes.any (fun x => x.any fun _ => true) :=
    congrArg b.routes.any (funext fun x => by cases x <;> rfl)
  rw [hany, any_any_iff]
  simp only [and_true, ← Option.ne_none_iff_exists']
  rfl

/-- R180: a line has a reception. -/
theorem Blocks.receptions_any_iff (b : Blocks) :
    b.lines.any (fun l => l.any fun x => x.reception.isSome) = true ↔
      ∃ n l, b.lineRec n = some l ∧ l.reception ≠ none := by
  rw [any_any_iff]
  simp only [Option.isSome_iff_ne_none]
  rfl

section

variable {b : Blocks}

theorem Blocks.firstNotEmpty_routes (h : ∃ n, b.routeRec n ≠ none) : b.firstNotEmpty = some .routeSet :=
  if_pos (b.routes_any_iff.mpr h)

theorem Blocks.firstNotEmpty_waiting (hr : ∀ n, b.routeRec n = none) (hw : b.waiting ≠ []) :
    b.firstNotEmpty = some .waitingList := by
  have hroutes : ¬ b.routes.any (·.isSome) = true := fun h =>
    let ⟨n, hn⟩ := b.routes_any_iff.mp h
    hn (hr n)
  exact (if_neg hroutes).trans (if_pos (by simpa using hw))

theorem Blocks.firstNotEmpty_lines (hr : ∀ n, b.routeRec n = none) (hw : b.waiting = []) : b.firstNotEmpty =
    if b.lines.any (fun l => l.any fun x => x.reception.isSome) then some .reception else none := by
  have hroutes : ¬ b.routes.any (·.isSome) = true := fun h =>
    let ⟨n, hn⟩ := b.routes_any_iff.mp h
    hn (hr n)
  exact (if_neg hroutes).trans (if_neg (by simp [hw]))

end

/-- R180: CONFIGURING entered, the arm list emptied and the sweep dropped. -/
def Blocks.configured (b : Blocks) : Blocks := ({ b with arms := [], sweep := Sweep.off } : Blocks).setMode .configuring

section

variable {b : Blocks} {q : Request}

theorem Blocks.leaveService_keyOff (hkey : b.key = false) : b.leaveService q = b.answer q.cell .keyOff .none :=
  if_pos (by rw [hkey]; rfl)

theorem Blocks.leaveService_notEmpty {r : Reason} (hkey : b.key = true) (hr : b.firstNotEmpty = some r) :
    b.leaveService q = b.answer q.cell .notEmpty (.precondition r) := by
  refine (if_neg (by rw [hkey]; nofun)).trans ?_
  rw [hr]

theorem Blocks.leaveService_empty (hkey : b.key = true) (hnone : b.firstNotEmpty = none) :
    b.leaveService q = b.configured.answer q.cell .done .none := by
  refine (if_neg (by rw [hkey]; nofun)).trans ?_
  rw [hnone]
  rfl

end

theorem exec_leaveService {s : State} {q : Request} (h : s.serving .leaveService q) :
    exec .leaveService s = .next (s.served (s.blocks.leaveService q)) :=
  State.serving_next s .leaveService Blocks.leaveService q h

/-- Settles O42: KEY low, the first of the three that is not empty, and none. -/
theorem leaveServiceEmptyWithKey : Obligations.LeaveServiceEmptyWithKey := by
  unfold Obligations.LeaveServiceEmptyWithKey
  intro q s h
  have hsilent := State.Silent.of_serving h
  have hexec := exec_leaveService h
  have hnotEmpty : ∀ r, s.blocks.key = true → s.blocks.firstNotEmpty = some r → goesOn (exec .leaveService s) (fun t =>
      t.answered q.cell .notEmpty (.precondition r) ∧ s.blocks.After t.blocks) := fun r hkey hr =>
    hsilent.answered h (hexec.trans (by rw [Blocks.leaveService_notEmpty hkey hr]))
  refine ⟨fun hkey => hsilent.answered h (hexec.trans (by rw [Blocks.leaveService_keyOff hkey])), fun hkey =>
    ⟨fun hr => hnotEmpty _ hkey (Blocks.firstNotEmpty_routes hr), fun hr =>
    ⟨fun hw => hnotEmpty _ hkey (Blocks.firstNotEmpty_waiting hr hw), fun hw => ⟨fun hl => ?_, fun hl => ?_⟩⟩⟩⟩
  · refine hnotEmpty _ hkey ?_
    rw [Blocks.firstNotEmpty_lines hr hw, if_pos (s.blocks.receptions_any_iff.mpr hl)]
  · have hnone : s.blocks.firstNotEmpty = none := by
      rw [Blocks.firstNotEmpty_lines hr hw, if_neg]
      intro hany
      obtain ⟨n, l, hn, hne⟩ := s.blocks.receptions_any_iff.mp hany
      exact hne (hl n l hn)
    have hwork : s.blocks.work = Work.empty := by
      obtain ⟨-, -, -, -, -, hwork⟩ := h
      exact hwork
    have hleft : exec .leaveService s = .next (s.served (s.blocks.configured.answer q.cell .done .none)) :=
      hexec.trans (by rw [Blocks.leaveService_empty hkey hnone])
    have hx : s.Silent s.blocks.configured := ⟨rfl, hsilent.answers, hsilent.alarms⟩
    have hquiet : s.blocks.configured.quiet := by
      refine ⟨hr, fun n => ?_, .inl hw, congrArg Work.halt hwork⟩
      show (s.blocks.lineRec n).bind (·.reception) = none
      cases hn : s.blocks.lineRec n with
      | none => rfl
      | some l => exact hl n l hn
    have hdone := hx.answered h hleft
    rw [hleft] at hdone ⊢
    obtain ⟨hanswered, hafter⟩ := hdone
    have hblocks := hafter.quiet hquiet
    refine ⟨hanswered, ?_, hblocks.trans (by rw [← hwork]; rfl)⟩
    unfold State.safe
    rw [hblocks]
    exact Bool.and_false _

end Sys2Proof.Machine
end

section

namespace Sys2Proof.Machine

/-! PROOF. LOAD SEGMENT and LOAD RESET, by the state of the load (R175). -/

/-! ### One segment taken (R175, steps 1 to 4) -/

section

variable {l : LoadRec} {q : Request}

theorem LoadRec.passes_iff (l : LoadRec) (n : Nat) : l.passes n = true ↔
    131072 < l.received + n ∨ ∃ m, l.length = some m ∧ m < l.received + n := by
  unfold LoadRec.passes
  rw [Bool.or_eq_true, decide_eq_true_eq, Option.any_eq_true]
  simp only [decide_eq_true_eq]

/-- Steps 1 and 2: the CRC of the segment, and the room for it. -/
theorem Blocks.takeSegment_fails (b : Blocks) (h : crc32 q.segment ≠ BitVec.ofNat 32 (q.field 32 4) ∨
      131072 < l.received + q.segment.length ∨ ∃ m, l.length = some m ∧ m < l.received + q.segment.length) :
    b.takeSegment l q =
      ({ b with load := { l with state := .aborted } } : Blocks).answer q.cell .checkFailed .none := by
  by_cases hcrc : crc32 q.segment = BitVec.ofNat 32 (q.field 32 4)
  · exact (if_neg (not_not_intro hcrc)).trans
      (if_pos ((l.passes_iff _).mpr (h.resolve_left (not_not_intro hcrc))))
  · exact if_pos hcrc

section

variable (b : Blocks) (hcrc : crc32 q.segment = BitVec.ofNat 32 (q.field 32 4))
  (hroom : l.received + q.segment.length ≤ 131072)

include hcrc hroom

/-- Steps 1 and 2 passed. -/
theorem Blocks.takeSegment_appends (hlength : ∀ m, l.length = some m → l.received + q.segment.length ≤ m) :
    b.takeSegment l q =
      let m := l.append q.segment
      if m.length.isNone ∧ 64 ≤ m.received then
        let n := fieldAt m.buffer 4 4
        if n < 64 ∨ 131072 < n ∨ n < m.received then
          ({ b with load := { m with state := .aborted } } : Blocks).answer q.cell .checkFailed .none
        else
          ({ b with load := { m with length := some n } } : Blocks).answer q.cell .done
            (.count m.received (decide (m.received = n)))
      else ({ b with load := m } : Blocks).answer q.cell .done (.count m.received m.complete) := by
  have hpasses : ¬ l.passes q.segment.length = true := by
    rw [l.passes_iff]
    rintro (h | ⟨m, hm, h⟩)
    · omega
    · have := hlength m hm
      omega
  exact (if_neg (not_not_intro hcrc)).trans (if_neg hpasses)

/-- Step 3 alone: the length is known, or too little has been received to read it. -/
theorem Blocks.takeSegment_counts (hlength : ∀ m, l.length = some m → l.received + q.segment.length ≤ m)
    (h : l.length.isSome ∨ l.received + q.segment.length < 64) :
    b.takeSegment l q = ({ b with load := l.append q.segment } : Blocks).answer q.cell .done
      (.count (l.append q.segment).received (decide (l.length = some (l.append q.segment).received))) := by
  rw [b.takeSegment_appends hcrc hroom hlength]
  refine if_neg fun ⟨hnone, hle⟩ => ?_
  rcases h with h | h
  · rw [show l.length = none from Option.isNone_iff_eq_none.mp hnone] at h
    cases h
  · exact absurd hle (Nat.not_le.mpr h)

/-- Step 4: the length read from the header. -/
theorem Blocks.takeSegment_reads (hnone : l.length = none) (hle : 64 ≤ l.received + q.segment.length) {n : Nat}
    (hn : n = fieldAt (l.append q.segment).buffer 4 4) : b.takeSegment l q =
      if n < 64 ∨ 131072 < n ∨ n < (l.append q.segment).received then
        ({ b with load := { l.append q.segment with state := .aborted } } : Blocks).answer q.cell .checkFailed .none
      else ({ b with load := { l.append q.segment with length := some n } } : Blocks).answer q.cell .done
        (.count (l.append q.segment).received (decide ((l.append q.segment).received = n))) := by
  subst hn
  rw [b.takeSegment_appends hcrc hroom (fun m hm => by rw [hnone] at hm; cases hm)]
  exact if_pos ⟨Option.isNone_iff_eq_none.mpr hnone, hle⟩

end

end

/-! ### Which segment is taken (R175) -/

section

variable {b : Blocks} {q : Request}

theorem Blocks.loadSegment_badLength (h : q.field 30 2 = 0 ∨ 16384 < q.field 30 2) :
    b.loadSegment q = b.answer q.cell .badParameter (.parameter 30) := if_pos h

section

variable (h : ¬ (q.field 30 2 = 0 ∨ 16384 < q.field 30 2))

include h

theorem Blocks.loadSegment_aborted (hs : b.load.state = .aborted) :
    b.loadSegment q = b.answer q.cell .loadAborted .none := by
  refine (if_neg h).trans ?_
  rw [hs]

theorem Blocks.loadSegment_committing (hs : b.load.state = .committing) :
    b.loadSegment q = b.answer q.cell .active .none := by
  refine (if_neg h).trans ?_
  rw [hs]

theorem Blocks.loadSegment_outOfSequence (hn : q.field 28 2 ≠ 0)
    (hs : b.load.state = .idle ∨ (b.load.state = .receiving ∧ q.field 28 2 ≠ b.load.next)) :
    b.loadSegment q =
      ({ b with load := { b.load with state := .aborted } } : Blocks).answer q.cell .sequence .none := by
  refine (if_neg h).trans ?_
  rcases hs with hs | ⟨hs, hnext⟩
  · rw [hs]
    exact if_neg hn
  · rw [hs]
    exact (if_neg hn).trans (if_neg hnext)

theorem Blocks.loadSegment_first (hn : q.field 28 2 = 0) (hs : b.load.state = .idle ∨ b.load.state = .receiving) :
    b.loadSegment q = b.takeSegment { LoadRec.empty with state := .receiving } q := by
  refine (if_neg h).trans ?_
  rcases hs with hs | hs
  · rw [hs]
    exact if_pos hn
  · rw [hs]
    exact if_pos hn

theorem Blocks.loadSegment_next (hn : q.field 28 2 ≠ 0) (hnext : q.field 28 2 = b.load.next)
    (hs : b.load.state = .receiving) : b.loadSegment q = b.takeSegment b.load q := by
  refine (if_neg h).trans ?_
  rw [hs]
  exact (if_neg hn).trans (if_pos hnext)

end

end

theorem exec_loadSegment {s : State} {q : Request} (h : s.serving .loadSegment q) :
    exec .loadSegment s = .next (s.served (s.blocks.loadSegment q)) :=
  State.serving_next s .loadSegment Blocks.loadSegment q h

theorem exec_loadReset {s : State} {q : Request} (h : s.serving .loadReset q) :
    exec .loadReset s = .next (s.served (s.blocks.loadReset q)) :=
  State.serving_next s .loadReset Blocks.loadReset q h

theorem State.Silent.setLoad {s : State} {x : Blocks} (h : s.Silent x) (l : LoadRec) :
    s.Silent { x with load := l } := ⟨h.index, h.answers, h.alarms⟩

/-- Settles O40: LOAD RESET by its one condition; LOAD SEGMENT by the state of the load and the segment's number, and a
segment that is taken by the steps of R175. -/
theorem loadingByState : Obligations.LoadingByState := by
  unfold Obligations.LoadingByState
  constructor
  · intro q s h
    have hsilent := State.Silent.of_serving h
    have hexec := exec_loadReset h
    refine ⟨fun hs => hsilent.answered h (hexec.trans ?_), fun hs => (hsilent.setLoad _).answered h (hexec.trans ?_)⟩
    · rw [show s.blocks.loadReset q = _ from if_pos hs]
    · rw [show s.blocks.loadReset q = _ from if_neg hs]
      rfl
  · rintro q s n h rfl
    have hsilent := State.Silent.of_serving h
    have hexec := exec_loadSegment h
    have hanswered : ∀ l o d, s.blocks.loadSegment q = ({ s.blocks with load := l } : Blocks).answer q.cell o d →
        goesOn (exec .loadSegment s) (fun t =>
          t.answered q.cell o d ∧ ({ s.blocks with load := l } : Blocks).After t.blocks) := fun l o d e =>
      (hsilent.setLoad l).answered h (hexec.trans (by rw [e]))
    refine ⟨fun hlen => hanswered s.blocks.load _ _ (Blocks.loadSegment_badLength hlen), fun hpos hle => ?_⟩
    have hlen : ¬ (q.field 30 2 = 0 ∨ 16384 < q.field 30 2) := by omega
    refine ⟨fun hs => hanswered s.blocks.load _ _ (Blocks.loadSegment_aborted hlen hs),
      fun hs => hanswered s.blocks.load _ _ (Blocks.loadSegment_committing hlen hs),
      fun hn hs => hanswered _ _ _ (Blocks.loadSegment_outOfSequence hlen hn hs), fun l hs hl => ?_⟩
    have htake : s.blocks.loadSegment q = s.blocks.takeSegment l q := by
      rcases hl with ⟨hn, rfl⟩ | ⟨hn, hnext, hreceiving, rfl⟩
      · exact Blocks.loadSegment_first hlen hn hs
      · exact Blocks.loadSegment_next hlen hn hnext hreceiving
    refine ⟨fun hfails => hanswered _ _ _ (htake.trans (s.blocks.takeSegment_fails hfails)), ?_⟩
    rintro _ hcrc hroom rfl
    refine ⟨fun hknown hlength => hanswered _ _ _
      (htake.trans (s.blocks.takeSegment_counts hcrc hroom hlength hknown)), fun m hnone hread hm => ?_⟩
    have hreads := htake.trans (s.blocks.takeSegment_reads hcrc hroom hnone hread hm)
    refine ⟨fun ⟨hmin, hmax, hfits⟩ => hanswered _ _ _ (hreads.trans (if_neg ?_)),
      fun hbad => hanswered _ _ _ (hreads.trans (if_pos hbad))⟩
    rw [not_or, not_or]
    exact ⟨Nat.not_lt.mpr hmin, Nat.not_lt.mpr hmax, Nat.not_lt.mpr hfits⟩

end Sys2Proof.Machine
end

section

namespace Sys2Proof.Machine

/-! PROOF. COMMIT TABLES by its conditions, and the beginning of the commit write (R176, R177, R179). -/

/-! ### The conditions in order (R176) -/

section

variable {b : Blocks} {q : Request}

theorem Blocks.commitTables_committing (h : b.load.state = .committing) :
    b.commitTables q = b.answer q.cell .active .none := by
  unfold Blocks.commitTables
  rw [h]

theorem Blocks.commitTables_aborted (h : b.load.state = .aborted) :
    b.commitTables q = b.answer q.cell .loadAborted .none := by
  unfold Blocks.commitTables
  rw [h]

theorem Blocks.commitTables_incomplete (h : b.load.state = .idle ∨
    (b.load.state = .receiving ∧ b.load.length ≠ some b.load.received)) :
    b.commitTables q = b.answer q.cell .incomplete .none := by
  unfold Blocks.commitTables
  rcases h with h | ⟨h, hlength⟩
  · rw [h]
  · rw [h]
    exact if_pos (by simpa [LoadRec.complete] using hlength)

section

variable (h : b.load.state = .receiving) (hlength : b.load.length = some b.load.received)

include h hlength

/-- Conditions 1 to 3 hold. -/
theorem Blocks.commitTables_complete : b.commitTables q =
    if !b.key then b.answer q.cell .keyOff .none
    else
      match b.checkLoaded with
      | some d => b.answer q.cell .checkFailed d
      | none =>
        match b.possessedArea with
        | some n => b.answer q.cell .possessionsActive (.element (.area n) .none 0)
        | none => b.queueCommit q.cell := by
  unfold Blocks.commitTables
  rw [h]
  exact if_neg (by simp [LoadRec.complete, hlength])

theorem Blocks.commitTables_keyOff (hkey : b.key = false) : b.commitTables q = b.answer q.cell .keyOff .none := by
  rw [Blocks.commitTables_complete h hlength]
  exact if_pos (by rw [hkey]; rfl)

section

variable (hkey : b.key = true)

include hkey

theorem Blocks.commitTables_checkFailed {d : Detail} (hd : b.checkLoaded = some d) :
    b.commitTables q = b.answer q.cell .checkFailed d := by
  rw [Blocks.commitTables_complete h hlength, if_neg (by rw [hkey]; nofun), hd]

theorem Blocks.commitTables_possessed (hd : b.checkLoaded = none) {n : Nat} (hn : b.possessedArea = some n) :
    b.commitTables q = b.answer q.cell .possessionsActive (.element (.area n) .none 0) := by
  rw [Blocks.commitTables_complete h hlength, if_neg (by rw [hkey]; nofun), hd, hn]

theorem Blocks.commitTables_accepted (hd : b.checkLoaded = none) (hn : b.possessedArea = none) :
    b.commitTables q = b.queueCommit q.cell := by
  rw [Blocks.commitTables_complete h hlength, if_neg (by rw [hkey]; nofun), hd, hn]

end

end

end

/-- R176 condition 6: the lowest area that is not FREE. -/
theorem Blocks.possessedArea_first {b : Blocks} {n : Nat} {r : PossessionRec} (hr : b.areas[n]? = some r)
    (hheld : r.state ≠ .free) (hbelow : ∀ m < n, ∀ x, b.areas[m]? = some x → x.state = .free) :
    b.possessedArea = some n := by
  obtain ⟨hn, rfl⟩ := List.getElem?_eq_some_iff.mp hr
  refine List.findIdx?_eq_some_iff_getElem.mpr ⟨hn, by simpa using hheld, fun m hm => ?_⟩
  simpa using hbelow m hm _ (List.getElem?_eq_getElem (hm.trans hn))

theorem Blocks.possessedArea_none {b : Blocks} (h : ∀ r ∈ b.areas, r.state = .free) : b.possessedArea = none :=
  List.findIdx?_eq_none_iff.mpr fun r hr => by simpa using h r hr

/-! ### The accepted commit (R176, R177, R179) -/

/-- R179: with the list full the commit write fails at once. -/
theorem Blocks.queueCommit_full {b : Blocks} (hs : b.load.state = .receiving) (h : 32 ≤ b.writes.length) (c : Nat) :
    b.queueCommit c = ({ b with work := { b.work with modeNotice := true } } : Blocks).storeFault.answer c
      .storeFault .none := by
  refine (if_pos h).trans ?_
  unfold Blocks.commitFailed
  have hload : ({ b.load with state := .receiving } : LoadRec) = b.load := by rw [← hs]
  rw [show ({ b with work := { b.work with modeNotice := true } } : Blocks).load = b.load from rfl, hload]
  rfl

/-- R176: COMMITTING, and the commit write at the tail of the list. -/
theorem Blocks.queueCommit_waits {b : Blocks} (hroom : b.writes.length < 32) (h : b.running ≠ none ∨ b.writes ≠ [])
    (c : Nat) : b.queueCommit c = { b with
      load := { b.load with state := .committing }, writes := b.writes ++ [.commit c] } := by
  refine (if_neg (Nat.not_le.mpr hroom)).trans (if_neg ?_)
  rintro ⟨hrun, hempty⟩
  rcases h with h | h
  · exact h (Option.isNone_iff_eq_none.mp hrun)
  · exact h (List.isEmpty_iff.mp hempty)

theorem Blocks.queueCommit_begins {b : Blocks} (hrun : b.running = none) (hempty : b.writes = []) (c : Nat) :
    b.queueCommit c = Blocks.beginCommit { b with load := { b.load with state := .committing } } c := by
  refine (if_neg (by rw [hempty]; decide)).trans (if_pos ⟨?_, ?_⟩)
  · exact Option.isNone_iff_eq_none.mpr hrun
  · exact List.isEmpty_iff.mpr hempty

/-- R177: the calls withdrawn are answers of the event alone. -/
theorem Blocks.withdrawCalls_frame (b : Blocks) : ∃ w, b.withdrawCalls = { b with work := w } := by
  suffices h : ∀ (ps : List PointRec) (d : Blocks), ∃ w,
      ps.foldl (fun b p => b.answerOpt p.pendingCall .withdrawn .none) d = { d with work := w } from h b.points b
  intro ps
  induction ps with
  | nil => exact fun d => ⟨_, rfl⟩
  | cons p ps ih =>
    intro d
    obtain ⟨w, e⟩ := ih (d.answerOpt p.pendingCall .withdrawn .none)
    rw [List.foldl_cons, e, Blocks.answerOpt_eq]
    exact ⟨w, rfl⟩

/-- R177: the blocks when the commit write has begun, but for the alarm list and what is handed on. -/
theorem Blocks.beginCommit_frame (b : Blocks) (c : Nat) : ∃ as m n w, b.beginCommit c =
    { Blocks.discardRecords { b with
        running := some (.commit c), writes := [], stored := { b.stored with valid := false } } with
      alarms := as, overflow := m, alarmCounter := n, work := w } := by
  unfold Blocks.beginCommit Blocks.markAbsent
  dsimp only
  obtain ⟨_, e⟩ := Blocks.foldl_mark_eq (numberedRecords ++ [MirrorRec.identity]) (Blocks.discardRecords
    (Blocks.withdrawCalls { b with
      running := some (.commit c), writes := [], stored := { b.stored with valid := false } }).endAlarmsNow)
  rw [e]
  obtain ⟨_, hcalls⟩ := Blocks.withdrawCalls_frame { b with
    running := some (.commit c), writes := [], stored := { b.stored with valid := false } }
  rw [hcalls]
  unfold Blocks.endAlarmsNow
  obtain ⟨_, _, _, halarms⟩ := Blocks.enterAlarms_eq { b with
    running := some (.commit c), writes := [], stored := { b.stored with valid := false }, work := ‹Work› }
  rw [halarms]
  exact ⟨_, _, _, _, rfl⟩

/-! ### What the end of an event leaves of the store -/

/-- An event that does not end in HALTED leaves the store as it was. -/
theorem State.finish_steady (s : State) (p : Port) (b : Blocks) (h : (s.finish p b).blocks.mode = b.mode) :
    (s.finish p b).blocks.running = b.running ∧ (s.finish p b).blocks.writes = b.writes ∧
      (s.finish p b).blocks.stored = b.stored := by
  have hmode : (b.closeChecks (Port.writeAnswers b.clock p b.work.answers).2).mode = b.mode := by
    rw [← h]
    exact (Blocks.enterAlarms_mode _).symm
  rw [State.finish_eq s p b b (Blocks.closeChecks_running b _ hmode)]
  obtain ⟨_, _, _, e⟩ := b.enterAlarms_eq
  rw [e]
  exact ⟨rfl, rfl, rfl⟩

/-- R179: no event's end makes an image valid. -/
theorem State.finish_invalid (s : State) (p : Port) (b : Blocks) (h : b.stored.valid = false) :
    (s.finish p b).blocks.stored.valid = false := by
  rw [State.finish_eq s p b _ rfl]
  obtain ⟨_, _, _, e⟩ := (b.closeChecks (Port.writeAnswers b.clock p b.work.answers).2).enterAlarms_eq
  rw [e]
  show (b.closeChecks _).stored.valid = false
  unfold Blocks.closeChecks
  split
  · obtain ⟨-, -, hinvalid, -⟩ := b.enterHalted_emptied (some b.clock)
    exact hinvalid h
  · exact h

/-- R177: a commit write that begins in the event of its request. -/
theorem State.served_beginCommit (s : State) (b : Blocks) (c : Nat) :
    (s.served (b.beginCommit c)).blocks.stored.valid = false ∧
      (s.served (b.beginCommit c)).blocks.inForce = none ∧ (s.served (b.beginCommit c)).blocks.load = b.load ∧
      (s.served (b.beginCommit c)).blocks.sections = [] ∧ (s.served (b.beginCommit c)).blocks.units = [] ∧
      (s.served (b.beginCommit c)).blocks.areas = [] ∧
      ((s.served (b.beginCommit c)).blocks.mode = b.mode →
        (s.served (b.beginCommit c)).blocks.running = some (.commit c) ∧
          (s.served (b.beginCommit c)).blocks.writes = [] ∧
          (s.served (b.beginCommit c)).blocks.stored.bytes = b.stored.bytes) := by
  obtain ⟨_, _, _, _, hbegin⟩ := b.beginCommit_frame c
  have hkept := s.served_kept (b.beginCommit c)
  have hcalm := (Blocks.Follows.settle (full := true) (b.beginCommit c)).calm rfl
  have hstored : (b.beginCommit c).settle.stored = { b.stored with valid := false } := by
    rw [hcalm.stored, hbegin]
    rfl
  refine ⟨s.finish_invalid _ _ (by rw [hstored]), ?_, ?_, ?_, ?_, ?_, fun hmode => ?_⟩
  · rw [hkept.inForce, hbegin]; rfl
  · rw [hkept.load, hbegin]; rfl
  · exact List.map_eq_nil_iff.mp (hkept.sections.trans (by rw [hbegin]; rfl))
  · exact List.map_eq_nil_iff.mp (hkept.units.trans (by rw [hbegin]; rfl))
  · rw [hkept.areas, hbegin]; rfl
  · obtain ⟨hbefore, -⟩ := b.beginCommit_kept c
    obtain ⟨hrunning, hwrites, himage⟩ := s.finish_steady { s.port with handed := none } (b.beginCommit c).settle
      (hmode.trans (hcalm.mode.trans hbefore).symm)
    have hend : (s.served (b.beginCommit c)).blocks.stored = _ := himage.trans hstored
    refine ⟨hrunning.trans ?_, hwrites.trans ?_, by rw [hend]⟩
    · rw [hcalm.running, hbegin]; rfl
    · rw [hcalm.writes, hbegin]; rfl

theorem exec_commitTables {s : State} {q : Request} (h : s.serving .commitTables q) :
    exec .commitTables s = .next (s.served (s.blocks.commitTables q)) :=
  State.serving_next s .commitTables Blocks.commitTables q h

/-- Settles O41: each condition by its equation; an accepted commit fails at once with one raise, waits, or begins. -/
theorem commitTablesByItsConditions : Obligations.CommitTablesByItsConditions := by
  unfold Obligations.CommitTablesByItsConditions
  intro q s h
  have hsilent := State.Silent.of_serving h
  have hexec := exec_commitTables h
  have hanswered : ∀ o d, s.blocks.commitTables q = s.blocks.answer q.cell o d →
      goesOn (exec .commitTables s) (fun t => t.answered q.cell o d ∧ s.blocks.After t.blocks) := fun o d e =>
    hsilent.answered h (hexec.trans (by rw [e]))
  refine ⟨fun hs => hanswered _ _ (Blocks.commitTables_committing hs),
    fun hs => hanswered _ _ (Blocks.commitTables_aborted hs),
    fun hs => hanswered _ _ (Blocks.commitTables_incomplete hs), fun hs hlength =>
    ⟨fun hkey => hanswered _ _ (Blocks.commitTables_keyOff hs hlength hkey), fun hkey => ⟨fun f hf => ?_, fun hf => ?_⟩⟩⟩
  · refine hanswered _ _ (Blocks.commitTables_checkFailed hs hlength hkey ?_)
    unfold Blocks.checkLoaded
    rw [hf]
    rfl
  · have hcheck : s.blocks.checkLoaded = none := by
      unfold Blocks.checkLoaded
      rw [hf]
      rfl
    refine ⟨fun n r hr hheld hbelow => hanswered _ _ (Blocks.commitTables_possessed hs hlength hkey hcheck
      (Blocks.possessedArea_first hr hheld hbelow)), fun hfree => ?_⟩
    have haccepted : exec .commitTables s = .next (s.served (s.blocks.queueCommit q.cell)) :=
      hexec.trans (by rw [Blocks.commitTables_accepted hs hlength hkey hcheck (Blocks.possessedArea_none hfree)])
    refine ⟨fun hfull => ?_, fun hroom hbusy => ?_, fun hrun hempty => ?_⟩
    · rw [haccepted, Blocks.queueCommit_full hs hfull]
      refine State.served_op h s.blocks _ .storeFault .none (.raised .storeFault .device s.blocks.clock) rfl rfl ?_ ?_
        rfl rfl rfl
      · show s.blocks.work.answers ++ _ = _
        rw [hsilent.answers]
        rfl
      · show s.blocks.work.alarms ++ _ = _
        rw [hsilent.alarms]
        rfl
    · rw [haccepted, Blocks.queueCommit_waits hroom hbusy]
      exact State.served_open s _ rfl hsilent.answers hsilent.alarms
    · rw [haccepted, Blocks.queueCommit_begins hrun hempty]
      exact ⟨rfl, s.served_beginCommit _ q.cell⟩

end Sys2Proof.Machine
end

section

namespace Sys2Proof.Machine

/-! PROOF. The alarms of a restart: TOKEN_DISAGREEMENT for every line whose token is BLOCKED (R129, R169). -/

/-! ### The raises handed on (R129) -/

/-- R129: the lines whose token is BLOCKED. -/
def Blocks.blockedLines (b : Blocks) : List Nat :=
  (List.range 16).filter (fun n => (b.lineRec n).any (fun l => l.token = some .blocked))

theorem Blocks.mem_blockedLines {b : Blocks} {n : Nat} :
    n ∈ b.blockedLines ↔ n < 16 ∧ ∃ l, b.lineRec n = some l ∧ l.token = some .blocked := by
  unfold Blocks.blockedLines
  rw [List.mem_filter, List.mem_range, Option.any_eq_true]
  simp only [decide_eq_true_eq]

theorem Blocks.nodup_blockedLines (b : Blocks) : b.blockedLines.Nodup := List.nodup_range.filter _

theorem Blocks.length_blockedLines (b : Blocks) : b.blockedLines.length ≤ 16 :=
  (List.length_filter_le _ _).trans List.length_range.le

/-- The raise of TOKEN_DISAGREEMENT on a line. -/
def disagreementRaise (t : Clock) (n : Nat) : AlarmOp := .raised .tokenDisagreement (.line n) t

/-- R129: the start-up hands on one raise for every line that is BLOCKED. -/
theorem Blocks.raiseBlocked_frame (b : Blocks) : b.raiseBlocked = { b with work := { b.work with
    alarms := b.work.alarms ++ b.blockedLines.map (disagreementRaise b.clock) } } := by
  suffices h : ∀ (ns : List Nat) (ops : List AlarmOp),
      ns.foldl (fun b n => if (b.lineRec n).any (fun l => l.token = some .blocked) then
          b.raiseAlarm .tokenDisagreement (.line n) b.clock else b) ({ b with work := { b.work with alarms := ops } }) =
        { b with work := { b.work with alarms := ops ++ (ns.filter (fun n =>
          (b.lineRec n).any (fun l => l.token = some .blocked))).map (disagreementRaise b.clock) } } from
    h (List.range 16) b.work.alarms
  intro ns
  induction ns with
  | nil =>
    intro ops
    simp
  | cons n ns ih =>
    intro ops
    rw [List.foldl_cons]
    by_cases hn : (b.lineRec n).any (fun l => decide (l.token = some .blocked)) = true
    · refine (congrArg (List.foldl _ · ns) (if_pos hn)).trans ((ih (ops ++ [disagreementRaise b.clock n])).trans ?_)
      rw [List.filter_cons, if_pos hn, List.map_cons, List.append_assoc, List.singleton_append]
    · refine (congrArg (List.foldl _ · ns) (if_neg hn)).trans ((ih ops).trans ?_)
      rw [List.filter_cons, if_neg hn]

/-- R161: raises are entered in the order in which they are handed on. -/
theorem handedOrder_raises (t : Clock) (ns : List Nat) :
    handedOrder (ns.map (disagreementRaise t)) = ns.map (disagreementRaise t) := by
  suffices h : ∀ (ns : List Nat) (ops : List AlarmOp),
      (ns.map (disagreementRaise t)).foldl placeOp ops = ops ++ ns.map (disagreementRaise t) from h ns []
  intro ns
  induction ns with
  | nil => simp
  | cons n ns ih =>
    intro ops
    rw [List.map_cons, List.foldl_cons, ih, List.append_cons]
    rfl

/-- R161: the raises of one event entered in turn. -/
theorem Blocks.enterAlarms_raises {b : Blocks} {t : Clock} {ns : List Nat}
    (h : b.work.alarms = ns.map (disagreementRaise t)) :
    b.enterAlarms = ns.foldl (fun d n => d.enterRaise .tokenDisagreement (.line n) t) b := by
  unfold Blocks.enterAlarms
  rw [h, handedOrder_raises, List.foldl_map]
  rfl

/-! ### The raises entered (R163, R164, R166) -/

/-- R164: where the list holds a LAPSED entry, one is taken out and no other entry is. -/
theorem withoutOldestLapsed_exists {xs : List AlarmRec} (h : ∃ a ∈ xs, a.state = .lapsed) :
    ∃ ys, withoutOldestLapsed xs = some ys ∧ ys.Sublist xs ∧ ∀ a ∈ xs, a.state ≠ .lapsed → a ∈ ys := by
  induction xs with
  | nil =>
    obtain ⟨a, ha, -⟩ := h
    cases ha
  | cons x xs ih =>
    by_cases hx : x.state = .lapsed
    · refine ⟨xs, if_pos hx, List.sublist_cons_self _ _, fun a ha hstate => ?_⟩
      rcases List.mem_cons.mp ha with rfl | ha
      · exact absurd hx hstate
      · exact ha
    · obtain ⟨a, ha, hstate⟩ := h
      have hin : a ∈ xs := (List.mem_cons.mp ha).resolve_left fun e => hx (e ▸ hstate)
      obtain ⟨ys, hys, hsub, hkeep⟩ := ih ⟨a, hin, hstate⟩
      refine ⟨x :: ys, (if_neg hx).trans (by rw [hys]; rfl), hsub.cons_cons x, fun c hc hstate => ?_⟩
      rcases List.mem_cons.mp hc with rfl | hc
      · exact List.mem_cons_self
      · exact List.mem_cons_of_mem _ (hkeep c hc hstate)

/-- The alarm list xs after TOKEN_DISAGREEMENT has been raised on lines ns: what is left of xs, all of it LAPSED, and
one STANDING entry for each of the lines. -/
structure Blocks.Disagrees (d : Blocks) (xs : List AlarmRec) (ns : List Nat) : Prop where
  entries : ∀ a ∈ d.alarms, (a ∈ xs ∧ a.state = .lapsed) ∨
    (a.kind = .tokenDisagreement ∧ a.state = .standing ∧ ∃ n ∈ ns, a.element = .line n)
  raised : ∀ n ∈ ns, ∃ a ∈ d.alarms, a.kind = .tokenDisagreement ∧ a.element = .line n ∧ a.state = .standing
  count : d.alarms.countP (fun a => a.state = .standing) ≤ ns.length

theorem Blocks.Disagrees.start {d : Blocks} (h : ∀ a ∈ d.alarms, a.state = .lapsed) : d.Disagrees d.alarms [] where
  entries a ha := .inl ⟨ha, h a ha⟩
  raised n hn := by cases hn
  count := (List.countP_eq_zero.mpr fun a ha => by simp [h a ha]).le

section

variable {d : Blocks} {xs : List AlarmRec} {ns : List Nat} {n : Nat} (h : d.Disagrees xs ns)

include h

/-- An entry joins a list from which LAPSED entries alone, or the line's own, have been taken out. -/
theorem Blocks.Disagrees.append (ys : List AlarmRec) (a : AlarmRec) (hsub : ys.Sublist d.alarms)
    (hkeep : ∀ x ∈ d.alarms, x.state = .standing → x.element ≠ .line n → x ∈ ys) (hn : n ∉ ns)
    (hkind : a.kind = .tokenDisagreement) (helement : a.element = .line n) (hstate : a.state = .standing) :
    (d.appendAlarm ys a).Disagrees xs (n :: ns) := by
  have hlist : (d.appendAlarm ys a).alarms = ys ++ [{ a with seq := d.alarmCounter }] := rfl
  constructor
  · intro x hx
    rw [hlist, List.mem_append, List.mem_singleton] at hx
    rcases hx with hx | rfl
    · refine (h.entries x (hsub.subset hx)).imp_right fun ⟨hk, hs, m, hm, he⟩ => ?_
      exact ⟨hk, hs, m, List.mem_cons_of_mem _ hm, he⟩
    · exact .inr ⟨hkind, hstate, n, List.mem_cons_self, helement⟩
  · intro m hm
    rw [hlist]
    rcases List.mem_cons.mp hm with rfl | hm
    · exact ⟨_, List.mem_append_right _ (List.mem_singleton_self _), hkind, helement, hstate⟩
    · obtain ⟨x, hx, hk, he, hs⟩ := h.raised m hm
      have hne : x.element ≠ .line n := by
        rw [he]
        intro e
        cases e
        exact hn hm
      exact ⟨x, List.mem_append_left _ (hkeep x hx hs hne), hk, he, hs⟩
  · rw [hlist, List.countP_append, List.length_cons]
    exact Nat.add_le_add (hsub.countP_le.trans h.count) List.countP_le_length

/-- R163, R164, R166: the raise on a further line always finds its place, since the entries that stand are too few to
fill the list. -/
theorem Blocks.Disagrees.raise (hn : n ∉ ns) (hfew : ns.length < 64) (t : Clock) :
    (d.enterRaise .tokenDisagreement (.line n) t).Disagrees xs (n :: ns) ∧
      (d.enterRaise .tokenDisagreement (.line n) t).overflow = d.overflow := by
  cases hfind : d.alarms.find? (·.about .tokenDisagreement (.line n)) with
  | some a =>
    have habout := List.find?_some hfind
    rw [AlarmRec.about_iff] at habout
    have hlapsed : a.state = .lapsed := by
      rcases h.entries a (List.mem_of_find?_eq_some hfind) with ⟨-, hs⟩ | ⟨-, -, m, hm, he⟩
      · exact hs
      · rw [habout.2] at he
        cases he
        exact absurd hm hn
    rw [Blocks.enterRaise_found hfind, if_pos hlapsed]
    refine ⟨h.append _ _ List.filter_sublist (fun x hx _ hne => ?_) hn habout.1 habout.2 rfl, rfl⟩
    rw [List.mem_filter, Bool.not_eq_true', AlarmRec.about_eq_false]
    exact ⟨hx, fun e => hne e.2⟩
  | none =>
    by_cases hroom : d.alarms.length < 64
    · rw [Blocks.enterRaise_room hfind hroom]
      exact ⟨h.append _ _ (List.Sublist.refl _) (fun x hx _ _ => hx) hn rfl rfl rfl, rfl⟩
    · have hex : ∃ a ∈ d.alarms, a.state = .lapsed := by
        by_contra hno
        push Not at hno
        have hall : d.alarms.countP (fun a => a.state = .standing) = d.alarms.length :=
          List.countP_eq_length.mpr fun a ha => by
            rcases h.entries a ha with ⟨-, hs⟩ | ⟨-, hs, -⟩
            · exact absurd hs (hno a ha)
            · exact decide_eq_true hs
        have := h.count
        omega
      obtain ⟨ys, hys, hsub, hkeep⟩ := withoutOldestLapsed_exists hex
      rw [Blocks.enterRaise_full hfind (Nat.not_lt.mp hroom), hys]
      exact ⟨h.append _ _ hsub (fun x hx hs _ => hkeep x hx (by rw [hs]; nofun)) hn rfl rfl rfl, rfl⟩

/-- The raises on lines that differ, one after the other. -/
theorem Blocks.Disagrees.raises (ms : List Nat) (hms : ms.Nodup) (hnew : ∀ m ∈ ms, m ∉ ns)
    (hfew : ms.length + ns.length ≤ 64) (t : Clock) :
    let e := ms.foldl (fun d n => d.enterRaise .tokenDisagreement (.line n) t) d
    e.Disagrees xs (ms.reverse ++ ns) ∧ e.overflow = d.overflow := by
  induction ms generalizing d ns with
  | nil => exact ⟨h, rfl⟩
  | cons m ms ih =>
    obtain ⟨hm, hms⟩ := List.nodup_cons.mp hms
    rw [List.length_cons] at hfew
    obtain ⟨hraise, hoverflow⟩ := h.raise (hnew m List.mem_cons_self) (by omega) t
    have hnext : ∀ k ∈ ms, k ∉ m :: ns := by
      intro k hk hin
      rcases List.mem_cons.mp hin with rfl | hin
      · exact hm hk
      · exact hnew k (List.mem_cons_of_mem _ hk) hin
    obtain ⟨hend, hend'⟩ := ih hraise hms hnext (by rw [List.length_cons]; omega)
    rw [List.foldl_cons, List.reverse_cons, List.append_assoc]
    exact ⟨hend, hend'.trans hoverflow⟩

end

/-- R129: the alarm list once the raises of a start-up are entered. -/
theorem Blocks.enterAlarms_disagrees {b : Blocks} {t : Clock} {ns : List Nat}
    (h : b.work.alarms = ns.map (disagreementRaise t)) (hns : ns.Nodup) (hfew : ns.length ≤ 64)
    (hlapsed : ∀ a ∈ b.alarms, a.state = .lapsed) :
    b.enterAlarms.Disagrees b.alarms ns.reverse ∧ b.enterAlarms.overflow = b.overflow := by
  rw [Blocks.enterAlarms_raises h]
  have hraises := (Blocks.Disagrees.start hlapsed).raises ns hns (fun _ _ hin => by cases hin) hfew t
  rwa [List.append_nil] at hraises

end Sys2Proof.Machine
end

section

namespace Sys2Proof.Machine

/-! PROOF. The records that a set-up makes from an image and a persistent section (R19, R27, R32, R41, R108, R124, R129,
R147), and that they stand after the first polls. -/

/-! ### The areas held (R147) -/

theorem Persistent.holds_iff {p : Persistent} {a : Nat} : p.holds a ↔ p.holdsArea a = true := by
  unfold Persistent.holds Persistent.holdsArea
  rw [Option.any_eq_true]
  simp only [decide_eq_true_eq]

/-- An area that is held meets a condition on its entry. -/
theorem any_heldAreas_iff {i : Image} {p : Persistent} (q : AreaEntry → Bool) :
    (heldAreas i p).any (fun a => (i.areas[a]?).any q) = true ↔
      ∃ a x, p.holds a ∧ i.areas[a]? = some x ∧ q x = true := by
  rw [List.any_eq_true]
  constructor
  · rintro ⟨a, ha, hq⟩
    obtain ⟨x, hx, hq⟩ := (Option.any_eq_true ..).mp hq
    exact ⟨a, x, Persistent.holds_iff.mpr (mem_heldAreas.mp ha).2, hx, hq⟩
  · rintro ⟨a, x, ha, hx, hq⟩
    exact ⟨a, mem_heldAreas.mpr ⟨(List.getElem?_eq_some_iff.mp hx).1, Persistent.holds_iff.mp ha⟩,
      (Option.any_eq_true ..).mpr ⟨x, hx, hq⟩⟩

theorem Image.areaHas_iff {i : Image} {n a : Nat} :
    i.areaHas n a = true ↔ ∃ e, i.areas[a]? = some e ∧ n ∈ e.sections := by
  unfold Image.areaHas
  rw [Option.any_eq_true]
  simp only [List.contains_iff_mem]

/-- R19: the first of the held areas that contain a section owns it. -/
theorem SectionRec.start_owner_of_first {i : Image} {p : Persistent} {n a : Nat} {e : AreaEntry} (ha : p.holds a)
    (he : i.areas[a]? = some e) (hn : n ∈ e.sections)
    (hfirst : ∀ c f, c < a → p.holds c → i.areas[c]? = some f → n ∉ f.sections) :
    (SectionRec.start i p n).owner = .possession a := by
  have hfind : (heldAreas i p).find? (i.areaHas n) = some a := by
    unfold heldAreas
    rw [List.find?_filter, List.find?_range_eq_some]
    refine ⟨?_, List.mem_range.mpr (List.getElem?_eq_some_iff.mp he).1, fun c hc => ?_⟩
    · simpa using ⟨Persistent.holds_iff.mp ha, Image.areaHas_iff.mpr ⟨e, he, hn⟩⟩
    · by_contra hno
      simp only [Bool.not_eq_true', Bool.not_eq_false, decide_eq_true_eq] at hno
      obtain ⟨f, hf, hin⟩ := Image.areaHas_iff.mp hno.2
      exact hfirst c f hc (Persistent.holds_iff.mpr hno.1) hf hin
  rw [SectionRec.start_owner, hfind]
  rfl

/-- R19: a section in no held area is free. -/
theorem SectionRec.start_owner_of_none {i : Image} {p : Persistent} {n : Nat}
    (h : ∀ a e, p.holds a → i.areas[a]? = some e → n ∉ e.sections) : (SectionRec.start i p n).owner = .free := by
  have hfind : (heldAreas i p).find? (i.areaHas n) = none := by
    rw [List.find?_eq_none]
    intro a ha hhas
    obtain ⟨e, he, hn⟩ := Image.areaHas_iff.mp hhas
    exact h a e (Persistent.holds_iff.mpr (mem_heldAreas.mp ha).2) he hn
  rw [SectionRec.start_owner, hfind]
  rfl

/-! ### The links and the lines (R124, R129) -/

theorem mem_portLines {port n : Nat} : n ∈ portLines port ↔ portOf n = port := by
  unfold portLines portOf
  simp only [List.mem_cons, List.not_mem_nil, or_false]
  omega

theorem Image.mem_fittedLines {i : Image} {port n : Nat} :
    n ∈ i.fittedLines port ↔ portOf n = port ∧ ∃ e, i.lines[n]? = some e ∧ e.mode ≠ .unfitted := by
  unfold Image.fittedLines
  rw [List.mem_filter, mem_portLines, Option.any_eq_true]
  simp only [decide_eq_true_eq]

/-- R124: a port with a fitted line is in use. -/
theorem LinkRec.start_isSome {i : Image} {port : Nat} : (LinkRec.start i port).isSome = true ↔
    ∃ n e, portOf n = port ∧ i.lines[n]? = some e ∧ e.mode ≠ .unfitted := by
  have hmem : (∃ n, n ∈ i.fittedLines port) ↔ ∃ n e, portOf n = port ∧ i.lines[n]? = some e ∧ e.mode ≠ .unfitted := by
    simp only [Image.mem_fittedLines, exists_and_left]
  rw [← hmem]
  unfold LinkRec.start
  cases i.fittedLines port with
  | nil => simp
  | cons n ns => simp

/-- R16: the neighbour of a port is that of one of its fitted lines. -/
theorem LinkRec.start_neighbour {i : Image} {port : Nat} {l : LinkRec} (h : LinkRec.start i port = some l) :
    ∃ n e, portOf n = port ∧ i.lines[n]? = some e ∧ e.mode ≠ .unfitted ∧ l.neighbour = e.neighbour := by
  unfold LinkRec.start at h
  cases hlines : i.fittedLines port with
  | nil =>
    rw [hlines] at h
    cases h
  | cons n ns =>
    obtain ⟨hport, e, he, hmode⟩ := Image.mem_fittedLines.mp (hlines ▸ List.mem_cons_self)
    rw [hlines] at h
    cases h
    exact ⟨n, e, hport, he, hmode, by rw [he]; rfl⟩

theorem LineRec.start_isSome {i : Image} {p : Persistent} {n : Nat} : (LineRec.start i p n).isSome = true ↔
    ∃ e, i.lines[n]? = some e ∧ e.mode ≠ .unfitted := by
  unfold LineRec.start
  cases i.lines[n]? with
  | none => simp
  | some e =>
    by_cases hmode : e.mode = .unfitted <;> simp [hmode]

/-- R129: a line's record as it is set up. -/
theorem LineRec.start_some {i : Image} {p : Persistent} {n : Nat} {l : LineRec} {e : LineEntry}
    (h : LineRec.start i p n = some l) (he : i.lines[n]? = some e) :
    l = { token := if e.mode = .bidirectional then (p.tokens[n]?).join else none
          disagreement := false, givePending := false, tokenAsk := none, entryAsk := none, reception := none
          handover := none, handedSlot := none, view := none, deferredFree := none, outgoingNone := 0 } := by
  unfold LineRec.start at h
  rw [he] at h
  dsimp only at h
  by_cases hmode : e.mode = .unfitted
  · rw [if_pos hmode] at h
    cases h
  · rw [if_neg hmode] at h
    exact (Option.some.inj h).symm

/-! ### The records of a set-up -/

section

variable (b : Blocks) (w : WorkingCopy)

theorem Blocks.setUp_linkRec {port : Nat} (h : port < 4) :
    (b.setUp w).linkRec port = LinkRec.start w.image port := by
  show (((List.range 4).map (LinkRec.start w.image))[port]?).join = _
  rw [List.getElem?_map, List.getElem?_range h]
  rfl

theorem Blocks.setUp_lineRec {n : Nat} (h : n < 16) :
    (b.setUp w).lineRec n = LineRec.start w.image b.persistent n := by
  show (((List.range 16).map (LineRec.start w.image b.persistent))[n]?).join = _
  rw [List.getElem?_map, List.getElem?_range h]
  rfl

theorem Blocks.setUp_lineRec_none {n : Nat} (h : 16 ≤ n) : (b.setUp w).lineRec n = none := by
  show (((List.range 16).map (LineRec.start w.image b.persistent))[n]?).join = _
  rw [List.getElem?_eq_none (by simpa using h)]
  rfl

theorem Blocks.setUp_routeRec (n : Nat) : (b.setUp w).routeRec n = none := by
  show ((List.replicate 48 none)[n]?).join = none
  rw [List.getElem?_replicate]
  split <;> rfl

/-- R129: a line set up carries no reception. -/
theorem Blocks.setUp_reception (n : Nat) : ((b.setUp w).lineRec n).bind (·.reception) = none := by
  by_cases hn : n < 16
  · rw [b.setUp_lineRec w hn]
    unfold LineRec.start
    cases w.image.lines[n]? with
    | none => rfl
    | some e =>
      dsimp only
      split <;> rfl
  · rw [b.setUp_lineRec_none w (Nat.not_lt.mp hn)]
    rfl

/-- R41: the holds of a possession after a set-up. -/
theorem Blocks.setUp_holds_area (a : Nat) :
    ((b.setUp w).holds.filter (fun x => x.claimant = .area a)).map (·.hold) =
      if a ∈ heldAreas w.image b.persistent then w.image.possessionHolds a else [] := by
  rw [← flatMap_ite_eq w.image.possessionHolds a _ (nodup_heldAreas _ _), b.setUp_holds w, List.filter_flatMap,
    List.map_flatMap]
  refine congrArg (List.flatMap · _) (funext fun c => ?_)
  by_cases e : c = a <;> simp [e, List.filter_map, Function.comp_def]

/-- What a start-up's first polls leave of the units' records (R110). -/
def Blocks.UnitsSetUp (i : Image) (b : Blocks) : Prop :=
  b.units.length = i.units.length ∧ (∀ u ∈ b.units, u.Unheard) ∧
    b.units.map (·.image) = i.units.map (fun e => e.slots.map SlotKind.safeValue)

theorem Blocks.setUp_units : (b.setUp w).UnitsSetUp w.image := by
  refine ⟨List.length_map _, fun u hu => ?_, ?_⟩
  · obtain ⟨e, -, rfl⟩ := List.mem_map.mp hu
    exact UnitRec.start_unheard e
  · exact List.map_map

end

/-- R108: a unit's record as it is set up, polled or not. -/
theorem Blocks.UnitsSetUp.unit {i : Image} {b : Blocks} (h : b.UnitsSetUp i) {n : Nat} {u : UnitRec} {e : UnitEntry}
    (hu : b.unitRec n = some u) (he : i.units[n]? = some e) :
    (u.state = .unknown ∨ u.state = .syncing) ∧ u.miss = 0 ∧ u.good = 0 ∧ u.lastStatus = none ∧ u.lastReply = none ∧
      u.image = e.slots.map SlotKind.safeValue := by
  obtain ⟨-, hunheard, himage⟩ := h
  obtain ⟨hstate, hmiss, hgood, hstatus, hreply⟩ := hunheard u (List.mem_of_getElem? hu)
  have hget : (b.units.map (·.image))[n]? = some u.image := by
    rw [List.getElem?_map, show b.units[n]? = some u from hu]
    rfl
  rw [himage, List.getElem?_map, he] at hget
  exact ⟨hstate, hmiss, hgood, hstatus, hreply, (Option.some.inj hget).symm⟩

/-- R108: the value of a slot that is safe, kind by kind. -/
theorem safeValue_slots (l : List SlotKind) : l.map SlotKind.safeValue = l.map (fun k => match k with
    | .signal => .signal .stop
    | .point => .hold
    | .sec => .none) := List.map_congr_left fun k _ => by cases k <;> rfl

section

variable {b : Blocks} {w : WorkingCopy}

/-- The records set up stand as Blocks.Restored says, where the clock stands at 0. -/
theorem Blocks.setUp_restored (hclock : b.clock = 0) : (b.setUp w).Restored w.image b.persistent where
  sections := by
    refine ⟨(List.length_map _).trans List.length_range, fun n r hr => ?_⟩
    rw [b.setUp_sectionRec w hr]
    exact ⟨rfl, rfl, rfl, rfl, rfl, rfl, rfl, fun a e => SectionRec.start_owner_of_first,
      SectionRec.start_owner_of_none⟩
  points := by
    refine ⟨?_, fun n v e hv he => ?_⟩
    · refine (congrArg List.length (filterMap_range_getElem?_idx _ w.image.points)).trans List.length_mapIdx
    · obtain ⟨e', he', rfl⟩ := b.setUp_pointRec w hv
      cases he.symm.trans he'
      refine ⟨rfl, rfl, rfl, rfl, rfl, rfl, rfl, rfl, rfl, rfl, rfl, ?_⟩
      refine (any_heldAreas_iff (fun x => x.sections.contains e.sec)).trans ?_
      simp only [List.contains_iff_mem]
  signals := by
    refine ⟨(List.length_map _).trans List.length_range, fun n r hr => ?_⟩
    rw [b.setUp_signalRec w hr]
    refine ⟨rfl, rfl, rfl, rfl, rfl, rfl, rfl, rfl, rfl, rfl, ?_⟩
    show ((heldAreas w.image b.persistent).filter _).length = _
    unfold heldAreas
    rw [List.filter_filter, ← List.countP_eq_length_filter]
    exact List.countP_congr fun a _ => by rw [Bool.and_comm]; rfl
  areas := by
    refine ⟨(List.length_map _).trans List.length_range, fun n r q hr hq => ?_⟩
    rw [eq_of_getElem?_map_range hr]
    unfold PossessionRec.start
    rw [hq]
  holds := by
    refine ⟨fun h hh => ?_, fun a => ⟨fun ha => ?_, fun ha h hh hc => ?_⟩⟩
    · obtain ⟨a, -, hc, -⟩ := (b.setUp_mem w).mp hh
      exact ⟨a, hc⟩
    · rw [b.setUp_holds_area w a]
      by_cases hlt : a < w.image.areas.length
      · exact if_pos (mem_heldAreas.mpr ⟨hlt, Persistent.holds_iff.mp ha⟩)
      · rw [if_neg fun h => hlt (mem_heldAreas.mp h).1]
        unfold Image.possessionHolds
        rw [List.getElem?_eq_none (Nat.not_lt.mp hlt)]
    · obtain ⟨c, hin, hclaim, -⟩ := (b.setUp_mem w).mp hh
      cases hclaim.symm.trans hc
      exact ha (Persistent.holds_iff.mpr (mem_heldAreas.mp hin).2)
  units := by
    refine ⟨List.length_map _, fun n u e hu he => ?_⟩
    obtain ⟨hstate, hmiss, hgood, hstatus, hreply, himage⟩ := (b.setUp_units w).unit hu he
    exact ⟨hstate, hmiss, hgood, hstatus, hreply, himage.trans (safeValue_slots _)⟩
  links port hport := by
    rw [b.setUp_linkRec w hport]
    refine ⟨LinkRec.start_isSome, fun l hl => ?_⟩
    have hneighbour := LinkRec.start_neighbour hl
    rw [LinkRec.start_some hl]
    exact ⟨rfl, rfl, rfl, rfl, rfl, rfl, rfl, hneighbour⟩
  lines n hn := by
    rw [b.setUp_lineRec w hn]
    refine ⟨LineRec.start_isSome, fun l e hl he => ?_⟩
    rw [LineRec.start_some hl he]
    exact ⟨rfl, rfl, rfl, rfl, rfl, rfl, rfl, rfl, rfl, rfl, rfl⟩
  rest := by
    refine ⟨b.setUp_routeRec w, rfl, rfl, ?_, ?_⟩
    · show some (Clock.after b.clock 500) = _
      rw [hclock]
    · show some (Clock.after b.clock 60000) = _
      rw [hclock]

end

/-- The records set up stand while the mode, the sweep, the buses and the alarm list change, and the units are polled. -/
theorem Blocks.Restored.polled {b : Blocks} {i : Image} {p : Persistent} (h : b.Restored i p) {us : List UnitRec}
    {t : Clock} {m : Mode} {w : Sweep} {x y : BusRec} {as : List AlarmRec} {o : Bool} {n f : Nat} {k : Work} (d : Blocks)
    (hd : d = { b with clock := t, mode := m, sweep := w, units := us, busA := x, busB := y, alarms := as, overflow := o
                       alarmCounter := n, freeIndex := f, work := k })
    (hunits : d.UnitsSetUp i) : d.Restored i p := by
  subst hd
  refine { sections := h.sections, points := h.points, signals := h.signals, areas := h.areas, holds := h.holds
           units := ⟨hunits.1, fun n u e hu he => ?_⟩, links := h.links, lines := h.lines, rest := h.rest }
  obtain ⟨hstate, hmiss, hgood, hstatus, hreply, himage⟩ := hunits.unit hu he
  exact ⟨hstate, hmiss, hgood, hstatus, hreply, himage.trans (safeValue_slots _)⟩

end Sys2Proof.Machine
end

section

namespace Sys2Proof.Machine

/-! PROOF. The blocks that a restart leaves: the stored image read, the records set up, the first polls begun, and
TOKEN_DISAGREEMENT entered for every line that is BLOCKED (R129, R172, R173, R181). -/

/-! ### The start-up sweep with lines BLOCKED (R129, R181) -/

/-- R181: OBSERVING entered with nothing waiting. -/
theorem Blocks.enterObserving_raised (b : Blocks) (hw : b.waiting = []) :
    Blocks.Observed b.raiseBlocked b.enterObserving := by
  have key : Blocks.Observed b.raiseBlocked b.sweepBegun.raiseBlocked.completeSweep := by
    have hraised := b.sweepBegun.raiseBlocked_frame
    obtain ⟨m, w, k, e, hm, ha, hal, hh⟩ := Blocks.completeSweep_frame b.sweepBegun.raiseBlocked
      (by rw [hraised]; exact hw)
    rw [hraised] at e hm ha hal hh
    rw [hraised, b.raiseBlocked_frame]
    refine ⟨⟨_, _, _, _, _, _, e, ha, hal, hh⟩, ?_, fun hne => ?_, ?_, ?_⟩
    · rw [e]
      exact hm
    · have hopen := Blocks.completeSweep_open b.sweepBegun.raiseBlocked
        (by rw [hraised]; exact b.sweepBegun_seen hne)
      rw [hraised] at hopen
      rw [hopen]
      exact ⟨rfl, rfl⟩
    · rw [e]
      rfl
    · rw [e]
      exact id
  rw [Blocks.enterObserving_eq]
  exact (key.polled (.startPoll _ _)).polled (.startPoll _ _)

/-! ### A poll leaves the images of the units (R110) -/

theorem map_modify_of_eq {α β : Type} {g : α → β} {f : α → α} (h : ∀ u, g (f u) = g u) (l : List α) (n : Nat) :
    (l.modify n f).map g = l.map g := by
  refine List.ext_getElem? fun k => ?_
  rw [List.getElem?_map, List.getElem?_modify, List.getElem?_map]
  split
  · refine (Option.map_map g f _).trans ?_
    exact congrArg (Option.map · _) (funext h)
  · exact congrArg _ (id_map _)

theorem UnitRec.polled_image (m : Mode) (u : UnitRec) : (u.polled m).image = u.image := by
  unfold UnitRec.polled
  split <;> rfl

theorem Blocks.setBus_units (b : Blocks) (x : Bus) (r : BusRec) : (b.setBus x r).units = b.units := by
  cases x <;> rfl

theorem Blocks.poll_images (b : Blocks) (x : Bus) (n : Nat) :
    (b.poll x n).units.map (·.image) = b.units.map (·.image) := by
  unfold Blocks.poll
  split
  · show (Blocks.updUnit _ n (UnitRec.polled _)).units.map (·.image) = _
    rw [Blocks.updUnit_units, map_modify_of_eq (UnitRec.polled_image _), Blocks.setBus_units]
  · rfl

theorem Blocks.startPoll_images (b : Blocks) (x : Bus) :
    (b.startPoll x).units.map (·.image) = b.units.map (·.image) := by
  unfold Blocks.startPoll
  dsimp only
  split
  · rfl
  · split
    · rw [Blocks.poll_images]
      exact congrArg (List.map (·.image)) (b.setBus_units x _)
    · split
      · rfl
      · rw [Blocks.poll_images, Blocks.setBus_units]

/-- R108: the start-up leaves the images of the units' records. -/
theorem Blocks.enterObserving_images (b : Blocks) (hw : b.waiting = []) :
    b.enterObserving.units.map (·.image) = b.units.map (·.image) := by
  obtain ⟨_, _, _, e, -⟩ := Blocks.completeSweep_frame b.sweepBegun.raiseBlocked
    (by rw [b.sweepBegun.raiseBlocked_frame]; exact hw)
  rw [Blocks.enterObserving_eq, Blocks.startPoll_images, Blocks.startPoll_images, e, b.sweepBegun.raiseBlocked_frame]
  rfl

/-! ### The blocks a restart starts from (R169, R182) -/

/-- R182: everything as after a hard restart but what stands through a reset, with an alarm list, its mark and its
counter. -/
def Blocks.anew (b : Blocks) (xs : List AlarmRec) (o : Bool) (n : Nat) : Blocks :=
  { b.hardBase with alarms := xs, overflow := o, alarmCounter := n }

theorem Blocks.hardBase_eq (b : Blocks) : b.hardBase = b.anew [] false 1 := rfl

theorem Blocks.softBase_eq (b : Blocks) : b.softBase = b.anew (b.endAllAlarms 0).alarms b.overflow b.alarmCounter := rfl

/-- R173: the stored image is marked valid and its CRC holds. -/
def Blocks.holdsImage (b : Blocks) : Prop :=
  b.stored.valid = true ∧ imageCrc b.stored.bytes = imageCrcField b.stored.bytes

/-- R174, R179: unless a commit runs, the writes that are lost leave the store. -/
theorem Blocks.loseWrites_kept (b : Blocks) (h : ∀ c, b.running ≠ some (.commit c)) :
    b.loseWrites = { b with running := none, writes := [] } := by
  unfold Blocks.loseWrites
  cases hr : b.running with
  | none => rfl
  | some w =>
    cases w with
    | commit c => exact absurd hr (h c)
    | record r k => rfl

theorem Blocks.loseWrites_commit (b : Blocks) {c : Nat} (h : b.running = some (.commit c)) :
    b.loseWrites = { b.spoilStore with running := none, writes := [] } := by
  unfold Blocks.loseWrites
  rw [h]

/-- R179: a commit write that is lost leaves no image. -/
theorem Blocks.loseWrites_holdsImage (b : Blocks) : b.loseWrites.holdsImage ↔
    (∀ c, b.running ≠ some (.commit c)) ∧ b.holdsImage := by
  by_cases h : ∃ c, b.running = some (.commit c)
  · obtain ⟨c, hc⟩ := h
    rw [b.loseWrites_commit hc]
    exact ⟨fun hv => (nomatch hv.1), fun hv => absurd hc (hv.1 c)⟩
  · have hno : ∀ c, b.running ≠ some (.commit c) := fun c hc => h ⟨c, hc⟩
    rw [b.loseWrites_kept hno]
    exact ⟨fun hv => ⟨hno, hv⟩, fun hv => hv.2⟩

/-- What stands through the loss of the writes. -/
theorem Blocks.loseWrites_stands (b : Blocks) : b.loseWrites.key = b.key ∧ b.loseWrites.freeIndex = b.freeIndex ∧
    b.loseWrites.alarms = b.alarms ∧ b.loseWrites.overflow = b.overflow ∧
    b.loseWrites.alarmCounter = b.alarmCounter := by
  by_cases h : ∃ c, b.running = some (.commit c)
  · obtain ⟨c, hc⟩ := h
    rw [b.loseWrites_commit hc]
    exact ⟨rfl, rfl, rfl, rfl, rfl⟩
  · rw [b.loseWrites_kept fun c hc => h ⟨c, hc⟩]
    exact ⟨rfl, rfl, rfl, rfl, rfl⟩

/-! ### The blocks started up (R172, R173) -/

/-- Blocks that a restart's end leaves of blocks b: every record set up from the stored image that b holds, and the units
polled; or, without one, CONFIGURING. The alarm list and what is handed on are free. -/
inductive Blocks.StartedUp (b : Blocks) : Blocks → Prop
  | restored {m : Mode} {w : Sweep} {us : List UnitRec} {x y : BusRec} {as : List AlarmRec} {o : Bool} {n f : Nat}
      {k : Work} {d : Blocks} (himage : b.holdsImage) (hmode : m = .observing ∨ m = .service)
      (hunits : d.UnitsSetUp (WorkingCopy.ofBytes b.stored.bytes).image)
      (hd : d = { b.setUp (WorkingCopy.ofBytes b.stored.bytes) with
        mode := m, sweep := w, units := us, busA := x, busB := y, alarms := as, overflow := o
        alarmCounter := n, freeIndex := f, work := k }) : StartedUp b d
  | bare {as : List AlarmRec} {o : Bool} {n f : Nat} {k : Work} {d : Blocks} (himage : ¬ b.holdsImage)
      (hd : d = { b with
        stored := { b.stored with valid := false }, mode := .configuring, alarms := as, overflow := o
        alarmCounter := n, freeIndex := f, work := k }) : StartedUp b d

/-- The alarm list and what is handed on may change. -/
theorem Blocks.StartedUp.ended {b d : Blocks} (h : b.StartedUp d) (as : List AlarmRec) (o : Bool) (n f : Nat) (k : Work) :
    b.StartedUp { d with alarms := as, overflow := o, alarmCounter := n, freeIndex := f, work := k } := by
  cases h with
  | restored himage hmode hunits hd =>
    subst hd
    exact .restored himage hmode hunits rfl
  | bare himage hd =>
    subst hd
    exact .bare himage rfl

/-- No line record, no line BLOCKED. -/
theorem Blocks.blockedLines_of_none {b : Blocks} (h : ∀ n, b.lineRec n = none) : b.blockedLines = [] := by
  rw [List.eq_nil_iff_forall_not_mem]
  intro n hn
  obtain ⟨-, l, hl, -⟩ := Blocks.mem_blockedLines.mp hn
  rw [h n] at hl
  cases hl

/-- R172, R173: what the start-up hands on, and what it leaves of the alarm list. -/
theorem Blocks.startUp_frame (b : Blocks) (hb : b.work = Work.empty) (hforce : b.inForce = none)
    (hlines : ∀ n, b.lineRec n = none) : b.StartedUp b.readStore.startUp ∧
    b.readStore.startUp.work.answers = [] ∧ b.readStore.startUp.work.halt = false ∧
    b.readStore.startUp.work.alarms = b.readStore.startUp.blockedLines.map (disagreementRaise b.clock) ∧
    b.readStore.startUp.alarms = b.alarms ∧ b.readStore.startUp.overflow = b.overflow ∧
    b.readStore.startUp.alarmCounter = b.alarmCounter ∧ b.readStore.startUp.freeIndex = b.freeIndex := by
  by_cases himage : b.holdsImage
  · have hread : b.readStore = b.setUp (WorkingCopy.ofBytes b.stored.bytes) := if_pos himage
    have hstart : b.readStore.startUp = (b.setUp (WorkingCopy.ofBytes b.stored.bytes)).enterObserving := by
      rw [hread]
      exact if_pos rfl
    have himages := (b.setUp (WorkingCopy.ofBytes b.stored.bytes)).enterObserving_images rfl
    obtain ⟨⟨m, w, us, x, y, k, e, hans, halarms, hhalt⟩, hmode, -, hlength, hunheard⟩ :=
      (b.setUp (WorkingCopy.ofBytes b.stored.bytes)).enterObserving_raised rfl
    have hunits := b.setUp_units (WorkingCopy.ofBytes b.stored.bytes)
    obtain ⟨hlength', hunheard', himages'⟩ := hunits
    rw [Blocks.raiseBlocked_frame] at e hans halarms hhalt hlength hunheard
    rw [hstart]
    refine ⟨?_, ?_, ?_, ?_, ?_⟩
    · refine .restored himage (m := m) ?_ ⟨hlength.trans hlength', hunheard hunheard', himages.trans himages'⟩ e
      rwa [e] at hmode
    · rw [e]
      exact hans.trans (congrArg (·.answers) hb)
    · rw [e]
      exact hhalt.trans (congrArg (·.halt) hb)
    · rw [e]
      exact halarms.trans (congrArg (·.alarms ++ _) hb)
    · rw [e]
      exact ⟨rfl, rfl, rfl, rfl⟩
  · have hread : b.readStore = { b with stored := { b.stored with valid := false } } := if_neg himage
    have hstart : b.readStore.startUp =
        (({ b with stored := { b.stored with valid := false } } : Blocks).setMode .configuring).mark .summary := by
      rw [hread]
      exact if_neg (by rw [show Blocks.inForce _ = none from hforce]; decide)
    rw [hstart]
    refine ⟨.bare himage rfl, ?_, ?_, ?_, rfl, rfl, rfl, rfl⟩
    · exact congrArg (·.answers) hb
    · exact congrArg (·.halt) hb
    · have hblocked : b.blockedLines = [] := Blocks.blockedLines_of_none hlines
      exact (congrArg (·.alarms) hb).trans (congrArg (List.map (disagreementRaise b.clock)) hblocked).symm

end Sys2Proof.Machine
end

section

namespace Sys2Proof.Machine

/-! PROOF. What stands once the event of a restart has ended (R129, R169, R172, R173). -/

theorem Blocks.anew_lineRec (b : Blocks) (xs : List AlarmRec) (o : Bool) (n k : Nat) :
    (b.anew xs o n).lineRec k = none := by
  show ((List.replicate 16 none)[k]?).join = none
  rw [List.getElem?_replicate]
  split <;> rfl

theorem Blocks.anew_routeRec (b : Blocks) (xs : List AlarmRec) (o : Bool) (n k : Nat) :
    (b.anew xs o n).routeRec k = none := by
  show ((List.replicate 48 none)[k]?).join = none
  rw [List.getElem?_replicate]
  split <;> rfl

section

variable {b d : Blocks} {xs : List AlarmRec} {o : Bool} {n : Nat} (h : (b.anew xs o n).StartedUp d)

include h

theorem Blocks.StartedUp.stands : d.clock = 0 ∧ d.key = b.key ∧ d.load = LoadRec.empty ∧ d.running = none ∧
    d.writes = [] ∧ d.waiting = [] ∧ d.arms = [] ∧ d.routes = List.replicate 48 none := by
  cases h with
  | restored _ _ _ hd =>
    subst hd
    exact ⟨rfl, rfl, rfl, rfl, rfl, rfl, rfl, rfl⟩
  | bare _ hd =>
    subst hd
    exact ⟨rfl, rfl, rfl, rfl, rfl, rfl, rfl, rfl⟩

theorem Blocks.StartedUp.mode : d.mode ≠ .halted ∧ (d.inForce = none → d.mode = .configuring) := by
  cases h with
  | restored _ hmode _ hd =>
    subst hd
    exact ⟨by rcases hmode with rfl | rfl <;> nofun, nofun⟩
  | bare _ hd =>
    subst hd
    exact ⟨nofun, fun _ => rfl⟩

/-- R173: the stored image that holds is in force, with the records set up from it. -/
theorem Blocks.StartedUp.image (himage : b.holdsImage) :
    d.inForce = some (WorkingCopy.ofBytes b.stored.bytes) ∧
      d.Restored (WorkingCopy.ofBytes b.stored.bytes).image b.persistent ∧ (d.mode = .observing ∨ d.mode = .service) := by
  cases h with
  | restored _ hmode hunits hd =>
    have hset := Blocks.setUp_restored (b := b.anew xs o n) (w := WorkingCopy.ofBytes b.stored.bytes) rfl
    refine ⟨by rw [hd]; rfl, hset.polled d hd hunits, by rw [hd]; exact hmode⟩
  | bare hno _ => exact absurd himage hno

theorem Blocks.StartedUp.noImage (himage : ¬ b.holdsImage) : d.inForce = none ∧ d.stored.valid = false := by
  cases h with
  | restored hyes _ _ _ => exact absurd hyes himage
  | bare _ hd =>
    subst hd
    exact ⟨rfl, rfl⟩

/-- A restart's event has nothing to follow up. -/
theorem Blocks.StartedUp.quiet (hhalt : d.work.halt = false) : d.quiet := by
  cases h with
  | restored _ _ _ hd =>
    subst hd
    exact ⟨(b.anew xs o n).setUp_routeRec (WorkingCopy.ofBytes b.stored.bytes),
      (b.anew xs o n).setUp_reception (WorkingCopy.ofBytes b.stored.bytes), .inl rfl, hhalt⟩
  | bare _ hd =>
    subst hd
    refine ⟨b.anew_routeRec xs o n, fun k => ?_, .inl rfl, hhalt⟩
    show ((b.anew xs o n).lineRec k).bind (·.reception) = none
    rw [b.anew_lineRec]
    rfl

theorem Blocks.StartedUp.lineRec_lt {k : Nat} {l : LineRec} (hl : d.lineRec k = some l) : k < 16 := by
  by_contra hk
  cases h with
  | restored _ _ _ hd =>
    subst hd
    exact nomatch hl.symm.trans ((b.anew xs o n).setUp_lineRec_none
      (WorkingCopy.ofBytes b.stored.bytes) (Nat.not_lt.mp hk))
  | bare _ hd =>
    subst hd
    exact nomatch hl.symm.trans (b.anew_lineRec xs o n k)

end

/-- Blocks d are what the event of a restart leaves of blocks b, the alarm list xs being kept through it. -/
structure Blocks.Restarted (b : Blocks) (xs : List AlarmRec) (o : Bool) (n : Nat) (d : Blocks) : Prop where
  started : (b.anew xs o n).StartedUp d
  disagrees : d.Disagrees xs d.blockedLines.reverse
  overflow : d.overflow = o
  kept : d.blockedLines = [] → d.alarms = xs ∧ d.alarmCounter = n

/-- The hand-offs of a start-up that its event enters. -/
def Work.OfStartUp (k : Work) (ns : List Nat) : Prop :=
  k.answers = [] ∧ k.halt = false ∧ k.alarms = ns.map (disagreementRaise 0)

theorem State.finish_restarted (s : State) (p : Port) {b c : Blocks} {xs : List AlarmRec} {o : Bool} {n : Nat}
    (hc : (b.anew xs o n).StartedUp c) (hwork : c.work.OfStartUp c.blockedLines) (halarms : c.alarms = xs)
    (hoverflow : c.overflow = o) (hcounter : c.alarmCounter = n) (hfree : c.freeIndex = s.blocks.freeIndex)
    (hlapsed : ∀ a ∈ xs, a.state = .lapsed) : b.Restarted xs o n (s.finish p c.settle).blocks := by
  obtain ⟨hans, hhalt, hraises⟩ := hwork
  have hfine : (Port.writeAnswers c.clock p c.work.answers).2 = false := by
    rw [hans]
    rfl
  obtain ⟨as, m, k, hentered⟩ := c.enterAlarms_eq
  have hquiet : c.enterAlarms.quiet := by
    rw [hentered]
    exact hc.quiet hhalt
  have hblocks := (Blocks.After.of_event s p c hfree hfine).quiet hquiet
  have hdis := Blocks.enterAlarms_disagrees hraises c.nodup_blockedLines
    (c.length_blockedLines.trans (by decide)) (by rw [halarms]; exact hlapsed)
  have hnone : c.blockedLines = [] → c.enterAlarms = c := fun h =>
    c.enterAlarms_none (by rw [hraises, h]; rfl)
  rw [halarms, hoverflow] at hdis
  rw [hblocks, hentered]
  rw [hentered] at hdis hnone
  obtain ⟨⟨hentries, hraised, hcount⟩, hover⟩ := hdis
  refine ⟨hc.ended _ _ _ _ _, ⟨hentries, hraised, hcount⟩, hover, fun h => ?_⟩
  have hsame := hnone h
  exact ⟨(congrArg (·.alarms) hsame).trans halarms, (congrArg (·.alarmCounter) hsame).trans hcounter⟩

end Sys2Proof.Machine
end

section

namespace Sys2Proof.Machine

/-! PROOF. HARD_RESTART (R182, R195). -/

/-- R172, R173: a start-up from the base of a restart. -/
theorem Blocks.anew_startUp (b : Blocks) (xs : List AlarmRec) (o : Bool) (n : Nat) :
    (b.anew xs o n).StartedUp (b.anew xs o n).readStore.startUp ∧
      (b.anew xs o n).readStore.startUp.work.OfStartUp (b.anew xs o n).readStore.startUp.blockedLines ∧
      (b.anew xs o n).readStore.startUp.alarms = xs ∧ (b.anew xs o n).readStore.startUp.overflow = o ∧
      (b.anew xs o n).readStore.startUp.alarmCounter = n ∧
      (b.anew xs o n).readStore.startUp.freeIndex = b.freeIndex := by
  obtain ⟨hstarted, hans, hhalt, hraises, hlist⟩ := (b.anew xs o n).startUp_frame rfl rfl (b.anew_lineRec xs o n)
  exact ⟨hstarted, ⟨hans, hhalt, hraises⟩, hlist⟩

/-- R182: the event of a restart, whichever mirror records it marks. -/
theorem State.finish_startUp (s : State) (p : Port) {b : Blocks} (xs : List AlarmRec) (o : Bool) (n : Nat) (k : Work)
    (hk : k.OfStartUp (b.anew xs o n).readStore.startUp.blockedLines) (hfree : b.freeIndex = s.blocks.freeIndex)
    (hlapsed : ∀ a ∈ xs, a.state = .lapsed) : b.Restarted xs o n
      (s.finish p ({ (b.anew xs o n).readStore.startUp with work := k } : Blocks).settle).blocks := by
  obtain ⟨hstarted, -, halarms, hoverflow, hcounter, hfree'⟩ := b.anew_startUp xs o n
  exact State.finish_restarted s p (hstarted.ended _ _ _ _ k) hk halarms hoverflow hcounter (hfree'.trans hfree) hlapsed

/-- R182: a restart's event hands no answer on. -/
theorem Blocks.anew_settle_answers (b : Blocks) (xs : List AlarmRec) (o : Bool) (n : Nat) :
    (b.anew xs o n).readStore.startUp.settle.work.answers = [] := by
  obtain ⟨hstarted, ⟨hans, hhalt, -⟩, -⟩ := b.anew_startUp xs o n
  rw [Blocks.settle_of_quiet _ (hstarted.quiet hhalt)]
  exact hans

namespace Blocks.Restarted

variable {b d : Blocks} {xs : List AlarmRec} {o : Bool} {n : Nat}

/-- R129: a line that is BLOCKED after the restart has its alarm. -/
theorem raised (h : b.Restarted xs o n d) {k : Nat} {l : LineRec} (hl : d.lineRec k = some l)
    (ht : l.token = some .blocked) :
    ∃ a ∈ d.alarms, a.kind = .tokenDisagreement ∧ a.element = .line k ∧ a.state = .standing :=
  h.disagrees.raised k (List.mem_reverse.mpr (Blocks.mem_blockedLines.mpr ⟨h.started.lineRec_lt hl, l, hl, ht⟩))

/-- R169: an entry of the list is one kept, and LAPSED, or stands for a line that is BLOCKED. -/
theorem entry (h : b.Restarted xs o n d) {a : AlarmRec} (ha : a ∈ d.alarms) : (a ∈ xs ∧ a.state = .lapsed) ∨
    (a.kind = .tokenDisagreement ∧ a.state = .standing ∧
      ∃ k l, a.element = .line k ∧ d.lineRec k = some l ∧ l.token = some .blocked) := by
  refine (h.disagrees.entries a ha).imp_right fun ⟨hkind, hstate, k, hk, helement⟩ => ⟨hkind, hstate, ?_⟩
  obtain ⟨-, l, hl, ht⟩ := Blocks.mem_blockedLines.mp (List.mem_reverse.mp hk)
  exact ⟨k, l, helement, hl, ht⟩

/-- R173: the stored image that no lost commit has spoilt. -/
theorem image (h : b.loseWrites.Restarted xs o n d) (hrun : ∀ c, b.running ≠ some (.commit c))
    (himage : b.holdsImage) : d.inForce = some (WorkingCopy.ofBytes b.stored.bytes) ∧
      d.Restored (WorkingCopy.ofBytes b.stored.bytes).image b.persistent ∧
      (d.mode = .observing ∨ d.mode = .service) := by
  have hstarted := h.started.image (b.loseWrites_holdsImage.mpr ⟨hrun, himage⟩)
  rwa [b.loseWrites_kept hrun] at hstarted

/-- R173, R179: no image that holds is stored. -/
theorem noImage (h : b.loseWrites.Restarted xs o n d)
    (hno : (∃ c, b.running = some (.commit c)) ∨ b.stored.valid = false ∨
      imageCrc b.stored.bytes ≠ imageCrcField b.stored.bytes) : d.inForce = none ∧ d.stored.valid = false := by
  refine h.started.noImage fun himage => ?_
  obtain ⟨hrun, hvalid, hcrc⟩ := b.loseWrites_holdsImage.mp himage
  rcases hno with ⟨c, hc⟩ | hinvalid | hbad
  · exact hrun c hc
  · exact Bool.false_ne_true (hinvalid.symm.trans hvalid)
  · exact hbad hcrc

end Blocks.Restarted

theorem Blocks.readStore_freeIndex (b : Blocks) : b.readStore.freeIndex = b.freeIndex := by
  unfold Blocks.readStore
  split <;> rfl

/-- R182: the blocks after a hard restart. -/
theorem State.hardRestart_restarted (s : State) : s.blocks.loseWrites.Restarted [] false 1 s.hardRestart.blocks := by
  obtain ⟨-, hwork, -⟩ := s.blocks.loseWrites.anew_startUp [] false 1
  unfold State.hardRestart
  refine State.finish_startUp _ _ [] false 1 _ hwork ?_ nofun
  exact (s.blocks.loseWrites.hardBase.readStore_freeIndex).symm

/-- An event without answers, on a port with an empty intake list and nothing handed on. -/
theorem State.finish_idle (s : State) (p : Port) {b : Blocks} (hans : b.work.answers = []) (hintake : p.intake = [])
    (hhanded : p.handed = none) : (s.finish p b).port.mask = p.mask ∧ (s.finish p b).port.inFlight = p.inFlight ∧
      (s.finish p b).port.strayMark = p.strayMark ∧ (s.finish p b).port.intake = [] ∧
      (s.finish p b).port.handed = none := by
  obtain ⟨hmask, hflight, hstray, -, -, -, hlists⟩ := s.finish_port p b
  rw [hans] at hflight
  refine ⟨hmask, hflight, hstray, ?_⟩
  rcases hlists with ⟨hin, hh⟩ | hempty
  · exact ⟨hin.trans hintake, hh.trans hhanded⟩
  · exact hempty

/-- R195: nothing is in flight where no mark is set. -/
theorem Port.isInFlight_of_blank {p : Port} (h : p.inFlight = List.replicate 32 false) (c : Nat) :
    p.isInFlight c = false := by
  unfold Port.isInFlight
  rw [h, List.getD_eq_getElem?_getD, getD_replicate_false]

/-- R195: a byte of the cells or of the staging area after the initialisation. -/
theorem Port.initialise_byteAt (p : Port) (b : Blocks) {x : Nat} (h : 0x200 ≤ x ∧ x < 0x1200 ∨ 0x8000 ≤ x ∧ x < 0xC000) :
    Exchange.mirrorRange x = false ∧ (p.initialise b).byteAt x = 0 := by
  have hmirror : Exchange.mirrorRange x = false := by
    unfold Exchange.mirrorRange
    simp only [Bool.or_eq_false_iff, Bool.and_eq_false_imp, decide_eq_true_eq, decide_eq_false_iff_not]
    omega
  have hinit : Exchange.initialised x = true := by
    unfold Exchange.initialised
    simp only [Bool.or_eq_true, Bool.and_eq_true, decide_eq_true_eq]
    exact h
  have hblank : Exchange.blank x = 0 := by
    unfold Exchange.blank
    rcases h with h | h
    · rw [if_neg (by omega), if_neg (by omega), if_neg (by omega), if_pos h.2]
    · iterate 14 rw [if_neg (by omega)]
  refine ⟨hmirror, ?_⟩
  unfold Port.byteAt
  rw [hmirror]
  refine (Memory.read_filter p.hostMem (fun a => !Exchange.initialised a) x).trans ?_
  rw [hinit]
  exact hblank

/-- R195: the port after an event without answers that the initialisation begins. -/
theorem State.finish_initialised (s : State) (q : Port) (r : Blocks) {b : Blocks} (hans : b.work.answers = []) :
    (s.finish (q.initialise r) b).port.mask = 0 ∧ (s.finish (q.initialise r) b).port.intake = [] ∧
      (s.finish (q.initialise r) b).port.inFlight = List.replicate 32 false ∧
      (s.finish (q.initialise r) b).port.handed = none ∧ (s.finish (q.initialise r) b).port.strayMark = false ∧
      ∀ x, 0x200 ≤ x ∧ x < 0x1200 ∨ 0x8000 ≤ x ∧ x < 0xC000 → (s.finish (q.initialise r) b).port.byteAt x = 0 := by
  obtain ⟨hmask, hflight, hstray, hintake, hhanded⟩ := s.finish_idle (q.initialise r) hans rfl rfl
  refine ⟨hmask, hintake, hflight, hhanded, hstray, fun x hx => ?_⟩
  obtain ⟨hmirror, hzero⟩ := q.initialise_byteAt r hx
  refine (s.finish_byte _ b x hmirror fun c hc => ?_).trans hzero
  rw [Port.isInFlight_of_blank rfl] at hc
  cases hc

/-- R195: the port after a hard restart. -/
theorem State.hardRestart_port (s : State) : s.hardRestart.port.mask = 0 ∧ s.hardRestart.port.intake = [] ∧
    s.hardRestart.port.inFlight = List.replicate 32 false ∧ s.hardRestart.port.handed = none ∧
    s.hardRestart.port.strayMark = false ∧
    ∀ x, 0x200 ≤ x ∧ x < 0x1200 ∨ 0x8000 ≤ x ∧ x < 0xC000 → s.hardRestart.port.byteAt x = 0 := by
  have hans := s.blocks.loseWrites.anew_settle_answers [] false 1
  rw [← Blocks.hardBase_eq] at hans
  unfold State.hardRestart
  exact State.finish_initialised _ _ _ hans

/-- Settles O17: the start-up's event has nothing to follow up, and its only alarms are those of the lines BLOCKED. -/
theorem hardRestartStartsAnew : Obligations.HardRestartStartsAnew := by
  unfold Obligations.HardRestartStartsAnew
  intro s
  have h := s.hardRestart_restarted
  obtain ⟨hclock, hkey, hload, hrunning, hwrites, hwaiting, harms, hroutes⟩ := h.started.stands
  obtain ⟨hmode, hconfiguring⟩ := h.started.mode
  obtain ⟨hmask, hintake, hflight, hhanded, hstray, hbytes⟩ := s.hardRestart_port
  refine ⟨rfl, hkey.trans s.blocks.loseWrites_stands.1, hclock, hmode, hload, hrunning, hwrites, hwaiting, harms,
    hroutes, hmask, hintake, hflight, hhanded, hstray, hconfiguring,
    fun hrun hvalid hcrc => h.image hrun ⟨hvalid, hcrc⟩, h.noImage, fun a ha => ?_, fun n l hl ht => ?_, h.overflow,
    hbytes, rfl⟩
  · exact (h.entry ha).resolve_left fun hin => nomatch hin.1
  · obtain ⟨a, ha, hkind, helement, -⟩ := h.raised hl ht
    exact ⟨a, ha, hkind, helement⟩

end Sys2Proof.Machine
end

section

namespace Sys2Proof.Machine

/-! PROOF. RESTART (R182, R196): the cells answered, the blocks started anew, the alarm list kept. -/

/-! ### The cells (R196) -/

/-- What one step of a fold establishes and the others keep. -/
theorem foldl_establishes {α β : Type} {P : α → Prop} (g : α → β → α) {c : β} (hat : ∀ p, P (g p c))
    (hkeep : ∀ p d, P p → P (g p d)) (l : List β) : ∀ p, c ∈ l → P (l.foldl g p) := by
  induction l with
  | nil => intro p h; cases h
  | cons d l ih =>
    intro p h
    rcases List.mem_cons.mp h with rfl | h
    · exact List.foldlRecOn l g (motive := P) (hat p) fun p hp d _ => hkeep p d hp
    · exact ih _ h

/-- R196: a cell answered RESTARTED that was never taken: its taken-at is the answer time. -/
def Port.untakenAt (p : Port) (now : Clock) (c : Nat) : Prop :=
  p.restartedAt now c ∧ ∀ i < 4, p.hostMem.read (cellAddr c + 4 + i) = (clockBytes now).getD i 0

theorem clockBytes_length (t : Clock) : (clockBytes t).length = 4 := by simp [clockBytes]

/-- The answer to one cell leaves every byte of another. -/
theorem Port.answer_off (p : Port) (now : Clock) {c d i : Nat} (hd : d ≠ c) (hi : i < 128) :
    (Port.answerRestarted now p d).hostMem.read (cellAddr c + i) = p.hostMem.read (cellAddr c + i) ∧
      (Port.answerUntaken now p d).hostMem.read (cellAddr c + i) = p.hostMem.read (cellAddr c + i) := by
  have hapart := cellAddr_apart hd
  have hanswer : ∀ q : Port, (Port.answerRestarted now q d).hostMem.read (cellAddr c + i) =
      q.hostMem.read (cellAddr c + i) := fun q => Port.read_writeAnswer_off _ _ _ _ (by dsimp only; omega)
  refine ⟨hanswer p, (hanswer _).trans ?_⟩
  rw [Memory.read_write, if_neg (by rw [clockBytes_length]; omega)]

theorem Port.untakenAt_answer (p : Port) (now : Clock) (c : Nat) : (Port.answerUntaken now p c).untakenAt now c := by
  refine ⟨Port.restartedAt_answer _ now c, fun i hi => ?_⟩
  unfold Port.answerUntaken Port.answerRestarted
  rw [Port.read_writeAnswer, if_neg (by dsimp only; omega), if_neg (by dsimp only; omega),
    if_neg (by dsimp only; omega), Memory.read_write, if_pos (by rw [clockBytes_length]; omega)]
  exact congrArg (List.getD _ · 0) (show cellAddr c + 4 + i - (cellAddr c + 4) = i by omega)

theorem Port.untakenAt_other (p : Port) (now : Clock) (c d : Nat) (h : p.untakenAt now c) :
    (Port.answerUntaken now p d).untakenAt now c := by
  by_cases hd : d = c
  · subst hd
    exact p.untakenAt_answer now d
  · refine ⟨p.restartedAt_untaken now c d h.1, fun i hi => ?_⟩
    rw [Nat.add_assoc, (p.answer_off now hd (by omega)).2, ← Nat.add_assoc]
    exact h.2 i hi

theorem Port.mem_postedCells {p : Port} {c : Nat} : c ∈ p.postedCells ↔
    c ∈ p.intake ∧ p.isInFlight c = false ∧ p.hostMem.read (cellAddr c) = 1 := by
  unfold Port.postedCells
  rw [List.mem_filter]
  simp only [Bool.and_eq_true, Bool.not_eq_true', beq_iff_eq]

theorem Port.mem_openCells {p : Port} {c : Nat} : c ∈ p.openCells ↔ c < 32 ∧ p.isInFlight c = true := by
  unfold Port.openCells
  rw [List.mem_filter, List.mem_range]

/-- R196: an announced and POSTED cell that was never taken. -/
theorem Port.answerAll_untaken (p : Port) (now : Clock) {c : Nat} (h : c ∈ p.postedCells) :
    (p.answerAll now).untakenAt now c :=
  foldl_establishes (P := fun q => q.untakenAt now c) (Port.answerUntaken now)
    (fun q => q.untakenAt_answer now c) (fun q d => q.untakenAt_other now c d) _ _ h

/-- Writes to cells other than c leave a byte of c. -/
theorem Port.foldl_off {c x : Nat} (g : Port → Nat → Port)
    (hg : ∀ q d, d ≠ c → (g q d).hostMem.read x = q.hostMem.read x) {l : List Nat} (hl : c ∉ l) (q : Port) :
    (l.foldl g q).hostMem.read x = q.hostMem.read x :=
  List.foldlRecOn l g (motive := fun r => r.hostMem.read x = q.hostMem.read x) rfl
    fun r hr d hd => (hg r d fun e => hl (e ▸ hd)).trans hr

/-- R196: every other cell is left. -/
theorem Port.answerAll_left (p : Port) (now : Clock) {c i : Nat} (hopen : c ∉ p.openCells) (hposted : c ∉ p.postedCells)
    (hi : i < 128) : (p.answerAll now).hostMem.read (cellAddr c + i) = p.hostMem.read (cellAddr c + i) :=
  (Port.foldl_off (Port.answerUntaken now) (fun q _ hd => (q.answer_off now hd hi).2) hposted _).trans
    (Port.foldl_off (Port.answerRestarted now) (fun q _ hd => (q.answer_off now hd hi).1) hopen p)

/-! ### The alarm list (R169) -/

/-- R169: the alarm list that a soft restart keeps. -/
theorem Blocks.endAllAlarms_lapsed (b : Blocks) (t : Clock) : ∀ a ∈ (b.endAllAlarms t).alarms, a.state = .lapsed := by
  intro a ha
  obtain ⟨x, hx, rfl⟩ := List.mem_map.mp ha
  have hstate := of_decide_eq_true (List.mem_filter.mp hx).2
  cases hs : x.state with
  | standing => rfl
  | accepted => exact absurd hs hstate
  | lapsed => exact hs

/-! ### The event of a soft restart (R182) -/

/-- The blocks that a soft restart's event begins with: started up, and every mirror record marked. -/
def Blocks.softStart (b : Blocks) : Blocks :=
  { b.softBase.readStore.startUp with work := { b.softBase.readStore.startUp.work with dirty := allRecords } }

/-- What the mirrors marked are has no part in the follow-ups. -/
theorem Blocks.settle_marked {c : Blocks} (h : c.quiet) (rs : List MirrorRec) :
    ({ c.settle with work := { c.settle.work with dirty := rs } } : Blocks) =
      ({ c with work := { c.work with dirty := rs } } : Blocks).settle := by
  have hmarked : ({ c with work := { c.work with dirty := rs } } : Blocks).quiet := h
  rw [Blocks.settle_of_quiet _ h, Blocks.settle_of_quiet _ hmarked]
  rfl

theorem Blocks.softStart_quiet (b : Blocks) : b.softBase.readStore.startUp.quiet ∧
    b.softStart.settle.work.answers = [] := by
  obtain ⟨hstarted, ⟨hans, hhalt, -⟩, -⟩ := b.anew_startUp (b.endAllAlarms 0).alarms b.overflow b.alarmCounter
  rw [← Blocks.softBase_eq] at hstarted hans hhalt
  have hquiet := hstarted.quiet hhalt
  refine ⟨hquiet, ?_⟩
  unfold Blocks.softStart
  rw [← Blocks.settle_marked hquiet, Blocks.settle_of_quiet _ hquiet]
  exact hans

theorem State.softRestart_eq (s : State) :
    s.softRestart = s.finish (s.port.answerAll s.blocks.clock) s.blocks.loseWrites.softStart.settle :=
  congrArg (s.finish _) (Blocks.settle_marked s.blocks.loseWrites.softStart_quiet.1 allRecords)

/-- R169, R182: the blocks after a soft restart. -/
theorem State.softRestart_restarted (s : State) : s.blocks.loseWrites.Restarted (s.blocks.endAllAlarms 0).alarms
    s.blocks.overflow s.blocks.alarmCounter s.softRestart.blocks := by
  obtain ⟨-, hfree, halarms, hoverflow, hcounter⟩ := s.blocks.loseWrites_stands
  have hended : (s.blocks.loseWrites.endAllAlarms 0).alarms = (s.blocks.endAllAlarms 0).alarms := by
    unfold Blocks.endAllAlarms
    rw [halarms]
  obtain ⟨-, ⟨hans, hhalt, hraises⟩, -⟩ := s.blocks.loseWrites.anew_startUp (s.blocks.endAllAlarms 0).alarms
    s.blocks.overflow s.blocks.alarmCounter
  have hbase := s.blocks.loseWrites.softBase_eq
  rw [hended, hoverflow, hcounter] at hbase
  rw [s.softRestart_eq]
  unfold Blocks.softStart
  rw [hbase]
  exact State.finish_startUp s _ _ _ _ _ ⟨hans, hhalt, hraises⟩ hfree (s.blocks.endAllAlarms_lapsed 0)

/-- R182, R196: the port after a soft restart is that after the answers, but for the mirrors and the notices. -/
theorem State.softRestart_port (s : State) (h : s.port.inFlight.length = 32) :
    s.softRestart.port.mask = s.port.mask ∧ s.softRestart.port.intake = [] ∧ s.softRestart.port.handed = none ∧
      (∀ c, s.softRestart.port.isInFlight c = false) ∧
      ∀ c i, c < 32 → i < 128 → s.softRestart.port.byteAt (cellAddr c + i) =
        (s.port.answerAll s.blocks.clock).hostMem.read (cellAddr c + i) := by
  have hclosed := s.port.answerAll_closed s.blocks.clock h
  obtain ⟨q, hanswered, hall⟩ := Port.Answered.answerAll s.port s.blocks.clock
  rw [s.softRestart_eq]
  obtain ⟨hmask, hflight, -, hintake, hhanded⟩ := s.finish_idle (s.port.answerAll s.blocks.clock)
    s.blocks.loseWrites.softStart_quiet.2 (by rw [hall]) (by rw [hall])
  refine ⟨hmask.trans (by rw [hall]; exact hanswered.mask), hintake, hhanded, fun c => ?_, fun c i hc hi => ?_⟩
  · unfold Port.isInFlight
    rw [hflight]
    exact hclosed c
  · refine (s.finish_byte _ _ _ (cell_not_mirror c i hc hi) fun d hd => ?_).trans (Port.byteAt_cell _ c i hc hi)
    rw [hclosed d] at hd
    cases hd

theorem exec_restart_asleep {s : State} (h : s.asleep = true) : exec .restart s = .next s := if_pos h

theorem exec_restart_awake {s : State} (h : s.asleep = false) : exec .restart s = .next s.softRestart :=
  if_neg (by rw [h]; nofun)

/-- R196: what the cells hold after a soft restart. -/
theorem State.softRestart_cells (s : State) (h : s.port.inFlight.length = 32) {c : Nat} (hc : c < 32) :
    (s.port.isInFlight c = true ∨ c ∈ s.port.intake ∧ s.port.byteAt (cellAddr c) = 1 →
      s.softRestart.port.byteAt (cellAddr c) = 3 ∧
        s.softRestart.port.byteAt (cellAddr c + 2) = byte CellOutcome.restarted.code ∧
        (∀ i < 4, s.softRestart.port.byteAt (cellAddr c + 8 + i) = (clockBytes s.blocks.clock).getD i 0) ∧
        (s.port.isInFlight c = false →
          ∀ i < 4, s.softRestart.port.byteAt (cellAddr c + 4 + i) = (clockBytes s.blocks.clock).getD i 0)) ∧
    (s.port.isInFlight c = false → c ∉ s.port.intake ∨ s.port.byteAt (cellAddr c) ≠ 1 →
      ∀ i < 128, s.softRestart.port.byteAt (cellAddr c + i) = s.port.byteAt (cellAddr c + i)) := by
  obtain ⟨-, -, -, -, hbytes⟩ := s.softRestart_port h
  have hstatus : s.port.byteAt (cellAddr c) = s.port.hostMem.read (cellAddr c) :=
    Port.byteAt_cell _ c 0 hc (by decide)
  rw [hstatus]
  constructor
  · intro hopen
    have hposted : s.port.isInFlight c = false → (s.port.answerAll s.blocks.clock).untakenAt s.blocks.clock c :=
      fun hf => s.port.answerAll_untaken _ (Port.mem_postedCells.mpr
        ⟨(hopen.resolve_left (by rw [hf]; nofun)).1, hf, (hopen.resolve_left (by rw [hf]; nofun)).2⟩)
    have hat : (s.port.answerAll s.blocks.clock).restartedAt s.blocks.clock c := by
      cases hf : s.port.isInFlight c with
      | true => exact s.port.answerAll_open _ c hc hf
      | false => exact (hposted hf).1
    obtain ⟨-, hanswered, houtcome, htime⟩ := hat
    refine ⟨(hbytes c 0 hc (by decide)).trans hanswered, (hbytes c 2 hc (by decide)).trans houtcome,
      fun i hi => ?_, fun hf i hi => ?_⟩
    · rw [Nat.add_assoc, hbytes c (8 + i) hc (by omega), ← Nat.add_assoc]
      exact htime i hi
    · rw [Nat.add_assoc, hbytes c (4 + i) hc (by omega), ← Nat.add_assoc]
      exact (hposted hf).2 i hi
  · intro hf hno i hi
    rw [hbytes c i hc hi, Port.byteAt_cell _ c i hc hi]
    refine s.port.answerAll_left _ (fun hin => ?_) (fun hin => ?_) hi
    · exact Bool.false_ne_true (hf.symm.trans (Port.mem_openCells.mp hin).2)
    · obtain ⟨hin, -, hone⟩ := Port.mem_postedCells.mp hin
      exact hno.elim (fun h => h hin) (fun h => h hone)

/-- Settles O18: the cells are answered before the event of the start-up, which has nothing to follow up. -/
theorem softRestartAnswersEveryOpenCell : Obligations.SoftRestartAnswersEveryOpenCell := by
  unfold Obligations.SoftRestartAnswersEveryOpenCell
  refine fun s => ⟨exec_restart_asleep, fun hawake hlength => ?_⟩
  rw [exec_restart_awake hawake]
  have h := s.softRestart_restarted
  obtain ⟨hclock, hkey, -, hrunning, hwrites, hwaiting, harms, hroutes⟩ := h.started.stands
  obtain ⟨hmask, hintake, hhanded, hclosed, -⟩ := s.softRestart_port hlength
  refine ⟨hintake, hhanded, hclosed, fun c hc hopen => (s.softRestart_cells hlength hc).1 hopen,
    fun c hc hf hno => (s.softRestart_cells hlength hc).2 hf hno, hclock, hwaiting, harms, hroutes, hwrites, hrunning,
    hkey.trans s.blocks.loseWrites_stands.1, hmask, fun hrun hvalid hcrc => ?_, h.noImage, fun hnone => ?_,
    fun n l hl ht => h.raised hl ht, h.overflow⟩
  · obtain ⟨hforce, hrestored, -⟩ := h.image hrun ⟨hvalid, hcrc⟩
    exact ⟨hforce, hrestored⟩
  · refine h.kept (List.eq_nil_iff_forall_not_mem.mpr fun n hn => ?_)
    obtain ⟨-, l, hl, ht⟩ := Blocks.mem_blockedLines.mp hn
    exact hnone n l hl ht

end Sys2Proof.Machine
end
